-- ==== Sys2Proof/Word.lean ====
section
/-! DEFINITION. The word types of the machine (spec/00 R6, R7): plain bit vectors, so that the library's lemmas apply. -/

namespace Sys2Proof

/-- A 64-bit register or memory word. -/
abbrev Word := BitVec 64

/-- One byte of memory. -/
abbrev Byte := BitVec 8

/-- One instruction word (R275). -/
abbrev Code := BitVec 32

/-- A party id (R80). -/
abbrev Party := BitVec 32

end Sys2Proof
end

