-- ==== Sys2Proof/Syntax.lean ====
section
/-! DEFINITION. The instructions and the operations and events of the device: one constructor for each row of
spec/opcode_table.json. Operand fields carry the kinds of R280 to R289, so the machine never sees a raw field. The rows without an
encoding carry the data that their rule needs: which unit, which agent, which request from outside. -/

namespace Sys2Proof

/-- The special sources of R283. -/
inductive Special where
  | sid | ctx | lcore | ltile | time | pc | npc | asid | priv | repj | psize | ntile
deriving DecidableEq, Repr

/-- A general source field (R282). -/
inductive Src where
  | g (n : Fin 128) | k (n : Fin 64) | zero | special (x : Special)
deriving DecidableEq, Repr

/-- A gdst field (R280): a register, or 192, which discards the result. -/
inductive GDst where
  | g (n : Fin 128) | discard
deriving DecidableEq, Repr

/-- The register part of a gdst+v field (R280). -/
abbrev GReg := Fin 128

/-- A register of the long-vector bank. -/
abbrev LReg := Fin 32

/-- A stack-vector register. -/
abbrev SvReg := Fin 8

/-- A long-vector source field (R289). -/
inductive LSrc where
  | lv (n : Fin 32) | g (n : Fin 96) | k (n : Fin 64) | zero | special (x : Special)
deriving DecidableEq, Repr

/-- A stack-vector source field (R402). -/
inductive SvSrc where
  | sv (n : Fin 8) | g (n : Fin 96) | k (n : Fin 64) | zero | special (x : Special)
deriving DecidableEq, Repr

/-- The floating type bit (R288). -/
inductive FTy where
  | d | f
deriving DecidableEq, Repr

/-- The rounding modes (R232). -/
inductive Rm where
  | rn | rz | ru | rd
deriving DecidableEq, Repr

/-- The format codes 0 to 18 (R216). -/
inductive Fmt where
  | i8 | i16 | i32 | i64 | n8 | n16 | n32 | n64 | d | f | h | bf | e4m3 | e5m2 | e3m2 | e2m3 | e2m1 | mxi8 | e8m0
deriving DecidableEq, Repr

/-- The element type codes of a long vector (R289). -/
inductive LTy where
  | f | bf | h | i8 | i16 | i32 | e4m3 | e5m2
deriving DecidableEq, Repr

/-- The step of a scan or a reduction (R367, R403); code 3 is reserved. -/
inductive ScanOp where
  | add | min | max
deriving DecidableEq, Repr

/-- The operations of SVALU (R403). -/
inductive SvOp where
  | add | sub | mul | min | max | and | or | xor
deriving DecidableEq, Repr

/-- The wait and signal clauses of a long instruction (R279, R297). -/
structure Clauses where
  wait : Option (BitVec 8 × BitVec 8)
  sig  : Option (BitVec 8 × BitVec 4)
deriving DecidableEq, Repr

/-- The classes of execution agent (R182). -/
inductive AgentKind where
  | compute | stack | engine | mgmt
deriving DecidableEq, Repr

/-- The classes of agent that R290 gives a profile: an engine hart's profile depends on its engine. -/
inductive Cls where
  | compute | stack | mgmt | copyE | stencilE | collE | linkE
deriving DecidableEq, Repr

/-- An execution agent: a context of a compute core (unit: physical tile × 8 + quad × 4 + core), of a stack core (unit: physical
stack × 16 + stack core), of the management core (unit 0), or an engine hart (unit: physical tile × 5 + kick slot for a tile
engine, 90 + n for collective engine n, 98 + n for link engine n; context 0). -/
structure Agent where
  kind : AgentKind
  unit : Nat
  ctx  : Nat
deriving DecidableEq, Repr

/-- A packet of the Zumor fabric (R452): its header and payload; `marks` are the payload words that carry a poison mark, beside the packet in its
flits (R425; log entry 77). -/
structure Packet where
  tv      : Nat
  tc      : Nat
  typ     : Nat
  dst     : Nat
  src     : Nat
  asid    : Nat
  seq     : Nat
  va      : Word
  payload : List Word
  marks   : List Nat := []
deriving DecidableEq, Repr

/-- What firmware finds and sets at boot and re-initialisation (R3, R25, R53, R65, R67, R431): the units to enable as masks of physical ones,
and the failed entries of each core's register file, failed rows of each tile's accumulator store, spare ones counted behind the others. -/
structure Plant where
  tiles     : Nat
  stackSet    : Nat
  slices    : Nat
  localUnits : Nat
  links     : Nat
  coll      : Nat
  badRegs   : List (Nat × List Nat)
  badSRegs  : List (Nat × List Nat)
  badRows   : List (Nat × List Nat)
  chip      : Nat
deriving DecidableEq, Repr

/-- One constructor for each row of spec/opcode_table.json: the instructions in the table's order, then the events, those that carry
data first. -/
inductive Instr where
  -- integer instructions, R309 to R314
  | add (d : GDst) (a b : Src) | sub (d : GDst) (a b : Src) | mul (d : GDst) (a b : Src)
  | mulh (d : GDst) (a b : Src) | mulhu (d : GDst) (a b : Src)
  | div (d : GDst) (a b : Src) | divu (d : GDst) (a b : Src) | rem (d : GDst) (a b : Src) | remu (d : GDst) (a b : Src)
  | and (d : GDst) (a b : Src) | or (d : GDst) (a b : Src) | xor (d : GDst) (a b : Src) | andn (d : GDst) (a b : Src)
  | shl (d : GDst) (a b : Src) | shr (d : GDst) (a b : Src) | sar (d : GDst) (a b : Src) | ror (d : GDst) (a b : Src)
  | min (d : GDst) (a b : Src) | max (d : GDst) (a b : Src) | minu (d : GDst) (a b : Src) | maxu (d : GDst) (a b : Src)
  | seq (d : GDst) (a b : Src) | slt (d : GDst) (a b : Src) | sltu (d : GDst) (a b : Src)
  | sel (d : GDst) (a b : Src) | clz (d : GDst) (a : Src) | ctz (d : GDst) (a : Src) | popc (d : GDst) (a : Src)
  | bfx (d : GDst) (a b : Src) | bfi (d : GDst) (a b : Src) | brev (d : GDst) (a : Src)
  | adds (d : GDst) (a b : Src) | subs (d : GDst) (a b : Src) | addsu (d : GDst) (a b : Src) | subsu (d : GDst) (a b : Src)
  -- immediate instructions and NOP, R315, R316
  | li (d : GDst) (i : BitVec 16) | liz (d : GDst) (i : BitVec 16) | lsi (d : GDst) (i : BitVec 16)
  | addi (d : GDst) (i : BitVec 16) | andi (d : GDst) (i : BitVec 16) | ori (d : GDst) (i : BitVec 16)
  | xori (d : GDst) (i : BitVec 16) | shli (d : GDst) (i : BitVec 6) | shri (d : GDst) (i : BitVec 6)
  | sari (d : GDst) (i : BitVec 6) | slti (d : GDst) (i : BitVec 16) | nop
  -- packed instructions, R317
  | paddI8 (d : GDst) (a b : Src) | paddI16 (d : GDst) (a b : Src) | paddI32 (d : GDst) (a b : Src)
  | psubI8 (d : GDst) (a b : Src) | psubI16 (d : GDst) (a b : Src) | psubI32 (d : GDst) (a b : Src)
  | paddsI8 (d : GDst) (a b : Src) | paddsI16 (d : GDst) (a b : Src) | paddsI32 (d : GDst) (a b : Src)
  | psubsI8 (d : GDst) (a b : Src) | psubsI16 (d : GDst) (a b : Src) | psubsI32 (d : GDst) (a b : Src)
  -- scalar floating point, R318 to R324
  | fadd (r : Rm) (t : FTy) (d : GReg) (a b : Src) | fsub (r : Rm) (t : FTy) (d : GReg) (a b : Src)
  | fmul (r : Rm) (t : FTy) (d : GReg) (a b : Src) | fdiv (r : Rm) (t : FTy) (d : GReg) (a b : Src)
  | fma (r : Rm) (t : FTy) (d : GReg) (a b : Src) | fsqrt (r : Rm) (t : FTy) (d : GReg) (a : Src)
  | fcvt (r : Rm) (d : GReg) (a : Src) (s t : Fmt)
  | fmin (t : FTy) (d : GReg) (a b : Src) | fmax (t : FTy) (d : GReg) (a b : Src) | fcmp (t : FTy) (d : GReg) (a b : Src)
  | ffun (t : FTy) (d : GReg) (a : Src) (r : Rm) (fn : BitVec 6)
  -- loads, stores, synchronisation words, atomics, R333 to R341
  | ld8 (sx : Bool) (d : GReg) (a : Src) (o : BitVec 8) | ld16 (sx : Bool) (d : GReg) (a : Src) (o : BitVec 8)
  | ld32 (sx : Bool) (d : GReg) (a : Src) (o : BitVec 8) | ld64 (d : GReg) (a : Src) (o : BitVec 8)
  | st8 (d : Src) (a : Src) (o : BitVec 8) | st16 (d : Src) (a : Src) (o : BitVec 8)
  | st32 (d : Src) (a : Src) (o : BitVec 8) | st64 (d : Src) (a : Src) (o : BitVec 8)
  | lds (d : GDst) (a : Src) (o : BitVec 8) | stf (d : Src) (a : Src) (o : BitVec 8)
  | ldp (d : GDst) (a : Src) (o : BitVec 8) | ste (a : Src) (o : BitVec 8)
  | aadd (d : GDst) (a : Src) (o : BitVec 8) | aand (d : GDst) (a : Src) (o : BitVec 8) | aor (d : GDst) (a : Src) (o : BitVec 8)
  | amin (d : GDst) (a : Src) (o : BitVec 8) | amax (d : GDst) (a : Src) (o : BitVec 8) | axch (d : GDst) (a : Src) (o : BitVec 8)
  | acas (d : GDst) (a : Src) (o : BitVec 8)
  -- fences, monitors, semaphores, tokens of the base format, R342 to R353
  | fenceQ (d : GDst) | fenceT (d : GDst) | fenceD (d : GDst) | fenceS (d : GDst)
  | marm (d : GDst) (a : Src) (slot : Fin 4) | marmDis (d : GDst) (slot : Fin 4) | mwait (d : GDst) (a : Src)
  | semw (d : GDst) (a b : Src) | semsig (d : GDst) (a b : Src) | semrd (d : GDst) (a : Src) | semset (d : GDst) (a b : Src)
  | tret (d : GDst) (a : Src) | unshr (d : GDst) (a b : Src) | tqry (d : GDst) (a : Src)
  -- control flow, R326 to R330
  | bez (a : Src) (o : BitVec 16) | bnz (a : Src) (o : BitVec 16) | bltz (a : Src) (o : BitVec 16)
  | bgez (a : Src) (o : BitVec 16) | bgtz (a : Src) (o : BitVec 16) | blez (a : Src) (o : BitVec 16)
  | call (d : GDst) (o : BitVec 16) | jr (d : GDst) (a : Src) | rep (nm1 : BitVec 4) (km1 : BitVec 12) (st : BitVec 7)
  -- strand and system page, R347, R404 to R415
  | spawn (d : GDst) (a b : Src) | exit (a : Src) | yield | tbind (d : GDst) (a b : Src) | tunb (d : GDst) (a : Src)
  | rqput (d : GDst) (a b : Src) | rqtake (d : GDst) | rqtakeW (d : GDst) | migr (d : GDst) (a b : Src)
  | join (d : GDst) (a : Src) | leave (d : GDst) (a : Src) | gbar (d : GDst) (a : Src)
  | trap (a : Src) | rft | srr (d : GDst) (n : BitVec 16) | srw (d : Src) (n : BitVec 16) | halt | wait (a : Src)
  -- long vectors, R361 to R375
  | venter | vexit | vld (d : LReg) (a : Src) (o : BitVec 8) | vst (d : LReg) (a : Src) (o : BitVec 8)
  | vadd (t : LTy) (d : LReg) (a b : LSrc) | vsub (t : LTy) (d : LReg) (a b : LSrc) | vmul (t : LTy) (d : LReg) (a b : LSrc)
  | vfma (t : LTy) (d : LReg) (a b : LSrc) | vmin (t : LTy) (d : LReg) (a b : LSrc) | vmax (t : LTy) (d : LReg) (a b : LSrc)
  | vcmp (t : LTy) (d : LReg) (a b : LSrc) | vsel (t : LTy) (d : LReg) (a b : LSrc) | vand (t : LTy) (d : LReg) (a b : LSrc)
  | vor (t : LTy) (d : LReg) (a b : LSrc) | vxor (t : LTy) (d : LReg) (a b : LSrc) | vshf (t : LTy) (d : LReg) (a b : LSrc)
  | vred (t : LTy) (d : LReg) (a : LSrc) (lg : BitVec 4) (op : ScanOp)
  | vscan (t : LTy) (d : LReg) (a : LSrc) (ex : Bool) (lg : BitVec 4) (op : ScanOp)
  | vperm (t : LTy) (d : LReg) (a b : LSrc) | vsf (t : LTy) (d : LReg) (a : LSrc) (r : Rm) (fn : BitVec 6)
  | vcvt (t : LTy) (d : LReg) (a : LSrc) (s : LTy) (r : Rm) (part : BitVec 3)
  | vqnt (d : LReg) (a : LSrc) (s : LTy) (r : Rm) (f : Fin 6) | vdq (t : LTy) (d : LReg) (a : LSrc) (r : Rm) (f : Fin 6)
  | vdot (t : LTy) (d : LReg) (a : LReg) (s : LTy) (sat : Bool) | vmma (t : LTy) (d : LReg) (c : BitVec 3) (a b : LReg)
  | vmovg (d : GDst) (a : LReg) (b : Src) | vmovv (d : LReg) (a b : Src)
  -- mesh, R377 to R388 (long format)
  | mfmt (d : GDst) (a : Src) (c : Clauses) | pload (d : GDst) (a : Src) (c : Clauses) | pswap (d : GDst) (c : Clauses)
  | mpass (d : GDst) (a b : Src) (c : Clauses) | mtran (d : GDst) (a b : Src) (c : Clauses) | mprobe (d : GDst) (c : Clauses)
  | aclr (d : GDst) (a b : Src) (c : Clauses) | ard (t : LTy) (d : LReg) (a : Src) (x : Bool) (c : Clauses)
  | awr (d : GDst) (a : LSrc) (b : Src) (x : Bool) (c : Clauses) | mstat (d : GDst) (a : Src) (c : Clauses)
  -- kicks and long token instructions, R349, R394
  | cpy (d : GDst) (a b : Src) (c : Clauses) | cpy2d (d : GDst) (a b : Src) (c : Clauses) | cpyg (d : GDst) (a b : Src) (c : Clauses)
  | stdec (d : GDst) (a : Src) (c : Clauses)
  | lend (d : GDst) (a b : Src) (c : Clauses) | lendGive (d : GDst) (a b : Src) (c : Clauses) | share (d : GDst) (a b : Src) (c : Clauses)
  | split (d : GDst) (a b : Src) (c : Clauses) | merge (d : GDst) (a b : Src) (c : Clauses) | kick (d : GDst) (a b : Src) (c : Clauses)
  -- stack profile, R402, R403
  | svld (d : SvReg) (a : Src) (o : BitVec 8) | svst (d : SvReg) (a : Src) (o : BitVec 8)
  | sgath (t : LTy) (d : SvReg) (a : Src) (i : SvReg) | sscat (t : LTy) (d : SvReg) (a : Src) (i : SvReg)
  | sscan (t : LTy) (d : SvReg) (a : Src) (ex : Bool) (op : ScanOp) (v : SvReg)
  | sred (d : GDst) (a : SvReg) (t : LTy) (op : ScanOp) | scmpr (t : LTy) (d : SvReg) (a m : SvReg)
  | shist (d : Src) (a : SvReg) (b : Src) | ssort (t : LTy) (d : SvReg) (k : BitVec 8) (desc : Bool) (j : BitVec 4)
  | svalu (t : LTy) (op : SvOp) (d : SvReg) (a : SvReg) (b : SvSrc)
  -- engine page, R398 to R400
  | blkrd (d : GDst) (a b : Src) | blkwr (d : GDst) (a b : Src) | blkred (d : GDst) (a b : Src) | lsend (d : GDst) (a b : Src)
  | jrot (d : GDst) (a : Src) | gphase (d : GDst) (a b : Src) | phq (d : GDst) | svnrm (d : GDst) | stwr (d : GDst) (a b : Src)
  -- events that carry data: arrivals and completions, R35, R125, R165, R98, R142 to R147
  | walkReturn (unit asid vpage : Nat)
  | resultArrival (a : Agent) (ds : List (Nat × Word)) (fl vf : BitVec 6)
  | fenceEcho (a : Agent) (slice : Nat)
  | transferComplete (key : Nat)
  | atomicFill (a : Agent) (loc : Nat) (v : Word) | overflowForward (home : Nat) | hostFillBound (id : Nat)
  | engineBusyRetry (e : Nat)
  -- waits, traps, reports, R150, R189, R199, R202, R421
  | mwaitTimeout (a : Agent) (due : Nat) | waitTimeout (a : Agent) (due : Nat) | strandTimerExpiry (a : Agent)
  | asyncTrapEntry (a : Agent) | longWait (a : Agent) | reportFill (asid : Nat) (va v : Word)
  -- vector unit and mesh, R178, R247 to R272, R361
  | leaseGrant (core : Nat) | wvuComplete (core : Nat) | meshAccept (tile : Nat) | ploadDone (tile : Nat) | pswapEffect (tile : Nat)
  | vectorAccadd (tile : Nat) | passComplete (tile : Nat) | probeSlot (tile : Nat) | declarationUpdate (tile : Nat) | trimLoop (tile : Nat)
  | sensorWitnessTimeout (tile col : Nat) | recalibration (tile : Nat) | recalComplete (tile : Nat)
  -- engine operations, R184, R392 to R401, R448, R458, R459
  | kickAccept (e : Nat) | copy (e : Nat) | copy2d (e : Nat) | gather (e : Nat) | stencilDecomposition (e : Nat)
  | fabricTokenRequest (e : Nat) | linkMessageSend (e : Nat) | noroutine (e : Nat) | endOp (e status detail : Nat)
  | hostApertureCompletion (e : Nat) (err : Bool) (va : Word)
  -- errors and power of one unit, R426, R428, R429, R464 to R468
  | errorConsumed (a : Agent) (va : Word) | engineError (e : Nat) | deviceFault (cause : Nat)
  | opPointSwitch (quad : Nat) | deepGateEntry (quad : Nat) | wakeEvent (quad : Nat) | wakeComplete (quad : Nat)
  -- fabric timers, R147, R455, R456
  | fabricResend (dst tc : Nat) | peerDeclaredLost (chip : Nat) | acceptanceWindowEnd (tv : Nat) | hostPortBusyRetry (id : Nat)
  -- events without data of their own. Reset and commands, R12, R40, R42, R60, R103, R104, R191: they take the command at the head
  -- of their sequencer's queue
  | reset
  | tlbinvPage | tlbinvAsid | tlbinvNonglobal | tlbinvAll | invalidationComplete
  | icinvLine | icinvAll | icinvComplete
  | create | destroy | reclaim | seize | htBadop
  | placement | tduAdmit | preempt | haltStart | shadowSwap | resume | save | restore | release | sizeq | badcmd
  -- faults, repair and power of the device, R422, R430, R431, R440, R463, R472, R473
  | dumpComplete | watchdogExpiry | mgmtTakeover | flogBaseWrite | refillEpoch | healthCertificate | pldmFileTransfer
  | p2pflush | getVersion | getCapabilities | negotiateAlgorithms | getDigests | getCertificate
  | hostLinkTimeout | cxlReset | commit | notificationFillRetry
  -- ports, R450, R451: the first port whose step is due
  | linkEnable | linkDisable | retrain | lock | train | up | failed
  -- inputs from outside: each takes its data from the head of the input queue. Sensors and failures, R106, R269, R270, R431, R436,
  -- R438, R469, R473, R487
  | sensorSample | patrolScrub | reinitialisation | ageingSample | powerCapSet | pldmFirmwareUpdate | laserModuleFailure | tjTrip
  | modeOrCellFailure | coreFailure | dieToDieWireFailure | laserModuleInsertion | channelPatch | linkLevelReplay
  -- host, R442 to R447, R471
  | memRd | memRdData | memWr | memWrPtl | dumpWindowRead | tokenPortTret | tokenPortUnshr | tokenPortTqry | tokenPortBadop
  | bar4Write | bar4Read | challenge | getMeasurements
  -- packets and link messages, R452 to R460
  | write | ack | nak | tokreq | tokrsp | migrPacket | migrrsp | linkmsg | reservedTypePacket
deriving DecidableEq, Repr

/-- What the optics and the far end of a port say at a step of its bring-up (R450, R491): the branch power is good, the channels whose rings
locked, those whose eyes passed in both directions, the far end's chip id, USE and lending (LENDTO × 16 + LENDN). -/
structure LinkNews where
  port : Nat
  power : Bool
  locked : Nat
  eyes : Nat
  chip : Nat
  use : Nat
  lending : Nat
deriving DecidableEq, Repr

/-- What an event from outside brings (spec/16, spec/17): a host request, a slot write of the token port, a peer-to-peer request, a
packet with its trailer or a link message at a port, what a port's bring-up meets, figures of a sensor or a failure, what firmware finds at re-initialisation. -/
inductive Input where
  | line (off : Nat) (data : BitVec 512) (mask : BitVec 64)
  | slot (n : Fin 16) (va w : Word)
  | bar4 (requester off : Nat) (bytes : List Byte)
  | packet (port : Nat) (p : Packet) (trailer : Word)
  | message (port : Nat) (ws : List Word)
  | link (n : LinkNews)
  | figures (ns : List Nat)
  | plant (p : Plant)
deriving DecidableEq, Repr

end Sys2Proof
end

