-- ==== Sys2Proof/WellFormed.lean ====
section
/-! DEFINITION. The field values and combinations that no instruction has (R285 step 3): each check is one that the field kinds of the
syntax do not already exclude. A decoded word that fails a check traps ILLEGAL. -/

namespace Sys2Proof

/-- Width in bits of an element type (R356). -/
def LTy.width : LTy → Nat
  | .f | .i32 => 32
  | .bf | .h | .i16 => 16
  | .i8 | .e4m3 | .e5m2 => 8

/-- Lanes of a 4,096-bit register (R356). -/
def LTy.lanes (t : LTy) : Nat := 4096 / t.width

/-- Lanes of a 1,024-bit register (R402). -/
def LTy.svLanes (t : LTy) : Nat := 1024 / t.width

/-- The types of the element-wise arithmetic instructions (R364, R367). -/
def LTy.arith : LTy → Bool
  | .e4m3 | .e5m2 => false
  | _ => true

/-- The types of VSF, VQNT's source and VDQ (R369, R371, R372). -/
def LTy.float3 : LTy → Bool
  | .f | .bf | .h => true
  | _ => false

/-- The types of VSHF (R366). -/
def LTy.int3 : LTy → Bool
  | .i8 | .i16 | .i32 => true
  | _ => false

/-- A scalar conversion type: format codes 0 to 13 (R288). -/
def Fmt.scalar : Fmt → Bool
  | .e3m2 | .e2m3 | .e2m1 | .mxi8 | .e8m0 => false
  | _ => true

/-- SEL, BFI, ACAS and RQTAKE refuse the discard destination (R314, R340, R409). -/
def GDst.isReg : GDst → Bool
  | .g _ => true
  | .discard => false

/-- Function codes 12 to 63 are reserved, and codes 0 to 2 carry no rounding mode (R323, R369). -/
def funOk (r : Rm) (fn : BitVec 6) : Bool := decide (fn.toNat ≤ 11) && (decide (3 ≤ fn.toNat) || r == .rn)

/-- A present signal clause has a non-zero increment (R279). -/
def Clauses.ok (c : Clauses) : Bool :=
  match c.sig with
  | some (_, k) => k != 0
  | none => true

/-- The group size of VRED and VSCAN (R367). -/
def groupOk (t : LTy) (lg : BitVec 4) : Bool := t.arith && decide (1 ≤ lg.toNat) && decide (lg.toNat ≤ 9) && decide (2 ^ lg.toNat ≤ t.lanes)

/-- The PART range of VCVT (R370). -/
def partOk (t s : LTy) (part : BitVec 3) : Bool :=
  if t.width < s.width then decide (part.toNat < s.width / t.width)
  else if s.width < t.width then decide (part.toNat < t.width / s.width)
  else part == 0

/-- The combinations of VDOT (R373). -/
def dotOk (t s : LTy) (sat : Bool) : Bool :=
  match s, t with
  | .i8, .i32 | .i16, .i32 => true
  | .bf, .f | .h, .f => !sat
  | _, _ => false

/-- The combinations of VMMA (R374). -/
def mmaOk (t : LTy) (c : BitVec 3) : Bool :=
  (decide (c.toNat ≤ 4) && t == .f) || ((c.toNat == 5 || c.toNat == 6) && t == .i32)

/-- The limits of SSORT (R403): log2 L ≥ k ≥ 1 and j < k. -/
def sortOk (t : LTy) (k : BitVec 8) (j : BitVec 4) : Bool :=
  decide (1 ≤ k.toNat) && decide (k.toNat ≤ Nat.log2 t.svLanes) && decide (j.toNat < k.toNat)

/-- Every check on an instruction that its fields' kinds leave open. Events of the table have no encoding and no check. -/
def wellFormed : Instr → Bool
  | .sel d _ _ | .bfi d _ _ | .acas d _ _ | .rqtake d | .rqtakeW d => d.isReg
  | .fcvt _ _ _ s t => s.scalar && t.scalar
  | .ffun _ _ _ r fn => funOk r fn
  | .vadd t _ _ _ | .vsub t _ _ _ | .vmul t _ _ _ | .vfma t _ _ _ | .vmin t _ _ _ | .vmax t _ _ _ => t.arith
  | .vshf t _ _ _ => t.int3
  | .vred t _ _ lg _ | .vscan t _ _ _ lg _ => groupOk t lg
  | .vsf t _ _ r fn => t.float3 && funOk r fn
  | .vcvt t _ _ s _ part => partOk t s part
  | .vqnt _ _ s _ _ => s.float3
  | .vdq t _ _ _ _ => t.float3
  | .vdot t _ _ s sat => dotOk t s sat
  | .vmma t _ c _ _ => mmaOk t c
  | .mfmt _ _ c | .pload _ _ c | .pswap _ c | .mpass _ _ _ c | .mtran _ _ _ c | .mprobe _ c | .aclr _ _ _ c | .ard _ _ _ _ c
  | .awr _ _ _ _ c | .mstat _ _ c | .cpy _ _ _ c | .cpy2d _ _ _ c | .cpyg _ _ _ c | .stdec _ _ c | .lend _ _ _ c | .lendGive _ _ _ c
  | .share _ _ _ c | .split _ _ _ c | .merge _ _ _ c | .kick _ _ _ c => c.ok
  | .sgath t _ _ _ | .sscat t _ _ _ => t == .f || t == .i32
  | .sscan t _ _ _ _ _ | .sred _ _ t _ => t.arith
  | .ssort t _ k _ j => sortOk t k j
  | .svalu t op _ _ _ => t.arith || op == .and || op == .or || op == .xor
  | _ => true

end Sys2Proof
end

