-- ==== Sys2Proof/Decode.lean ====
section
/-! DEFINITION. Decoding (R275 to R293): total on any bytes, one instruction or a named rejection, in the order of R285: an opcode
unassigned for the agent's class, a page outside its profile, an illegal field. Then the encoder, from the same tables. -/

namespace Sys2Proof

/-- Bits hi to lo of a word (R6). -/
def bitsOf (w hi lo : Nat) : Nat := w / 2 ^ lo % 2 ^ (hi + 1 - lo)

/-- Why a word is no instruction for the agent: the first failing check of R285, or too few bytes to fetch a word. -/
inductive Reject where
  | short | unassigned | profile | field
deriving DecidableEq, Repr

/-! ## Fields -/

/-- The special source numbered 193 + n (R283). -/
def specialOf : Nat → Option Special
  | 0 => some .sid | 1 => some .ctx | 2 => some .lcore | 3 => some .ltile | 4 => some .time | 5 => some .pc
  | 6 => some .npc | 7 => some .asid | 8 => some .priv | 9 => some .repj | 10 => some .psize | 11 => some .ntile
  | _ => none

/-- The number of a special source, less 193. -/
def Special.code : Special → Nat
  | .sid => 0 | .ctx => 1 | .lcore => 2 | .ltile => 3 | .time => 4 | .pc => 5
  | .npc => 6 | .asid => 7 | .priv => 8 | .repj => 9 | .psize => 10 | .ntile => 11

/-- A general source field (R282). -/
def srcOf (v : Nat) : Option Src :=
  if h : v < 128 then some (.g ⟨v, h⟩)
  else if h : v - 128 < 64 then some (.k ⟨v - 128, h⟩)
  else if v = 192 then some .zero
  else (specialOf (v - 193)).map .special

/-- The field value of a general source. -/
def Src.code : Src → Nat
  | .g n => n.val | .k n => 128 + n.val | .zero => 192 | .special x => 193 + x.code

/-- A gdst field (R280). -/
def gdstOf (v : Nat) : Option GDst :=
  if h : v < 128 then some (.g ⟨v, h⟩) else if v = 192 then some .discard else none

/-- The field value of a gdst. -/
def GDst.code : GDst → Nat
  | .g n => n.val | .discard => 192

/-- A long-vector source field (R289). -/
def lsrcOf (v : Nat) : Option LSrc :=
  if h : v < 32 then some (.lv ⟨v, h⟩)
  else if h : v - 32 < 96 then some (.g ⟨v - 32, h⟩)
  else if h : v - 128 < 64 then some (.k ⟨v - 128, h⟩)
  else if v = 192 then some .zero
  else (specialOf (v - 193)).map .special

/-- The field value of a long-vector source. -/
def LSrc.code : LSrc → Nat
  | .lv n => n.val | .g n => 32 + n.val | .k n => 128 + n.val | .zero => 192 | .special x => 193 + x.code

/-- A stack-vector source field (R402): values 8 to 31 are illegal. -/
def svsrcOf (v : Nat) : Option SvSrc :=
  if h : v < 8 then some (.sv ⟨v, h⟩)
  else if v < 32 then none
  else if h : v - 32 < 96 then some (.g ⟨v - 32, h⟩)
  else if h : v - 128 < 64 then some (.k ⟨v - 128, h⟩)
  else if v = 192 then some .zero
  else (specialOf (v - 193)).map .special

/-- The field value of a stack-vector source. -/
def SvSrc.code : SvSrc → Nat
  | .sv n => n.val | .g n => 32 + n.val | .k n => 128 + n.val | .zero => 192 | .special x => 193 + x.code

/-- An element type code (R289). -/
def ltyOf : Nat → Option LTy
  | 0 => some .f | 1 => some .bf | 2 => some .h | 3 => some .i8 | 4 => some .i16 | 5 => some .i32 | 6 => some .e4m3 | 7 => some .e5m2
  | _ => none

/-- The number of an element type. -/
def LTy.code : LTy → Nat
  | .f => 0 | .bf => 1 | .h => 2 | .i8 => 3 | .i16 => 4 | .i32 => 5 | .e4m3 => 6 | .e5m2 => 7

/-- A format code (R216). -/
def fmtOf : Nat → Option Fmt
  | 0 => some .i8 | 1 => some .i16 | 2 => some .i32 | 3 => some .i64 | 4 => some .n8 | 5 => some .n16 | 6 => some .n32 | 7 => some .n64
  | 8 => some .d | 9 => some .f | 10 => some .h | 11 => some .bf | 12 => some .e4m3 | 13 => some .e5m2 | 14 => some .e3m2
  | 15 => some .e2m3 | 16 => some .e2m1 | 17 => some .mxi8 | 18 => some .e8m0
  | _ => none

/-- The number of a format (R216). -/
def Fmt.code : Fmt → Nat
  | .i8 => 0 | .i16 => 1 | .i32 => 2 | .i64 => 3 | .n8 => 4 | .n16 => 5 | .n32 => 6 | .n64 => 7 | .d => 8 | .f => 9 | .h => 10 | .bf => 11
  | .e4m3 => 12 | .e5m2 => 13 | .e3m2 => 14 | .e2m3 => 15 | .e2m1 => 16 | .mxi8 => 17 | .e8m0 => 18

/-- A rounding mode (R232); the argument is two bits. -/
def rmOf (v : Nat) : Rm := match v with
  | 0 => .rn | 1 => .rz | 2 => .ru | _ => .rd

/-- The two bits of a rounding mode. -/
def Rm.code : Rm → Nat
  | .rn => 0 | .rz => 1 | .ru => 2 | .rd => 3

/-- The floating type bit (R288). -/
def ftyOf (v : Nat) : FTy := if v = 0 then .d else .f

/-- The bit of a floating type. -/
def FTy.code : FTy → Nat
  | .d => 0 | .f => 1

/-- The operation of a scan (R367); 3 is reserved. -/
def scanOpOf : Nat → Option ScanOp
  | 0 => some .add | 1 => some .min | 2 => some .max
  | _ => none

/-- The number of a scan operation. -/
def ScanOp.code : ScanOp → Nat
  | .add => 0 | .min => 1 | .max => 2

/-- The operation of SVALU (R403); the argument is three bits. -/
def svOpOf (v : Nat) : SvOp := match v with
  | 0 => .add | 1 => .sub | 2 => .mul | 3 => .min | 4 => .max | 5 => .and | 6 => .or | _ => .xor

/-- The number of a SVALU operation. -/
def SvOp.code : SvOp → Nat
  | .add => 0 | .sub => 1 | .mul => 2 | .min => 3 | .max => 4 | .and => 5 | .or => 6 | .xor => 7

/-- The clauses and the X flag of a long instruction's second word (R279); none where the word is illegal. -/
def clausesOf (w : Nat) : Option (Clauses × Bool) :=
  let widx := bitsOf w 31 24
  let wthr := bitsOf w 23 16
  let sidx := bitsOf w 15 8
  let sinc := bitsOf w 7 4
  let sen := bitsOf w 1 1 == 1
  let wen := bitsOf w 0 0 == 1
  if (sen && sinc == 0) || (!sen && (sidx != 0 || sinc != 0)) || (!wen && (widx != 0 || wthr != 0)) || bitsOf w 3 3 == 1 then none
  else some (⟨if wen then some (BitVec.ofNat 8 widx, BitVec.ofNat 8 wthr) else none,
              if sen then some (BitVec.ofNat 8 sidx, BitVec.ofNat 4 sinc) else none⟩, bitsOf w 2 2 == 1)

/-- The second word of a long instruction. -/
def Clauses.code (c : Clauses) (x : Bool) : Nat :=
  (match c.wait with
   | some (i, t) => i.toNat * 2 ^ 24 + t.toNat * 2 ^ 16 + 1
   | none => 0) +
  (match c.sig with
   | some (j, k) => j.toNat * 2 ^ 8 + k.toNat * 2 ^ 4 + 2
   | none => 0) +
  (if x then 4 else 0)

/-! ## The opcode map and the profiles -/

/-- An engine hart's class, or not an engine. -/
def Cls.isEngine : Cls → Bool
  | .copyE | .stencilE | .collE | .linkE => true
  | _ => false

/-- Whether the opcode is assigned for the agent's class (R286, R291). An agent that is no engine finds the whole engine page
unassigned to no class of its own; the cells that some engine class has then fall to the profile check. -/
def opAssigned (c : Cls) (op : Nat) : Bool :=
  match op / 16 with
  | 0 => op != 0
  | 3 => op % 4 != 3
  | 7 => decide (op % 16 ≤ 12)
  | 8 => decide (op % 16 ≤ 8)
  | 11 => decide (op % 16 ≤ 10)
  | 12 => decide (op % 16 ≤ 9)
  | 13 => decide (op % 16 ≤ 8)
  | 14 => decide (op % 16 ≤ 9)
  | 15 =>
    match c with
    | .stencilE => decide (op % 16 ≤ 4)
    | .copyE => decide (op % 16 ≤ 1)
    | .collE => decide (op % 16 ≤ 2)
    | .linkE => op % 16 == 0 || op % 16 == 1 || op % 16 == 3
    | _ => decide (op % 16 ≤ 3)
  | _ => true

/-- The profile of each class (R290). -/
def profileOk (c : Cls) (op : Nat) : Bool :=
  let page := op / 16
  if page ≤ 3 then true
  else if page ≤ 5 then match c with
    | .copyE | .collE | .linkE => false
    | _ => true
  else if page ≤ 7 then match c with
    | .mgmt => decide (op ≤ 0x67) || op == 0x73
    | _ => true
  else if page = 8 then true
  else if page = 9 then match c with
    | .compute | .stack => true
    | .mgmt => decide (0x9B ≤ op)
    | _ => false
  else if page ≤ 12 then c == .compute
  else if page = 13 then match c with
    | .compute => true
    | .mgmt => false
    | _ => decide (0xD4 ≤ op) && decide (op ≤ 0xD7)
  else if page = 14 then c == .stack
  else c.isEngine

/-- Opcodes 0xC0 to 0xDF take two words (R275). -/
def isLong (op : Nat) : Bool := decide (0xC0 ≤ op) && decide (op ≤ 0xDF)

/-! ## Decoding one word -/

/-- Three general operands. -/
def dec3 (f : GDst → Src → Src → Instr) (d a b : Nat) : Option Instr :=
  do return f (← gdstOf d) (← srcOf a) (← srcOf b)

/-- Two general operands, the B field unused (R281). -/
def dec2 (f : GDst → Src → Instr) (d a b : Nat) : Option Instr :=
  if b = 192 then do return f (← gdstOf d) (← srcOf a) else none

/-- Two long-vector sources. -/
def decV (f : LTy → LReg → LSrc → LSrc → Instr) (d a b : Nat) : Option Instr :=
  do return f (← ltyOf (d / 32)) (Fin.ofNat 32 (d % 32)) (← lsrcOf a) (← lsrcOf b)

/-- A floating instruction of three operands: the type bit is D's variant bit (R288). -/
def decF (f : FTy → GReg → Src → Src → Instr) (d a b : Nat) : Option Instr :=
  do return f (ftyOf (d / 128)) (Fin.ofNat 128 (d % 128)) (← srcOf a) (← srcOf b)

/-- An immediate instruction. -/
def decI (f : GDst → BitVec 16 → Instr) (d imm : Nat) : Option Instr := do return f (← gdstOf d) (BitVec.ofNat 16 imm)

/-- A shift immediate: bits 15 to 6 of the immediate must be zero (R315). -/
def decSh (f : GDst → BitVec 6 → Instr) (d imm : Nat) : Option Instr :=
  if imm < 64 then do return f (← gdstOf d) (BitVec.ofNat 6 imm) else none

/-- A load with a variant bit (R288). -/
def decLd (f : Bool → GReg → Src → BitVec 8 → Instr) (d a b : Nat) : Option Instr :=
  do return f (d / 128 == 1) (Fin.ofNat 128 (d % 128)) (← srcOf a) (BitVec.ofNat 8 b)

/-- A store, or another form whose D is a source. -/
def decSt (f : Src → Src → BitVec 8 → Instr) (d a b : Nat) : Option Instr := do return f (← srcOf d) (← srcOf a) (BitVec.ofNat 8 b)

/-- A gdst with a memory operand. -/
def decM (f : GDst → Src → BitVec 8 → Instr) (d a b : Nat) : Option Instr := do return f (← gdstOf d) (← srcOf a) (BitVec.ofNat 8 b)

/-- A branch (R278). -/
def decB (f : Src → BitVec 16 → Instr) (a off : Nat) : Option Instr := do return f (← srcOf a) (BitVec.ofNat 16 off)

/-- A long instruction of three operands whose X bit must be zero. -/
def decL3 (f : GDst → Src → Src → Clauses → Instr) (d a b w1 : Nat) : Option Instr := do
  let (c, x) ← clausesOf w1
  if x then none else return f (← gdstOf d) (← srcOf a) (← srcOf b) c

/-- A long instruction of two operands whose X bit must be zero. -/
def decL2 (f : GDst → Src → Clauses → Instr) (d a b w1 : Nat) : Option Instr := do
  let (c, x) ← clausesOf w1
  if x || b != 192 then none else return f (← gdstOf d) (← srcOf a) c

/-- A long instruction with a destination only, whose X bit must be zero. -/
def decL1 (f : GDst → Clauses → Instr) (d a b w1 : Nat) : Option Instr := do
  let (c, x) ← clausesOf w1
  if x || a != 192 || b != 192 then none else return f (← gdstOf d) c

/-- Pages 0x00 to 0x3F (R309 to R317). -/
def decodeInt (op d a b : Nat) : Option Instr :=
  let imm := a * 256 + b
  match op with
  | 0x01 => dec3 .add d a b | 0x02 => dec3 .sub d a b | 0x03 => dec3 .mul d a b | 0x04 => dec3 .mulh d a b
  | 0x05 => dec3 .mulhu d a b | 0x06 => dec3 .div d a b | 0x07 => dec3 .divu d a b | 0x08 => dec3 .rem d a b
  | 0x09 => dec3 .remu d a b | 0x0A => dec3 .and d a b | 0x0B => dec3 .or d a b | 0x0C => dec3 .xor d a b
  | 0x0D => dec3 .andn d a b | 0x0E => dec3 .shl d a b | 0x0F => dec3 .shr d a b
  | 0x10 => dec3 .sar d a b | 0x11 => dec3 .ror d a b | 0x12 => dec3 .min d a b | 0x13 => dec3 .max d a b
  | 0x14 => dec3 .minu d a b | 0x15 => dec3 .maxu d a b | 0x16 => dec3 .seq d a b | 0x17 => dec3 .slt d a b
  | 0x18 => dec3 .sltu d a b | 0x19 => dec3 .sel d a b | 0x1A => dec2 .clz d a b | 0x1B => dec2 .ctz d a b
  | 0x1C => dec2 .popc d a b | 0x1D => dec3 .bfx d a b | 0x1E => dec3 .bfi d a b | 0x1F => dec2 .brev d a b
  | 0x20 => dec3 .adds d a b | 0x21 => dec3 .subs d a b | 0x22 => dec3 .addsu d a b | 0x23 => dec3 .subsu d a b
  | 0x24 => decI .li d imm | 0x25 => decI .liz d imm | 0x26 => decI .lsi d imm | 0x27 => decI .addi d imm
  | 0x28 => decI .andi d imm | 0x29 => decI .ori d imm | 0x2A => decI .xori d imm | 0x2B => decSh .shli d imm
  | 0x2C => decSh .shri d imm | 0x2D => decSh .sari d imm | 0x2E => decI .slti d imm
  | 0x2F => if d = 192 ∧ a = 192 ∧ b = 192 then some .nop else none
  | 0x30 => dec3 .paddI8 d a b | 0x31 => dec3 .paddI16 d a b | 0x32 => dec3 .paddI32 d a b
  | 0x34 => dec3 .psubI8 d a b | 0x35 => dec3 .psubI16 d a b | 0x36 => dec3 .psubI32 d a b
  | 0x38 => dec3 .paddsI8 d a b | 0x39 => dec3 .paddsI16 d a b | 0x3A => dec3 .paddsI32 d a b
  | 0x3C => dec3 .psubsI8 d a b | 0x3D => dec3 .psubsI16 d a b | 0x3E => dec3 .psubsI32 d a b
  | _ => none

/-- Pages 0x40 and 0x50 (R318 to R323). -/
def decodeFloat (op d a b : Nat) : Option Instr :=
  let r := rmOf (op % 4)
  match op / 4 with
  | 0x10 => decF (.fadd r) d a b | 0x11 => decF (.fsub r) d a b | 0x12 => decF (.fmul r) d a b | 0x13 => decF (.fdiv r) d a b
  | 0x14 => decF (.fma r) d a b
  | 0x15 => if b = 192 then do return .fsqrt r (ftyOf (d / 128)) (Fin.ofNat 128 (d % 128)) (← srcOf a) else none
  | 0x16 => if d < 128 then do return .fcvt r (Fin.ofNat 128 d) (← srcOf a) (← fmtOf (b / 16)) (← fmtOf (b % 16)) else none
  | _ =>
    match op with
    | 0x5C => decF .fmin d a b | 0x5D => decF .fmax d a b | 0x5E => decF .fcmp d a b
    | 0x5F => do return .ffun (ftyOf (d / 128)) (Fin.ofNat 128 (d % 128)) (← srcOf a) (rmOf (b / 64)) (BitVec.ofNat 6 (b % 64))
    | _ => none

/-- Pages 0x60 and 0x70 (R333 to R349). -/
def decodeMem (op d a b : Nat) : Option Instr :=
  match op with
  | 0x60 => decLd .ld8 d a b | 0x61 => decLd .ld16 d a b | 0x62 => decLd .ld32 d a b
  | 0x63 => if d < 128 then do return .ld64 (Fin.ofNat 128 d) (← srcOf a) (BitVec.ofNat 8 b) else none
  | 0x64 => decSt .st8 d a b | 0x65 => decSt .st16 d a b | 0x66 => decSt .st32 d a b | 0x67 => decSt .st64 d a b
  | 0x68 => decM .lds d a b | 0x69 => decSt .stf d a b | 0x6A => decM .ldp d a b
  | 0x6B => if d = 192 then do return .ste (← srcOf a) (BitVec.ofNat 8 b) else none
  | 0x6C => decM .aadd d a b | 0x6D => decM .aand d a b | 0x6E => decM .aor d a b | 0x6F => decM .amin d a b
  | 0x70 => decM .amax d a b | 0x71 => decM .axch d a b | 0x72 => decM .acas d a b
  | 0x73 =>
    if a ≠ 192 then none else
    match b with
    | 0 => (gdstOf d).map .fenceQ | 1 => (gdstOf d).map .fenceT | 2 => (gdstOf d).map .fenceD | 3 => (gdstOf d).map .fenceS
    | _ => none
  | 0x74 =>
    if b < 4 then do return .marm (← gdstOf d) (← srcOf a) (Fin.ofNat 4 b)
    else if b < 8 then if a = 192 then do return .marmDis (← gdstOf d) (Fin.ofNat 4 (b - 4)) else none
    else none
  | 0x75 => dec2 .mwait d a b | 0x76 => dec3 .semw d a b | 0x77 => dec3 .semsig d a b | 0x78 => dec2 .semrd d a b
  | 0x79 => dec3 .semset d a b | 0x7A => dec2 .tret d a b | 0x7B => dec3 .unshr d a b | 0x7C => dec2 .tqry d a b
  | _ => none

/-- Pages 0x80 and 0x90 (R326 to R330, R347, R404). -/
def decodeCtl (op d a b : Nat) : Option Instr :=
  let imm := a * 256 + b
  match op with
  | 0x80 => decB .bez d imm | 0x81 => decB .bnz d imm | 0x82 => decB .bltz d imm | 0x83 => decB .bgez d imm
  | 0x84 => decB .bgtz d imm | 0x85 => decB .blez d imm
  | 0x86 => decI .call d imm
  | 0x87 => dec2 .jr d a b
  | 0x88 =>
    if b < 128 then some (.rep (BitVec.ofNat 4 (d / 16)) (BitVec.ofNat 12 (d % 16 * 256 + a)) (BitVec.ofNat 7 b)) else none
  | 0x90 => dec3 .spawn d a b
  | 0x91 => if d = 192 ∧ b = 192 then (srcOf a).map .exit else none
  | 0x92 => if d = 192 ∧ a = 192 ∧ b = 192 then some .yield else none
  | 0x93 => dec3 .tbind d a b | 0x94 => dec2 .tunb d a b | 0x95 => dec3 .rqput d a b
  | 0x96 =>
    if a ≠ 192 then none else
    match b with
    | 0 => (gdstOf d).map .rqtake | 1 => (gdstOf d).map .rqtakeW
    | _ => none
  | 0x97 => dec3 .migr d a b | 0x98 => dec2 .join d a b | 0x99 => dec2 .leave d a b | 0x9A => dec2 .gbar d a b
  | 0x9B => if d = 192 ∧ b = 192 then (srcOf a).map .trap else none
  | 0x9C => if d = 192 ∧ a = 192 ∧ b = 192 then some .rft else none
  | 0x9D => decI .srr d imm
  | 0x9E => do return .srw (← srcOf d) (BitVec.ofNat 16 imm)
  | 0x9F =>
    if d ≠ 192 then none else
    match b with
    | 0 => if a = 192 then some .halt else none
    | 1 => (srcOf a).map .wait
    | _ => none
  | _ => none

/-- Pages 0xA0 and 0xB0 (R361 to R375). -/
def decodeVec (op d a b : Nat) : Option Instr :=
  let t := ltyOf (d / 32)
  let lv : LReg := Fin.ofNat 32 (d % 32)
  match op with
  | 0xA0 => if d = 192 ∧ a = 192 ∧ b = 192 then some .venter else none
  | 0xA1 => if d = 192 ∧ a = 192 ∧ b = 192 then some .vexit else none
  | 0xA2 => if d < 32 then do return .vld lv (← srcOf a) (BitVec.ofNat 8 b) else none
  | 0xA3 => if d < 32 then do return .vst lv (← srcOf a) (BitVec.ofNat 8 b) else none
  | 0xA4 => decV .vadd d a b | 0xA5 => decV .vsub d a b | 0xA6 => decV .vmul d a b | 0xA7 => decV .vfma d a b
  | 0xA8 => decV .vmin d a b | 0xA9 => decV .vmax d a b | 0xAA => decV .vcmp d a b | 0xAB => decV .vsel d a b
  | 0xAC => decV .vand d a b | 0xAD => decV .vor d a b | 0xAE => decV .vxor d a b | 0xAF => decV .vshf d a b
  | 0xB0 => if b < 64 then do return .vred (← t) lv (← lsrcOf a) (BitVec.ofNat 4 (b / 4)) (← scanOpOf (b % 4)) else none
  | 0xB1 => if b < 128 then do return .vscan (← t) lv (← lsrcOf a) (b / 64 == 1) (BitVec.ofNat 4 (b / 4 % 16)) (← scanOpOf (b % 4)) else none
  | 0xB2 => decV .vperm d a b
  | 0xB3 => do return .vsf (← t) lv (← lsrcOf a) (rmOf (b / 64)) (BitVec.ofNat 6 (b % 64))
  | 0xB4 => do return .vcvt (← t) lv (← lsrcOf a) (← ltyOf (b / 32)) (rmOf (b / 8 % 4)) (BitVec.ofNat 3 (b % 8))
  | 0xB5 =>
    if h : d < 32 ∧ b % 8 < 6 then do return .vqnt lv (← lsrcOf a) (← ltyOf (b / 32)) (rmOf (b / 8 % 4)) ⟨b % 8, h.2⟩ else none
  | 0xB6 =>
    if h : b < 32 ∧ b % 8 < 6 then do return .vdq (← t) lv (← lsrcOf a) (rmOf (b / 8 % 4)) ⟨b % 8, h.2⟩ else none
  | 0xB7 => if a < 32 ∧ b % 16 = 0 then do return .vdot (← t) lv (Fin.ofNat 32 a) (← ltyOf (b / 32)) (b / 16 % 2 == 1) else none
  | 0xB8 => if b < 32 then do return .vmma (← t) lv (BitVec.ofNat 3 (a / 32)) (Fin.ofNat 32 (a % 32)) (Fin.ofNat 32 b) else none
  | 0xB9 => if a < 32 then do return .vmovg (← gdstOf d) (Fin.ofNat 32 a) (← srcOf b) else none
  | 0xBA => if d < 32 then do return .vmovv lv (← srcOf a) (← srcOf b) else none
  | _ => none

/-- Pages 0xC0 and 0xD0, the long instructions (R349, R378 to R388, R394). -/
def decodeLong (op d a b w1 : Nat) : Option Instr :=
  match op with
  | 0xC0 => decL2 .mfmt d a b w1 | 0xC1 => decL2 .pload d a b w1 | 0xC2 => decL1 .pswap d a b w1
  | 0xC3 => decL3 .mpass d a b w1 | 0xC4 => decL3 .mtran d a b w1 | 0xC5 => decL1 .mprobe d a b w1 | 0xC6 => decL3 .aclr d a b w1
  | 0xC7 => if b = 192 then do
      let (c, x) ← clausesOf w1
      return .ard (← ltyOf (d / 32)) (Fin.ofNat 32 (d % 32)) (← srcOf a) x c
    else none
  | 0xC8 => do
      let (c, x) ← clausesOf w1
      return .awr (← gdstOf d) (← lsrcOf a) (← srcOf b) x c
  | 0xC9 => decL2 .mstat d a b w1
  | 0xD0 => decL3 .cpy d a b w1 | 0xD1 => decL3 .cpy2d d a b w1 | 0xD2 => decL3 .cpyg d a b w1 | 0xD3 => decL2 .stdec d a b w1
  | 0xD4 => do
      let (c, x) ← clausesOf w1
      if x then return .lendGive (← gdstOf d) (← srcOf a) (← srcOf b) c else return .lend (← gdstOf d) (← srcOf a) (← srcOf b) c
  | 0xD5 => decL3 .share d a b w1 | 0xD6 => decL3 .split d a b w1 | 0xD7 => decL3 .merge d a b w1 | 0xD8 => decL3 .kick d a b w1
  | _ => none

/-- Page 0xE0, the stack profile (R402). -/
def decodeStack (op d a b : Nat) : Option Instr :=
  let t := ltyOf (d / 32)
  let sv : SvReg := Fin.ofNat 8 (d % 8)
  let sv3 := d % 32 < 8
  match op with
  | 0xE0 => if d < 8 then do return .svld sv (← srcOf a) (BitVec.ofNat 8 b) else none
  | 0xE1 => if d < 8 then do return .svst sv (← srcOf a) (BitVec.ofNat 8 b) else none
  | 0xE2 => if sv3 ∧ b < 8 then do return .sgath (← t) sv (← srcOf a) (Fin.ofNat 8 b) else none
  | 0xE3 => if sv3 ∧ b < 8 then do return .sscat (← t) sv (← srcOf a) (Fin.ofNat 8 b) else none
  | 0xE4 => if sv3 ∧ b / 8 % 4 = 0 then do
      return .sscan (← t) sv (← srcOf a) (b / 128 == 1) (← scanOpOf (b / 32 % 4)) (Fin.ofNat 8 (b % 8))
    else none
  | 0xE5 => if a < 8 ∧ b / 4 % 8 = 0 then do return .sred (← gdstOf d) (Fin.ofNat 8 a) (← ltyOf (b / 32)) (← scanOpOf (b % 4)) else none
  | 0xE6 => if sv3 ∧ a < 8 ∧ b < 8 then do return .scmpr (← t) sv (Fin.ofNat 8 a) (Fin.ofNat 8 b) else none
  | 0xE7 => if a < 8 then do return .shist (← srcOf d) (Fin.ofNat 8 a) (← srcOf b) else none
  | 0xE8 => if sv3 ∧ b / 16 % 8 = 0 then do return .ssort (← t) sv (BitVec.ofNat 8 a) (b / 128 == 1) (BitVec.ofNat 4 (b % 16)) else none
  | 0xE9 => if sv3 ∧ a / 8 % 4 = 0 then do return .svalu (← t) (svOpOf (a / 32)) sv (Fin.ofNat 8 (a % 8)) (← svsrcOf b) else none
  | _ => none

/-- Page 0xF0 by the engine's class (R286, R398, R399). -/
def decodeEngine (c : Cls) (op d a b : Nat) : Option Instr :=
  match c, op with
  | .stencilE, 0xF0 => dec2 .jrot d a b
  | .stencilE, 0xF1 => dec3 .gphase d a b
  | .stencilE, 0xF2 => if a = 192 ∧ b = 192 then (gdstOf d).map .phq else none
  | .stencilE, 0xF3 => if a = 192 ∧ b = 192 then (gdstOf d).map .svnrm else none
  | .stencilE, 0xF4 => dec3 .stwr d a b
  | .copyE, 0xF0 | .collE, 0xF0 | .linkE, 0xF0 => dec3 .blkrd d a b
  | .copyE, 0xF1 | .collE, 0xF1 | .linkE, 0xF1 => dec3 .blkwr d a b
  | .collE, 0xF2 => dec3 .blkred d a b
  | .linkE, 0xF3 => dec3 .lsend d a b
  | _, _ => none

/-- The fields of a word whose opcode is assigned and in the profile; w1 is the second word of a long instruction. -/
def decodeFields (c : Cls) (w w1 : Nat) : Option Instr :=
  let op := bitsOf w 31 24
  let d := bitsOf w 23 16
  let a := bitsOf w 15 8
  let b := bitsOf w 7 0
  let i := match op / 16 with
    | 0 | 1 | 2 | 3 => decodeInt op d a b
    | 4 | 5 => decodeFloat op d a b
    | 6 | 7 => decodeMem op d a b
    | 8 | 9 => decodeCtl op d a b
    | 10 | 11 => decodeVec op d a b
    | 12 | 13 => decodeLong op d a b w1
    | 14 => decodeStack op d a b
    | _ => decodeEngine c op d a b
  i.filter wellFormed

/-- The opcode checks of R285 steps 1 and 2. -/
def opCheck (c : Cls) (op : Nat) : Except Reject Unit :=
  if op = 0xFF || !opAssigned c op then .error .unassigned
  else if !profileOk c op then .error .profile
  else .ok ()

/-- One instruction from its words: the first word, and the second where the opcode is long. -/
def decodeWords (c : Cls) (w : Nat) (w1 : Option Nat) : Except Reject Instr := do
  let op := bitsOf w 31 24
  opCheck c op
  match decodeFields c w (w1.getD 0) with
  | some i => if isLong op && w1.isNone then .error .short else .ok i
  | none => .error .field

/-- A little-endian 32-bit word from four bytes (R275). -/
def word32 (b0 b1 b2 b3 : Byte) : Nat := b0.toNat + b1.toNat * 2 ^ 8 + b2.toNat * 2 ^ 16 + b3.toNat * 2 ^ 24

/-- The four bytes of a word, lowest address first. -/
def bytes32 (w : Code) : List Byte :=
  [BitVec.ofNat 8 w.toNat, BitVec.ofNat 8 (w.toNat / 2 ^ 8), BitVec.ofNat 8 (w.toNat / 2 ^ 16), BitVec.ofNat 8 (w.toNat / 2 ^ 24)]

/-- Decoding, total on any bytes: one instruction and the bytes after it, or the rejection. A short second word is found only after
the opcode checks, since an unassigned long opcode never reads it (R291). -/
def decode (c : Cls) : List Byte → Except Reject (Instr × List Byte)
  | b0 :: b1 :: b2 :: b3 :: rest =>
    let w := word32 b0 b1 b2 b3
    if isLong (bitsOf w 31 24) then
      match rest with
      | c0 :: c1 :: c2 :: c3 :: rest' => (decodeWords c w (some (word32 c0 c1 c2 c3))).map (·, rest')
      | _ => match opCheck c (bitsOf w 31 24) with
        | .error r => .error r
        | .ok _ => .error .short
    else (decodeWords c w none).map (·, rest)
  | _ => .error .short

/-! ## The encoder -/

/-- A word of the base format (R276). -/
def mkWord (op d a b : Nat) : Code := BitVec.ofNat 32 (op * 2 ^ 24 + d * 2 ^ 16 + a * 2 ^ 8 + b)

/-- A word of the immediate or branch format (R277, R278). -/
def mkImm (op d imm : Nat) : Code := BitVec.ofNat 32 (op * 2 ^ 24 + d * 2 ^ 16 + imm)

/-- A long instruction's two words (R279). -/
def mkLong (op d a b : Nat) (c : Clauses) (x : Bool) : List Code := [mkWord op d a b, BitVec.ofNat 32 (c.code x)]

/-- The words of an instruction; an event of the table has none. -/
def encode : Instr → List Code
  | .add d a b => [mkWord 0x01 d.code a.code b.code] | .sub d a b => [mkWord 0x02 d.code a.code b.code]
  | .mul d a b => [mkWord 0x03 d.code a.code b.code] | .mulh d a b => [mkWord 0x04 d.code a.code b.code]
  | .mulhu d a b => [mkWord 0x05 d.code a.code b.code] | .div d a b => [mkWord 0x06 d.code a.code b.code]
  | .divu d a b => [mkWord 0x07 d.code a.code b.code] | .rem d a b => [mkWord 0x08 d.code a.code b.code]
  | .remu d a b => [mkWord 0x09 d.code a.code b.code] | .and d a b => [mkWord 0x0A d.code a.code b.code]
  | .or d a b => [mkWord 0x0B d.code a.code b.code] | .xor d a b => [mkWord 0x0C d.code a.code b.code]
  | .andn d a b => [mkWord 0x0D d.code a.code b.code] | .shl d a b => [mkWord 0x0E d.code a.code b.code]
  | .shr d a b => [mkWord 0x0F d.code a.code b.code] | .sar d a b => [mkWord 0x10 d.code a.code b.code]
  | .ror d a b => [mkWord 0x11 d.code a.code b.code] | .min d a b => [mkWord 0x12 d.code a.code b.code]
  | .max d a b => [mkWord 0x13 d.code a.code b.code] | .minu d a b => [mkWord 0x14 d.code a.code b.code]
  | .maxu d a b => [mkWord 0x15 d.code a.code b.code] | .seq d a b => [mkWord 0x16 d.code a.code b.code]
  | .slt d a b => [mkWord 0x17 d.code a.code b.code] | .sltu d a b => [mkWord 0x18 d.code a.code b.code]
  | .sel d a b => [mkWord 0x19 d.code a.code b.code] | .clz d a => [mkWord 0x1A d.code a.code 192]
  | .ctz d a => [mkWord 0x1B d.code a.code 192] | .popc d a => [mkWord 0x1C d.code a.code 192]
  | .bfx d a b => [mkWord 0x1D d.code a.code b.code] | .bfi d a b => [mkWord 0x1E d.code a.code b.code]
  | .brev d a => [mkWord 0x1F d.code a.code 192]
  | .adds d a b => [mkWord 0x20 d.code a.code b.code] | .subs d a b => [mkWord 0x21 d.code a.code b.code]
  | .addsu d a b => [mkWord 0x22 d.code a.code b.code] | .subsu d a b => [mkWord 0x23 d.code a.code b.code]
  | .li d i => [mkImm 0x24 d.code i.toNat] | .liz d i => [mkImm 0x25 d.code i.toNat] | .lsi d i => [mkImm 0x26 d.code i.toNat]
  | .addi d i => [mkImm 0x27 d.code i.toNat] | .andi d i => [mkImm 0x28 d.code i.toNat] | .ori d i => [mkImm 0x29 d.code i.toNat]
  | .xori d i => [mkImm 0x2A d.code i.toNat] | .shli d i => [mkImm 0x2B d.code i.toNat] | .shri d i => [mkImm 0x2C d.code i.toNat]
  | .sari d i => [mkImm 0x2D d.code i.toNat] | .slti d i => [mkImm 0x2E d.code i.toNat]
  | .nop => [mkWord 0x2F 192 192 192]
  | .paddI8 d a b => [mkWord 0x30 d.code a.code b.code] | .paddI16 d a b => [mkWord 0x31 d.code a.code b.code]
  | .paddI32 d a b => [mkWord 0x32 d.code a.code b.code] | .psubI8 d a b => [mkWord 0x34 d.code a.code b.code]
  | .psubI16 d a b => [mkWord 0x35 d.code a.code b.code] | .psubI32 d a b => [mkWord 0x36 d.code a.code b.code]
  | .paddsI8 d a b => [mkWord 0x38 d.code a.code b.code] | .paddsI16 d a b => [mkWord 0x39 d.code a.code b.code]
  | .paddsI32 d a b => [mkWord 0x3A d.code a.code b.code] | .psubsI8 d a b => [mkWord 0x3C d.code a.code b.code]
  | .psubsI16 d a b => [mkWord 0x3D d.code a.code b.code] | .psubsI32 d a b => [mkWord 0x3E d.code a.code b.code]
  | .fadd r t d a b => [mkWord (0x40 + r.code) (t.code * 128 + d.val) a.code b.code]
  | .fsub r t d a b => [mkWord (0x44 + r.code) (t.code * 128 + d.val) a.code b.code]
  | .fmul r t d a b => [mkWord (0x48 + r.code) (t.code * 128 + d.val) a.code b.code]
  | .fdiv r t d a b => [mkWord (0x4C + r.code) (t.code * 128 + d.val) a.code b.code]
  | .fma r t d a b => [mkWord (0x50 + r.code) (t.code * 128 + d.val) a.code b.code]
  | .fsqrt r t d a => [mkWord (0x54 + r.code) (t.code * 128 + d.val) a.code 192]
  | .fcvt r d a s t => [mkWord (0x58 + r.code) d.val a.code (s.code * 16 + t.code)]
  | .fmin t d a b => [mkWord 0x5C (t.code * 128 + d.val) a.code b.code]
  | .fmax t d a b => [mkWord 0x5D (t.code * 128 + d.val) a.code b.code]
  | .fcmp t d a b => [mkWord 0x5E (t.code * 128 + d.val) a.code b.code]
  | .ffun t d a r fn => [mkWord 0x5F (t.code * 128 + d.val) a.code (r.code * 64 + fn.toNat)]
  | .ld8 sx d a o => [mkWord 0x60 (sx.toNat * 128 + d.val) a.code o.toNat]
  | .ld16 sx d a o => [mkWord 0x61 (sx.toNat * 128 + d.val) a.code o.toNat]
  | .ld32 sx d a o => [mkWord 0x62 (sx.toNat * 128 + d.val) a.code o.toNat]
  | .ld64 d a o => [mkWord 0x63 d.val a.code o.toNat]
  | .st8 d a o => [mkWord 0x64 d.code a.code o.toNat] | .st16 d a o => [mkWord 0x65 d.code a.code o.toNat]
  | .st32 d a o => [mkWord 0x66 d.code a.code o.toNat] | .st64 d a o => [mkWord 0x67 d.code a.code o.toNat]
  | .lds d a o => [mkWord 0x68 d.code a.code o.toNat] | .stf d a o => [mkWord 0x69 d.code a.code o.toNat]
  | .ldp d a o => [mkWord 0x6A d.code a.code o.toNat] | .ste a o => [mkWord 0x6B 192 a.code o.toNat]
  | .aadd d a o => [mkWord 0x6C d.code a.code o.toNat] | .aand d a o => [mkWord 0x6D d.code a.code o.toNat]
  | .aor d a o => [mkWord 0x6E d.code a.code o.toNat] | .amin d a o => [mkWord 0x6F d.code a.code o.toNat]
  | .amax d a o => [mkWord 0x70 d.code a.code o.toNat] | .axch d a o => [mkWord 0x71 d.code a.code o.toNat]
  | .acas d a o => [mkWord 0x72 d.code a.code o.toNat]
  | .fenceQ d => [mkWord 0x73 d.code 192 0] | .fenceT d => [mkWord 0x73 d.code 192 1]
  | .fenceD d => [mkWord 0x73 d.code 192 2] | .fenceS d => [mkWord 0x73 d.code 192 3]
  | .marm d a n => [mkWord 0x74 d.code a.code n.val] | .marmDis d n => [mkWord 0x74 d.code 192 (4 + n.val)]
  | .mwait d a => [mkWord 0x75 d.code a.code 192]
  | .semw d a b => [mkWord 0x76 d.code a.code b.code] | .semsig d a b => [mkWord 0x77 d.code a.code b.code]
  | .semrd d a => [mkWord 0x78 d.code a.code 192] | .semset d a b => [mkWord 0x79 d.code a.code b.code]
  | .tret d a => [mkWord 0x7A d.code a.code 192] | .unshr d a b => [mkWord 0x7B d.code a.code b.code]
  | .tqry d a => [mkWord 0x7C d.code a.code 192]
  | .bez a o => [mkImm 0x80 a.code o.toNat] | .bnz a o => [mkImm 0x81 a.code o.toNat] | .bltz a o => [mkImm 0x82 a.code o.toNat]
  | .bgez a o => [mkImm 0x83 a.code o.toNat] | .bgtz a o => [mkImm 0x84 a.code o.toNat] | .blez a o => [mkImm 0x85 a.code o.toNat]
  | .call d o => [mkImm 0x86 d.code o.toNat] | .jr d a => [mkWord 0x87 d.code a.code 192]
  | .rep n k st => [BitVec.ofNat 32 (0x88 * 2 ^ 24 + n.toNat * 2 ^ 20 + k.toNat * 2 ^ 8 + st.toNat)]
  | .spawn d a b => [mkWord 0x90 d.code a.code b.code] | .exit a => [mkWord 0x91 192 a.code 192]
  | .yield => [mkWord 0x92 192 192 192] | .tbind d a b => [mkWord 0x93 d.code a.code b.code]
  | .tunb d a => [mkWord 0x94 d.code a.code 192] | .rqput d a b => [mkWord 0x95 d.code a.code b.code]
  | .rqtake d => [mkWord 0x96 d.code 192 0] | .rqtakeW d => [mkWord 0x96 d.code 192 1]
  | .migr d a b => [mkWord 0x97 d.code a.code b.code] | .join d a => [mkWord 0x98 d.code a.code 192]
  | .leave d a => [mkWord 0x99 d.code a.code 192] | .gbar d a => [mkWord 0x9A d.code a.code 192]
  | .trap a => [mkWord 0x9B 192 a.code 192] | .rft => [mkWord 0x9C 192 192 192]
  | .srr d n => [mkImm 0x9D d.code n.toNat] | .srw d n => [mkImm 0x9E d.code n.toNat]
  | .halt => [mkWord 0x9F 192 192 0] | .wait a => [mkWord 0x9F 192 a.code 1]
  | .venter => [mkWord 0xA0 192 192 192] | .vexit => [mkWord 0xA1 192 192 192]
  | .vld d a o => [mkWord 0xA2 d.val a.code o.toNat] | .vst d a o => [mkWord 0xA3 d.val a.code o.toNat]
  | .vadd t d a b => [mkWord 0xA4 (t.code * 32 + d.val) a.code b.code] | .vsub t d a b => [mkWord 0xA5 (t.code * 32 + d.val) a.code b.code]
  | .vmul t d a b => [mkWord 0xA6 (t.code * 32 + d.val) a.code b.code] | .vfma t d a b => [mkWord 0xA7 (t.code * 32 + d.val) a.code b.code]
  | .vmin t d a b => [mkWord 0xA8 (t.code * 32 + d.val) a.code b.code] | .vmax t d a b => [mkWord 0xA9 (t.code * 32 + d.val) a.code b.code]
  | .vcmp t d a b => [mkWord 0xAA (t.code * 32 + d.val) a.code b.code] | .vsel t d a b => [mkWord 0xAB (t.code * 32 + d.val) a.code b.code]
  | .vand t d a b => [mkWord 0xAC (t.code * 32 + d.val) a.code b.code] | .vor t d a b => [mkWord 0xAD (t.code * 32 + d.val) a.code b.code]
  | .vxor t d a b => [mkWord 0xAE (t.code * 32 + d.val) a.code b.code] | .vshf t d a b => [mkWord 0xAF (t.code * 32 + d.val) a.code b.code]
  | .vred t d a lg op => [mkWord 0xB0 (t.code * 32 + d.val) a.code (lg.toNat * 4 + op.code)]
  | .vscan t d a ex lg op => [mkWord 0xB1 (t.code * 32 + d.val) a.code (ex.toNat * 64 + lg.toNat * 4 + op.code)]
  | .vperm t d a b => [mkWord 0xB2 (t.code * 32 + d.val) a.code b.code]
  | .vsf t d a r fn => [mkWord 0xB3 (t.code * 32 + d.val) a.code (r.code * 64 + fn.toNat)]
  | .vcvt t d a s r p => [mkWord 0xB4 (t.code * 32 + d.val) a.code (s.code * 32 + r.code * 8 + p.toNat)]
  | .vqnt d a s r f => [mkWord 0xB5 d.val a.code (s.code * 32 + r.code * 8 + f.val)]
  | .vdq t d a r f => [mkWord 0xB6 (t.code * 32 + d.val) a.code (r.code * 8 + f.val)]
  | .vdot t d a s sat => [mkWord 0xB7 (t.code * 32 + d.val) a.val (s.code * 32 + sat.toNat * 16)]
  | .vmma t d c a b => [mkWord 0xB8 (t.code * 32 + d.val) (c.toNat * 32 + a.val) b.val]
  | .vmovg d a b => [mkWord 0xB9 d.code a.val b.code] | .vmovv d a b => [mkWord 0xBA d.val a.code b.code]
  | .mfmt d a c => mkLong 0xC0 d.code a.code 192 c false | .pload d a c => mkLong 0xC1 d.code a.code 192 c false
  | .pswap d c => mkLong 0xC2 d.code 192 192 c false | .mpass d a b c => mkLong 0xC3 d.code a.code b.code c false
  | .mtran d a b c => mkLong 0xC4 d.code a.code b.code c false | .mprobe d c => mkLong 0xC5 d.code 192 192 c false
  | .aclr d a b c => mkLong 0xC6 d.code a.code b.code c false | .ard t d a x c => mkLong 0xC7 (t.code * 32 + d.val) a.code 192 c x
  | .awr d a b x c => mkLong 0xC8 d.code a.code b.code c x | .mstat d a c => mkLong 0xC9 d.code a.code 192 c false
  | .cpy d a b c => mkLong 0xD0 d.code a.code b.code c false | .cpy2d d a b c => mkLong 0xD1 d.code a.code b.code c false
  | .cpyg d a b c => mkLong 0xD2 d.code a.code b.code c false | .stdec d a c => mkLong 0xD3 d.code a.code 192 c false
  | .lend d a b c => mkLong 0xD4 d.code a.code b.code c false | .lendGive d a b c => mkLong 0xD4 d.code a.code b.code c true
  | .share d a b c => mkLong 0xD5 d.code a.code b.code c false | .split d a b c => mkLong 0xD6 d.code a.code b.code c false
  | .merge d a b c => mkLong 0xD7 d.code a.code b.code c false | .kick d a b c => mkLong 0xD8 d.code a.code b.code c false
  | .svld d a o => [mkWord 0xE0 d.val a.code o.toNat] | .svst d a o => [mkWord 0xE1 d.val a.code o.toNat]
  | .sgath t d a i => [mkWord 0xE2 (t.code * 32 + d.val) a.code i.val] | .sscat t d a i => [mkWord 0xE3 (t.code * 32 + d.val) a.code i.val]
  | .sscan t d a ex op v => [mkWord 0xE4 (t.code * 32 + d.val) a.code (ex.toNat * 128 + op.code * 32 + v.val)]
  | .sred d a t op => [mkWord 0xE5 d.code a.val (t.code * 32 + op.code)]
  | .scmpr t d a m => [mkWord 0xE6 (t.code * 32 + d.val) a.val m.val] | .shist d a b => [mkWord 0xE7 d.code a.val b.code]
  | .ssort t d k desc j => [mkWord 0xE8 (t.code * 32 + d.val) k.toNat (desc.toNat * 128 + j.toNat)]
  | .svalu t op d a b => [mkWord 0xE9 (t.code * 32 + d.val) (op.code * 32 + a.val) b.code]
  | .blkrd d a b => [mkWord 0xF0 d.code a.code b.code] | .blkwr d a b => [mkWord 0xF1 d.code a.code b.code]
  | .blkred d a b => [mkWord 0xF2 d.code a.code b.code] | .lsend d a b => [mkWord 0xF3 d.code a.code b.code]
  | .jrot d a => [mkWord 0xF0 d.code a.code 192] | .gphase d a b => [mkWord 0xF1 d.code a.code b.code]
  | .phq d => [mkWord 0xF2 d.code 192 192] | .svnrm d => [mkWord 0xF3 d.code 192 192] | .stwr d a b => [mkWord 0xF4 d.code a.code b.code]
  | _ => []

/-- A class of agent that executes the instruction (R286, R290). -/
def execCls : Instr → Cls
  | .svld .. | .svst .. | .sgath .. | .sscat .. | .sscan .. | .sred .. | .scmpr .. | .shist .. | .ssort .. | .svalu .. => .stack
  | .blkrd .. | .blkwr .. => .copyE
  | .blkred .. => .collE
  | .lsend .. => .linkE
  | .jrot .. | .gphase .. | .phq .. | .svnrm .. | .stwr .. => .stencilE
  | _ => .compute

/-- The bytes of an instruction in memory. -/
def encodeBytes (i : Instr) : List Byte := (encode i).flatMap bytes32

/-- The class of agent that the table's word is read for: the opcode's page gives it, and on the engine page the fields that only
the stencil engine's instructions fix. -/
def tableCls (w : Nat) : Cls :=
  let op := bitsOf w 31 24
  if op = 0x9F && bitsOf w 7 0 == 0 then .mgmt
  else if op / 16 = 14 then .stack
  else if op / 16 = 15 then
    if op = 0xF4 || (op = 0xF0 && bitsOf w 7 0 == 192) || ((op = 0xF2 || op = 0xF3) && bitsOf w 15 0 == 0xC0C0) then .stencilE
    else if op = 0xF2 then .collE
    else if op = 0xF3 then .linkE
    else .copyE
  else .compute

/-- The bytes of the table's numbering: the first word, and a second word for what lies above it. -/
def tableBytes (w : Nat) : List Byte := bytes32 (BitVec.ofNat 32 w) ++ bytes32 (BitVec.ofNat 32 (w / 2 ^ 32))

/-- The instruction that the decoder reads from the bits of a table row (at least one word; the bits above are zero). -/
def decodeTableWord (nbits w : Nat) : Option Instr :=
  match decode (tableCls (w % 2 ^ nbits)) (tableBytes (w % 2 ^ nbits)) with
  | .ok (i, _) => some i
  | .error _ => none

end Sys2Proof
end

