-- ==== Sys2Proof/Machine/Bits.lean ====
section
/-! DEFINITION. Bit fields, byte order, and the sparse maps that hold memory and records: lists sorted by key. -/

namespace Sys2Proof.Machine

/-! ## Fields of a word (R6) -/

/-- Bits hi to lo of a word, as a number. -/
def fld (w : Word) (hi lo : Nat) : Nat := bitsOf w.toNat hi lo

/-- One bit of a word. -/
def bit (w : Word) (n : Nat) : Bool := w.getLsbD n

/-- The word with bits hi to lo replaced by v. -/
def setFld (w : Word) (hi lo v : Nat) : Word :=
  let m := 2 ^ (hi + 1 - lo)
  BitVec.ofNat 64 (w.toNat - fld w hi lo * 2 ^ lo + v % m * 2 ^ lo)

/-- A word from a number. -/
def word (n : Nat) : Word := BitVec.ofNat 64 n

/-- A number taken as a signed quantity of n bits. -/
def signedOf (n v : Nat) : Int := if v % 2 ^ n < 2 ^ (n - 1) then (v % 2 ^ n : Nat) else (v % 2 ^ n : Nat) - (2 ^ n : Nat)

/-- An integer modulo 2^n. -/
def wrap (n : Nat) (i : Int) : Nat := (i % (2 ^ n : Nat)).toNat

/-- An integer as a 64-bit pattern: W of R305. -/
def wordOfInt (i : Int) : Word := BitVec.ofInt 64 i

/-- The word selected by the mask from `new`, the rest from `old`. -/
def maskWord (mask old new : Word) : Word := (new &&& mask) ||| (old &&& ~~~mask)

/-- A mask of bits hi to lo. -/
def maskOf (hi lo : Nat) : Word := word ((2 ^ (hi + 1 - lo) - 1) * 2 ^ lo)

/-- Byte i of a word, little-endian (R7). -/
def byteOf (w : Word) (i : Nat) : Byte := BitVec.ofNat 8 (w.toNat / 2 ^ (8 * i))

/-- The value of bytes, little-endian (R7). -/
def leNat : List Byte → Nat
  | [] => 0
  | b :: bs => b.toNat + 256 * leNat bs

/-- The low n bytes of a number, little-endian. -/
def leBytes : Nat → Nat → List Byte
  | 0, _ => []
  | n + 1, v => BitVec.ofNat 8 v :: leBytes n (v / 256)

/-- Positions below n that hold, in increasing order. -/
def positions (n : Nat) (p : Nat → Bool) : List Nat := (List.range n).filter p

/-- How many of the low n bits of a number are set. -/
def popNat (n v : Nat) : Nat := (positions n fun i => v.testBit i).length

/-- The position of the k-th set bit (from 0) of the low n bits. -/
def nthSet (n v k : Nat) : Option Nat := (positions n fun i => v.testBit i)[k]?

/-! ## Sorted maps: keys strictly rising -/

/-- The entry at a key. -/
def mfind {α} : List (Nat × α) → Nat → Option α
  | [], _ => none
  | (j, v) :: r, k => if j = k then some v else mfind r k

/-- The entry at a key, or the value that an unlisted key has. -/
def mget {α} (d : α) (m : List (Nat × α)) (k : Nat) : α := (mfind m k).getD d

/-- The map without a key. -/
def mdel {α} (m : List (Nat × α)) (k : Nat) : List (Nat × α) := m.filter fun e => e.1 != k

/-- The map with an entry at a key. -/
def mset {α} : List (Nat × α) → Nat → α → List (Nat × α)
  | [], k, x => [(k, x)]
  | (j, v) :: r, k, x => if k < j then (k, x) :: (j, v) :: r else if j = k then (k, x) :: r else (j, v) :: mset r k x

/-- The map with a value at a key, in canonical form: a key whose value is the one unlisted keys have is not listed. -/
def mput {α} [DecidableEq α] (d : α) (m : List (Nat × α)) (k : Nat) (x : α) : List (Nat × α) := if x = d then mdel m k else mset m k x

/-- The entries with lo ≤ key < hi removed. -/
def mclear {α} (m : List (Nat × α)) (lo hi : Nat) : List (Nat × α) := m.filter fun e => decide (e.1 < lo) || decide (hi ≤ e.1)

/-- Whether a list of numbers holds k. -/
def shas (m : List Nat) (k : Nat) : Bool := m.contains k

/-- The sorted list with k. -/
def sadd : List Nat → Nat → List Nat
  | [], k => [k]
  | j :: r, k => if j = k then j :: r else if k < j then k :: j :: r else j :: sadd r k

/-- The list without k. -/
def sdel (m : List Nat) (k : Nat) : List Nat := m.filter fun j => j != k

/-- The sorted list with or without k. -/
def sput (m : List Nat) (k : Nat) (b : Bool) : List Nat := if b then sadd m k else sdel m k

/-- The members with lo ≤ k < hi removed. -/
def sclear (m : List Nat) (lo hi : Nat) : List Nat := m.filter fun k => decide (k < lo) || decide (hi ≤ k)

/-- The first element that satisfies a test, with the list without it. -/
def takeFirst {α} (p : α → Bool) : List α → Option (α × List α)
  | [] => none
  | x :: r => if p x then some (x, r) else (takeFirst p r).map fun (y, t) => (y, x :: t)

/-- The least index below n that satisfies a test. -/
def firstIdx (n : Nat) (p : Nat → Bool) : Option Nat := (List.range n).find? p

/-- Whether some index below n satisfies a test; no list is built. -/
def anyBelow : Nat → (Nat → Bool) → Bool
  | 0, _ => false
  | n + 1, p => p n || anyBelow n p

/-! ## CRC-32C (R245, R452) -/

/-- One step of CRC-32C for a bit. -/
def crcBit (c : Nat) : Nat := if c % 2 = 1 then c / 2 ^^^ 0x82F63B78 else c / 2

/-- CRC-32C of bytes from a register value. -/
def crcBytes : List Byte → Nat → Nat
  | [], c => c
  | b :: r, c =>
    let x := c ^^^ b.toNat
    crcBytes r (crcBit (crcBit (crcBit (crcBit (crcBit (crcBit (crcBit (crcBit x))))))))

/-- CRC-32C (Castagnoli). -/
def crc32c (bs : List Byte) : Nat := crcBytes bs 0xFFFFFFFF ^^^ 0xFFFFFFFF

end Sys2Proof.Machine
end

