-- ==== Sys2Proof/Machine/Float.lean ====
section
/-! DEFINITION. Number formats and their arithmetic (spec/08 R216 to R241): values of codes, one rounding of exact rationals, conversion,
quantisation, the correctly rounded special functions of R323. -/

namespace Sys2Proof

open Sys2Proof.Machine

/-! ## Formats (R216, R220, R223) -/

/-- A floating-point layout: exponent and fraction bits, bias, whether ∞ has a code, whether NaN has one, and whether only the all-ones
code is NaN (E4M3). -/
structure FP where
  eb : Nat
  mb : Nat
  bias : Int
  hasInf : Bool
  hasNan : Bool
deriving DecidableEq, Repr

def fpD : FP := ⟨11, 52, 1023, true, true⟩
def fpF : FP := ⟨8, 23, 127, true, true⟩
def fpH : FP := ⟨5, 10, 15, true, true⟩
def fpBf : FP := ⟨8, 7, 127, true, true⟩
def fpE4m3 : FP := ⟨4, 3, 7, false, true⟩
def fpE5m2 : FP := ⟨5, 2, 15, true, true⟩
def fpE3m2 : FP := ⟨3, 2, 3, false, false⟩
def fpE2m3 : FP := ⟨2, 3, 1, false, false⟩
def fpE2m1 : FP := ⟨2, 1, 1, false, false⟩

/-- The layout of a floating-point or MX element format. -/
def Fmt.fp : Fmt → Option FP
  | .d => some fpD | .f => some fpF | .h => some fpH | .bf => some fpBf | .e4m3 => some fpE4m3 | .e5m2 => some fpE5m2
  | .e3m2 => some fpE3m2 | .e2m3 => some fpE2m3 | .e2m1 => some fpE2m1 | _ => none

/-- The width in bits (R216). -/
def Fmt.width : Fmt → Nat
  | .i8 | .n8 | .e4m3 | .e5m2 | .mxi8 | .e8m0 => 8 | .i16 | .n16 | .h | .bf => 16 | .i32 | .n32 | .f => 32 | .i64 | .n64 | .d => 64
  | .e3m2 | .e2m3 => 6 | .e2m1 => 4

/-- Whether a format is a signed integer. -/
def Fmt.signed : Fmt → Bool
  | .i8 | .i16 | .i32 | .i64 => true | _ => false

/-- Whether a format is an integer. -/
def Fmt.isInt : Fmt → Bool
  | .i8 | .i16 | .i32 | .i64 | .n8 | .n16 | .n32 | .n64 => true | _ => false

/-- Formats whose subnormal operands the scalar path does not read as numbers (R238). -/
def Fmt.assists : Fmt → Bool
  | .d | .f | .h | .bf => true | _ => false

/-- The format of a floating type bit. -/
def FTy.fmt : FTy → Fmt
  | .d => .d | .f => .f

/-- The format of a long-vector element type (R289). -/
def LTy.fmt : LTy → Fmt
  | .f => .f | .bf => .bf | .h => .h | .i8 => .i8 | .i16 => .i16 | .i32 => .i32 | .e4m3 => .e4m3 | .e5m2 => .e5m2

/-- The layout of a floating element type. -/
def LTy.fp (t : LTy) : FP := (Fmt.fp t.fmt).getD fpF

/-- Bits of the layout. -/
def FP.width (f : FP) : Nat := 1 + f.eb + f.mb

/-! ## Flags (R235) -/

/-- Flags in the positions of STR.FPCTL. -/
abbrev Flags := BitVec 6

def flagNX : Flags := 1
def flagUF : Flags := 2
def flagOF : Flags := 4
def flagDZ : Flags := 8
def flagNV : Flags := 16
def flagIS : Flags := 32

/-- The flag, if it holds. -/
def flagIf (f : Flags) (b : Bool) : Flags := if b then f else 0

/-! ## Values -/

/-- The value of a code: a NaN with its sign, its fraction aligned to 52 bits and whether it signals; ±∞; (−1)^neg × m × 2^e. -/
inductive Num where
  | nan (neg : Bool) (frac : Nat) (sig : Bool)
  | inf (neg : Bool)
  | fin (neg : Bool) (m : Nat) (e : Int)
deriving DecidableEq, Repr

/-- The value of a floating-point code. -/
def FP.value (f : FP) (c : Nat) : Num :=
  let neg := c.testBit (f.eb + f.mb)
  let ex := c / 2 ^ f.mb % 2 ^ f.eb
  let fr := c % 2 ^ f.mb
  let top := 2 ^ f.eb - 1
  if ex = top ∧ f.hasInf then
    if fr = 0 then .inf neg else .nan neg (fr * 2 ^ (52 - f.mb)) (!fr.testBit (f.mb - 1))
  else if ex = top ∧ f.hasNan ∧ fr = 2 ^ f.mb - 1 then .nan neg (fr * 2 ^ (52 - f.mb)) false
  else if ex = 0 then .fin neg fr (1 - f.bias - f.mb)
  else .fin neg (fr + 2 ^ f.mb) ((ex : Int) - f.bias - f.mb)

/-- Whether a code is a subnormal. -/
def FP.subnormal (f : FP) (c : Nat) : Bool := decide (c / 2 ^ f.mb % 2 ^ f.eb = 0) && decide (c % 2 ^ f.mb ≠ 0)

/-- The code of a NaN carried into the format: quiet, with the leading fraction bits that fit (R222). -/
def FP.nanCode (f : FP) (neg : Bool) (frac : Nat) : Nat :=
  let s := if neg then 2 ^ (f.eb + f.mb) else 0
  if f.hasInf then s + (2 ^ f.eb - 1) * 2 ^ f.mb + (frac / 2 ^ (52 - f.mb) ||| 2 ^ (f.mb - 1)) else s + (2 ^ (f.eb + f.mb) - 1)

/-- The default NaN (R221, R223). -/
def FP.defaultNan (f : FP) : Nat := if f.hasInf then f.nanCode false (2 ^ 51) else 2 ^ (f.eb + f.mb) - 1

/-- The code of ±∞. -/
def FP.infCode (f : FP) (neg : Bool) : Nat := (if neg then 2 ^ (f.eb + f.mb) else 0) + (2 ^ f.eb - 1) * 2 ^ f.mb

/-- The code of the largest finite magnitude. -/
def FP.maxCode (f : FP) (neg : Bool) : Nat :=
  (if neg then 2 ^ (f.eb + f.mb) else 0) + (if f.hasInf then (2 ^ f.eb - 1) * 2 ^ f.mb - 1 else if f.hasNan then 2 ^ (f.eb + f.mb) - 2 else 2 ^ (f.eb + f.mb) - 1)

/-- The code of ±0. -/
def FP.zeroCode (f : FP) (neg : Bool) : Nat := if neg then 2 ^ (f.eb + f.mb) else 0

/-! ## Rounding of an exact rational (R232) -/

/-- ⌊log2 (n / d)⌋ for n, d > 0. -/
def ilog2 (n d : Nat) : Int :=
  let k : Int := (n.log2 : Int) - (d.log2 : Int)
  let ge := if 0 ≤ k then decide (d * 2 ^ k.toNat ≤ n) else decide (d ≤ n * 2 ^ (-k).toNat)
  if ge then k else k - 1

/-- n / d / 2^q rounded to an integer, and whether that is exact. -/
def roundInt (rm : Rm) (neg : Bool) (n d : Nat) (q : Int) : Nat × Bool :=
  let n := if q < 0 then n * 2 ^ (-q).toNat else n
  let d := if q < 0 then d else d * 2 ^ q.toNat
  let k := n / d
  let r := n % d
  let up := match rm with
    | .rn => decide (d < 2 * r) || (decide (2 * r = d) && decide (k % 2 = 1))
    | .rz => false
    | .ru => !neg && decide (r ≠ 0)
    | .rd => neg && decide (r ≠ 0)
  (if up then k + 1 else k, r == 0)

/-- The code of r × 2^q, which the format represents. -/
def FP.pack (f : FP) (neg : Bool) (r : Nat) (q : Int) : Nat :=
  let s := f.zeroCode neg
  if r = 0 then s
  else
    let e : Int := (r.log2 : Int) + q
    if e < 1 - f.bias then s + r * 2 ^ (q - (1 - f.bias - f.mb)).toNat
    else
      let m := if r.log2 ≤ f.mb then r * 2 ^ (f.mb - r.log2) else r / 2 ^ (r.log2 - f.mb)
      s + (e + f.bias).toNat * 2 ^ f.mb + (m - 2 ^ f.mb)

/-- (−1)^neg × n / d rounded into the format: gradual underflow, tininess after rounding; an overflow saturates (R233) or gives what
the rounding direction decides (R318). Answers the code and the flags. -/
def FP.round (f : FP) (rm : Rm) (sat : Bool) (neg : Bool) (n d : Nat) : Nat × Flags :=
  if n = 0 then (f.zeroCode neg, 0)
  else
    let e := ilog2 n d
    let qn := e - f.mb
    let q := max qn (1 - f.bias - f.mb)
    let (r, exact) := roundInt rm neg n d q
    let (ru, _) := roundInt rm neg n d qn
    let tiny := decide (((ru.log2 : Int) + qn) < 1 - f.bias)
    let mc := f.maxCode false
    let code := f.pack false r q
    if mc < code then
      let toInf := f.hasInf && !sat && match rm with
        | .rn => true | .rz => false | .ru => !neg | .rd => neg
      (if toInf then f.infCode neg else f.maxCode neg, flagOF ||| (if sat then flagIf flagNX (!exact) else flagNX))
    else (f.pack neg r q, flagIf flagNX (!exact) ||| flagIf flagUF (tiny && !exact))

/-- A dyadic value rounded into the format. -/
def FP.roundDyadic (f : FP) (rm : Rm) (sat : Bool) (neg : Bool) (m : Nat) (e : Int) : Nat × Flags :=
  if e < 0 then f.round rm sat neg m (2 ^ (-e).toNat) else f.round rm sat neg (m * 2 ^ e.toNat) 1

/-- The sum of signed dyadics as one: sign, magnitude, exponent. -/
def addDyadic (n1 : Bool) (m1 : Nat) (e1 : Int) (n2 : Bool) (m2 : Nat) (e2 : Int) : Int × Int :=
  let e := min e1 e2
  let a : Int := (if n1 then -1 else 1) * (m1 : Int) * 2 ^ (e1 - e).toNat
  let b : Int := (if n2 then -1 else 1) * (m2 : Int) * 2 ^ (e2 - e).toNat
  (a + b, e)

/-! ## Arithmetic in one format (R318, R319, R222) -/

/-- Whether a value is a NaN. -/
def Num.isNan : Num → Bool
  | .nan .. => true | _ => false

/-- The NaN result of R222: the first NaN operand, quieted; NV where one signals. -/
def FP.nanOf (f : FP) (xs : List Num) : Option (Nat × Flags) :=
  match xs.find? Num.isNan with
  | some (.nan s fr _) => some (f.nanCode s fr, flagIf flagNV (xs.any fun x => match x with | .nan _ _ g => g | _ => false))
  | _ => none

/-- The invalid result: the default NaN with NV. -/
def FP.invalid (f : FP) : Nat × Flags := (f.defaultNan, flagNV)

/-- a + b. An exact zero sum of unlike signs is +0, −0 toward −∞. -/
def FP.add (f : FP) (rm : Rm) (a b : Num) : Nat × Flags :=
  match f.nanOf [a, b], a, b with
  | some r, _, _ => r
  | none, .inf s, .inf t => if s = t then (f.infCode s, 0) else f.invalid
  | none, .inf s, _ => (f.infCode s, 0)
  | none, _, .inf t => (f.infCode t, 0)
  | none, .fin n1 m1 e1, .fin n2 m2 e2 =>
    let (v, e) := addDyadic n1 m1 e1 n2 m2 e2
    if v = 0 then (f.zeroCode (if m1 = 0 ∧ m2 = 0 ∧ n1 = n2 then n1 else rm == .rd), 0)
    else f.roundDyadic rm false (decide (v < 0)) v.natAbs e
  | none, _, _ => f.invalid

/-- The value with its sign inverted. -/
def Num.neg : Num → Num
  | .nan s fr g => .nan s fr g | .inf s => .inf !s | .fin s m e => .fin (!s) m e

/-- a × b. -/
def FP.mul (f : FP) (rm : Rm) (a b : Num) : Nat × Flags :=
  match f.nanOf [a, b], a, b with
  | some r, _, _ => r
  | none, .inf s, .inf t => (f.infCode (s != t), 0)
  | none, .inf s, .fin t m _ => if m = 0 then f.invalid else (f.infCode (s != t), 0)
  | none, .fin s m _, .inf t => if m = 0 then f.invalid else (f.infCode (s != t), 0)
  | none, .fin n1 m1 e1, .fin n2 m2 e2 => f.roundDyadic rm false (n1 != n2) (m1 * m2) (e1 + e2)
  | none, _, _ => f.invalid

/-- a / b. -/
def FP.div (f : FP) (rm : Rm) (a b : Num) : Nat × Flags :=
  match f.nanOf [a, b], a, b with
  | some r, _, _ => r
  | none, .inf _, .inf _ => f.invalid
  | none, .inf s, .fin t _ _ => (f.infCode (s != t), 0)
  | none, .fin s _ _, .inf t => (f.zeroCode (s != t), 0)
  | none, .fin n1 m1 e1, .fin n2 m2 e2 =>
    if m2 = 0 then if m1 = 0 then f.invalid else (f.infCode (n1 != n2), flagDZ)
    else
      let e := e1 - e2
      if e < 0 then f.round rm false (n1 != n2) m1 (m2 * 2 ^ (-e).toNat) else f.round rm false (n1 != n2) (m1 * 2 ^ e.toNat) m2
  | none, _, _ => f.invalid

/-- a × b + c, rounded once; ∞ × 0 is invalid even beside a quiet NaN c (R319). -/
def FP.fma (f : FP) (rm : Rm) (a b c : Num) : Nat × Flags :=
  let infZero := match a, b with
    | .inf _, .fin _ 0 _ => true | .fin _ 0 _, .inf _ => true | _, _ => false
  match f.nanOf [a, b, c] with
  | some (r, g) => (r, g ||| flagIf flagNV infZero)
  | none =>
    if infZero then f.invalid
    else match a, b, c with
    | .fin n1 m1 e1, .fin n2 m2 e2, .fin n3 m3 e3 =>
      let (v, e) := addDyadic (n1 != n2) (m1 * m2) (e1 + e2) n3 m3 e3
      if v = 0 then (f.zeroCode (if m1 * m2 = 0 ∧ m3 = 0 ∧ (n1 != n2) = n3 then n3 else rm == .rd), 0)
      else f.roundDyadic rm false (decide (v < 0)) v.natAbs e
    | .fin _ _ _, .fin _ _ _, .inf t => (f.infCode t, 0)
    | a, b, c =>
      let s := (match a with | .inf s | .fin s _ _ => s | _ => false) != (match b with | .inf s | .fin s _ _ => s | _ => false)
      match c with
      | .inf t => if s = t then (f.infCode s, 0) else f.invalid
      | _ => (f.infCode s, 0)

/-- The integer square root by Newton's steps, with fuel. -/
def isqrtLoop : Nat → Nat → Nat → Nat
  | 0, _, x => x
  | k + 1, n, x => let y := (x + n / x) / 2; if y < x then isqrtLoop k n y else x

/-- ⌊√n⌋. -/
def isqrt (n : Nat) : Nat := if n = 0 then 0 else isqrtLoop (n.log2 + 2) n (2 ^ (n.log2 / 2 + 1))

/-- √(m × 2^e) as a rational that rounds like it: at least `bits` bits, the last one sticky. -/
def sqrtRat (m : Nat) (e : Int) (bits : Nat) : Nat × Int :=
  let k := 2 * bits + (if e % 2 = 0 then 0 else 1)
  let r := isqrt (m * 2 ^ k)
  let st := if r * r = m * 2 ^ k then 0 else 1
  (2 * r + st, (e - k) / 2 - 1)

/-- √a. -/
def FP.sqrt (f : FP) (rm : Rm) (a : Num) : Nat × Flags :=
  match f.nanOf [a], a with
  | some r, _ => r
  | none, .inf s => if s then f.invalid else (f.infCode false, 0)
  | none, .fin s m e =>
    if m = 0 then (f.zeroCode s, 0)
    else if s then f.invalid
    else let (r, q) := sqrtRat m e (f.mb + 4); f.roundDyadic rm false false r q
  | none, _ => f.invalid

/-- The order of two numbers: −1, 0, 1 as less, equal, greater; none for unordered. −0 and +0 are equal. -/
def Num.cmp (a b : Num) : Option Int :=
  match a, b with
  | .nan .., _ | _, .nan .. => none
  | .inf s, .inf t => some (if s = t then 0 else if s then -1 else 1)
  | .inf s, _ => some (if s then -1 else 1)
  | _, .inf t => some (if t then 1 else -1)
  | .fin n1 m1 e1, .fin n2 m2 e2 => some (addDyadic n1 m1 e1 (!n2) m2 e2).1.sign

/-- The lesser (max = false) or the greater operand, −0 below +0 (R320). -/
def FP.minmax (f : FP) (max : Bool) (ca cb : Nat) (a b : Num) : Nat × Flags :=
  match f.nanOf [a, b] with
  | some r => r
  | none =>
    let lt := match Num.cmp a b with
      | some c => decide (c < 0) || (decide (c = 0) && ca.testBit (f.eb + f.mb))
      | none => false
    (if lt != max then ca else cb, 0)

/-- The comparison mask of R321. -/
def cmpMask (a b : Num) : Nat :=
  match Num.cmp a b with
  | none => 8
  | some c => if c < 0 then 1 else if c = 0 then 2 else 4

/-- roundToIntegralExact (R318). -/
def FP.rint (f : FP) (rm : Rm) (a : Num) : Nat × Flags :=
  match f.nanOf [a], a with
  | some r, _ => r
  | none, .inf s => (f.infCode s, 0)
  | none, .fin s m e =>
    if 0 ≤ e then f.roundDyadic rm false s m e
    else
      let (r, exact) := roundInt rm s m (2 ^ (-e).toNat) 0
      (if r = 0 then f.zeroCode s else (f.round rm false s r 1).1, flagIf flagNX (!exact))
  | none, _ => f.invalid

/-- The mask of FCLASS (R323). -/
def FP.classMask (f : FP) (c : Nat) : Nat :=
  match f.value c with
  | .inf s => if s then 1 else 128
  | .nan _ _ g => if g then 256 else 512
  | .fin s m _ => if m = 0 then (if s then 8 else 16) else if f.subnormal c then (if s then 4 else 32) else if s then 2 else 64

/-! ## Conversion (R233) -/

/-- The value that a code of any format has; integers as dyadics with exponent 0. -/
def Fmt.value (x : Fmt) (c : Nat) : Num :=
  match Fmt.fp x with
  | some p => p.value (c % 2 ^ p.width)
  | none =>
    match x with
    | .mxi8 => let v := signedOf 8 c; .fin (decide (v < 0)) v.natAbs (-6)
    | .e8m0 => if c % 256 = 255 then .nan false (2 ^ 51) false else .fin false 1 ((c % 256 : Nat) - 127)
    | _ => if x.signed then let v := signedOf x.width c; .fin (decide (v < 0)) v.natAbs 0 else .fin false (c % 2 ^ x.width) 0

/-- A code as the instruction writes it into a register (R217). -/
def Fmt.toReg (x : Fmt) (c : Nat) : Word := if x.signed then BitVec.ofInt 64 (signedOf x.width c) else word (c % 2 ^ x.width)

/-- Whether ∞ widens from one floating format to another. -/
def widens (s t : Fmt) : Bool :=
  match s, t with
  | .f, .d | .h, .d | .bf, .d | .h, .f | .bf, .f | .e5m2, .d | .e5m2, .f | .e5m2, .h | .e5m2, .bf => true
  | _, _ => false

/-- The least and greatest integer of an integer format. -/
def Fmt.range (x : Fmt) : Int × Int :=
  if x.signed then (-(2 ^ (x.width - 1) : Nat), (2 ^ (x.width - 1) : Nat) - 1) else (0, (2 ^ x.width : Nat) - 1)

/-- A value converted into a format: its code and flags. `src` decides ∞'s row and whether a saturated integer sets IS beside NV. -/
def convert (src : Fmt) (t : Fmt) (rm : Rm) (x : Num) : Nat × Flags :=
  match Fmt.fp t with
  | some p =>
    match x with
    | .nan s fr g => if p.hasNan then (p.nanCode s fr, flagIf flagNV g) else (0, flagNV)
    | .inf s => if (src = t ∨ widens src t) ∧ p.hasInf then (p.infCode s, 0) else (p.maxCode s, flagNX)
    | .fin s m e =>
      let (c, g) := p.roundDyadic rm true s m e
      (c, g)
  | none =>
    let lim := if t = .mxi8 then ((-127 : Int), (127 : Int)) else t.range
    let q : Int := if t = .mxi8 then -6 else 0
    match x with
    | .nan _ _ _ => (0, flagNV)
    | .inf s => (wrap t.width (if s then lim.1 else lim.2), if t = .mxi8 then flagNX else flagNV)
    | .fin s m e =>
      let (r, exact) := if e < 0 then roundInt rm s m (2 ^ (-e).toNat) q else roundInt rm s (m * 2 ^ e.toNat) 1 q
      let v : Int := if s then -(r : Int) else r
      if v < lim.1 ∨ lim.2 < v then
        (wrap t.width (if v < lim.1 then lim.1 else lim.2),
          flagIf flagNX (!exact) ||| (if t = .mxi8 then flagOF else flagNV ||| flagIf flagIS src.isInt))
      else (wrap t.width v, flagIf flagNX (!exact) ||| flagIf flagUF (t = .mxi8 && r == 0 && m != 0))

/-! ## Quantisation of a block (R234) -/

/-- emax of R223. -/
def Fmt.emax : Fmt → Int
  | .e4m3 => 8 | .e5m2 => 15 | .e3m2 => 4 | .e2m3 => 2 | .e2m1 => 2 | _ => 0

/-- Whether a format has a NaN code. -/
def Fmt.hasNan (x : Fmt) : Bool := match Fmt.fp x with | some p => p.hasNan | none => false

/-- A value times 2^k. -/
def Num.scale (x : Num) (k : Int) : Num := match x with | .fin s m e => .fin s m (e + k) | y => y

/-- The scale code and element codes of 32 values, with the flags. -/
def quantBlock (src : Fmt) (vs : List Num) (t : Fmt) (rm : Rm) : Nat × List Nat × Flags :=
  if vs.any Num.isNan && !t.hasNan then (0xFF, vs.map fun _ => 0, flagNV)
  else
    let logs := vs.filterMap fun v => match v with | .fin _ m e => if m = 0 then none else some ((m.log2 : Int) + e) | _ => none
    let x : Int := match logs with
      | [] => -127
      | l :: r => max (-127) (min 127 (r.foldl max l - t.emax))
    let cs := vs.map fun v => convert src t rm (v.scale (-x))
    ((x + 127).toNat, cs.map (·.1), cs.foldl (fun g c => g ||| c.2) 0)

/-! ## Special functions, correctly rounded (R323, R324): fixed-point approximations with an error bound, refined until they round alike -/

/-- Σ (1/k)^(2i+1) / (2i+1) with signs by `alt`, scaled by 2^p: atanh (alt = false) or atan of 1/k. -/
def atanInv (alt : Bool) (k : Nat) : Nat → Int → Nat → Int → Int
  | 0, _, _, acc => acc
  | f + 1, t, i, acc =>
    if t = 0 then acc
    else atanInv alt k f (t / (k * k : Nat)) (i + 1) (acc + (if alt && i % 2 == 1 then -1 else 1) * (t / (2 * i + 1 : Nat)))

/-- ln 2 × 2^p. -/
def ln2Fix (p : Nat) : Int := 2 * atanInv false 3 (p + 2) ((2 ^ p : Nat) / 3) 0 0

/-- π × 2^p. -/
def piFix (p : Nat) : Int := 16 * atanInv true 5 (p + 2) ((2 ^ p : Nat) / 5) 0 0 - 4 * atanInv true 239 (p + 2) ((2 ^ p : Nat) / 239) 0 0

/-- Σ x^k / k! from term t on, scaled by 2^p. -/
def expLoop (p : Nat) (x : Int) : Nat → Int → Nat → Int → Int
  | 0, _, _, acc => acc
  | f + 1, t, k, acc => if t = 0 then acc else expLoop p x f (t * x / (2 ^ p : Nat) / (k + 1 : Nat)) (k + 1) (acc + t)

/-- e^x × 2^p for |x| < 1, x scaled by 2^p. -/
def expFix (p : Nat) (x : Int) : Int := expLoop p x (p + 2) (2 ^ p : Nat) 0 0

/-- Alternating even or odd powers: cos (k = 0) and sin (k = 1) by Taylor. -/
def trigLoop (p : Nat) (x2 : Int) : Nat → Int → Nat → Int → Int
  | 0, _, _, acc => acc
  | f + 1, t, k, acc => if t = 0 then acc else trigLoop p x2 f (-(t * x2 / (2 ^ p : Nat)) / ((k + 1) * (k + 2) : Nat)) (k + 2) (acc + t)

/-- cos x × 2^p for |x| < 1. -/
def cosFix (p : Nat) (x : Int) : Int := trigLoop p (x * x / (2 ^ p : Nat)) (p + 2) (2 ^ p : Nat) 0 0

/-- sin x × 2^p for |x| < 1. -/
def sinFix (p : Nat) (x : Int) : Int := trigLoop p (x * x / (2 ^ p : Nat)) (p + 2) x 1 0

/-- atanh t × 2^p for |t| < 1/2. -/
def atanhLoop (p : Nat) (t2 : Int) : Nat → Int → Nat → Int → Int
  | 0, _, _, acc => acc
  | f + 1, t, k, acc => if t = 0 then acc else atanhLoop p t2 f (t * t2 / (2 ^ p : Nat)) (k + 2) (acc + t / (k : Int))

/-- log2 of y/2^p, 1 ≤ y/2^p < 2, scaled by 2^p. -/
def log2Fix (p : Nat) (y : Int) : Int :=
  let one : Int := (2 ^ p : Nat)
  let t := (y - one) * one / (y + one)
  2 * atanhLoop p (t * t / one) (p + 2) t 1 0 * one / ln2Fix p

/-- e^(−y) × 2^p for y ≥ 0, both scaled by 2^p. -/
def expNegFix (p : Nat) (y : Int) : Int :=
  let l := ln2Fix p
  let k := y / l
  expFix p (-(y - k * l)) / (2 ^ k.toNat : Nat)

/-- A dyadic scaled by 2^p, rounded down. -/
def fixOf (p : Nat) (m : Nat) (e : Int) : Int :=
  if 0 ≤ e + p then (m : Int) * (2 ^ (e + p).toNat : Nat) else (m : Int) / (2 ^ (-(e + p)).toNat : Nat)

/-- sin or cos of m × 2^e by reduction modulo π/2, scaled by 2^p. -/
def sinCosFix (cos : Bool) (p m : Nat) (e : Int) : Int :=
  let big := p + 64 + (max 0 (e + m.log2)).toNat
  let half := piFix big / 2
  let x := fixOf big m e
  let k := (2 * x + half) / (2 * half)
  let r := (x - k * half) / (2 ^ (big - p) : Nat)
  let n := (k + (if cos then 1 else 0)) % 4
  if n = 0 then sinFix p r else if n = 1 then cosFix p r else if n = 2 then -sinFix p r else -cosFix p r

/-- Rounds sign × (value / 2^p × 2^x) once its neighbours within the error round alike; the precision doubles with the fuel. -/
def refine (f : FP) (rm : Rm) (g : Nat → Int × Int) : Nat → Nat → Nat × Flags
  | 0, p => let (v, x) := g p; f.roundDyadic rm false (decide (v < 0)) (2 * v.natAbs + 1) (x - p - 1)
  | k + 1, p =>
    let (v, x) := g p
    let a := v.natAbs
    let err := 4096
    if err * 4 < a then
      let lo := f.roundDyadic rm false (decide (v < 0)) (a - err) (x - p)
      let hi := f.roundDyadic rm false (decide (v < 0)) (a + err) (x - p)
      if lo = hi then lo else refine f rm g k (2 * p)
    else refine f rm g k (2 * p)

/-- A value just above (or below) m × 2^e, nearer than any rounding can tell. -/
def nearly (f : FP) (rm : Rm) (neg : Bool) (m : Nat) (e : Int) (above : Bool) : Nat × Flags :=
  let m' := m * 2 ^ 200
  f.roundDyadic rm false neg (if above then m' + 1 else m' - 1) (e - 200)

/-- FUN codes 3 to 11 on a value (R323, R324). -/
def FP.func (f : FP) (rm : Rm) (fn : Nat) (a : Num) : Nat × Flags :=
  let one : Num := .fin false 1 0
  match f.nanOf [a], a with
  | some r, _ => r
  | none, .inf s =>
    match fn with
    | 3 => f.rint rm a
    | 4 => (f.zeroCode s, 0)
    | 5 => if s then f.invalid else (f.zeroCode false, 0)
    | 6 => if s then (f.zeroCode false, 0) else (f.infCode false, 0)
    | 7 => if s then f.invalid else (f.infCode false, 0)
    | 8 | 9 => f.invalid
    | 10 => f.roundDyadic rm false s 1 0
    | _ => if s then (f.zeroCode false, 0) else f.roundDyadic rm false false 1 0
  | none, .fin s m e =>
    let small (k : Int) : Bool := decide ((m.log2 : Int) + e < -k)
    match fn with
    | 3 => f.rint rm a
    | 4 => if m = 0 then (f.infCode s, flagDZ) else f.div rm one a
    | 5 =>
      if m = 0 then (f.infCode s, flagDZ)
      else if s then f.invalid
      else
        let (r, q) := sqrtRat m e (2 * f.mb + 80)
        f.div rm one (.fin false r q)
    | 6 =>
      if m = 0 then f.roundDyadic rm false false 1 0
      else if small 60 then nearly f rm false 1 0 (!s)
      else if 0 ≤ e ∨ (m % 2 ^ (-e).toNat = 0) then
        let v := if 0 ≤ e then m * 2 ^ (min e 4096).toNat else m / 2 ^ (-e).toNat
        let v := min v 3000
        f.roundDyadic rm false false 1 (if s then -(v : Int) else v)
      else if 12 ≤ (m.log2 : Int) + e then f.roundDyadic rm false false 3 (if s then -3000 else 3000)
      else
        refine f rm (fun p =>
          let x := (if s then -1 else 1) * fixOf p m e
          let i := x / (2 ^ p : Nat)
          (expFix p ((x - i * (2 ^ p : Nat)) * ln2Fix p / (2 ^ p : Nat)), i)) 8 128
    | 7 =>
      if m = 0 then (f.infCode true, flagDZ)
      else if s then f.invalid
      else
        let k := (m.log2 : Int) + e
        if m = 2 ^ m.log2 then (let v := k; if v = 0 then (f.zeroCode false, 0) else f.roundDyadic rm false (decide (v < 0)) v.natAbs 0)
        else refine f rm (fun p => (k * (2 ^ p : Nat) + log2Fix p (fixOf p m (-(m.log2 : Int))), 0)) 8 192
    | 8 =>
      if m = 0 then (f.zeroCode s, 0)
      else if small 40 then nearly f rm s m e false
      else refine f rm (fun p => ((if s then -1 else 1) * sinCosFix false p m e, 0)) 8 192
    | 9 =>
      if m = 0 then f.roundDyadic rm false false 1 0
      else if small 40 then nearly f rm false 1 0 false
      else refine f rm (fun p => (sinCosFix true p m e, 0)) 8 192
    | 10 =>
      if m = 0 then (f.zeroCode s, 0)
      else if small 40 then nearly f rm s m e false
      else if 6 ≤ (m.log2 : Int) + e then nearly f rm s 1 0 false
      else refine f rm (fun p =>
          let x := expNegFix p (2 * fixOf p m e)
          let one : Int := (2 ^ p : Nat)
          ((if s then -1 else 1) * ((one - x) * one / (one + x)), 0)) 8 192
    | _ =>
      if m = 0 then f.roundDyadic rm false false 1 (-1)
      else if small 60 then nearly f rm false 1 (-1) (!s)
      else if !s ∧ 7 ≤ (m.log2 : Int) + e then nearly f rm false 1 0 false
      else if s ∧ 12 ≤ (m.log2 : Int) + e then f.roundDyadic rm false false 3 (-3000)
      else refine f rm (fun p =>
          let x := expNegFix p (fixOf p m e)
          let one : Int := (2 ^ p : Nat)
          (if s then x * one / (one + x) else one * one / (one + x), 0)) 8 256
  | none, _ => f.invalid

end Sys2Proof
end

