-- ==== Sys2Proof/Config.lean ====
section
/-! DEFINITION. What the spec leaves open: free values without a body (no proof can see what they are), and the typical figures (R5)
that the model takes as the cycle of an event. -/

namespace Sys2Proof

/-- A fresh word that nothing constrains: the model applies it to its counter `freeCount`, which every use advances. It stands for a
value that the spec leaves undetermined (log entry 3). -/
opaque Config.freeWord : Nat → Word

/-- The choice among the codes that the declared bound allows the physical mesh's read-out, or the size of a probe's error, for the
n-th fresh reading (R264, R267; log entry 3). -/
opaque Config.adcNoise : Nat → Nat

/-- The holding-DAC code that a set of calibration tables gives a physical cell (section, column, mode, whether of φ) for a phase word and the
trim correction of its column pair (R247; the tables are firmware state: log entry 3). -/
opaque Config.holding : Nat → Nat → Nat → Nat → Bool → Nat → Int → Word

/-- The holding-DAC code that puts a physical cell into the bar state (R247; log entry 3). -/
opaque Config.barState : Nat → Nat → Nat → Nat → Bool → Word

/-- The heater power, in thousandths of full scale, that the trim loop sets for a column whose plausible sensors lie so far from its
calibration temperature (in 1/64 °C) and whose probes imply such a phase error (R268; log entry 3). -/
opaque Config.heater : Int → Int → Nat

/-- The steps by which the trim loop moves a column's holding codes for such a phase error: of the value, its sign (R268; log entry 3). -/
opaque Config.trimStep : Int → Int

/-- The 256-bit digest or signature half that the device computes with keys and images that the spec does not give (R471; log entry 3). -/
opaque Config.secret : Nat → BitVec 256

/-- Cycles of the typical latencies of R77, R83, R101, R191, R307 and R394 that the model takes as the cycle of an event (log entry 4). -/
structure Config.Latency where
  l1 : Nat := 4
  scratch : Nat := 10
  accWindow : Nat := 12
  mailbox : Nat := 16
  llcNear : Nat := 36
  llcFar : Nat := 52
  miss : Nat := 260
  stackScratch : Nat := 4
  stackHbm : Nat := 90
  stackSwitch : Nat := 110
  stackFar : Nat := 230
  line : Nat := 4
  holderTile : Nat := 8
  holderNear : Nat := 40
  holderFar : Nat := 56
  walk : Nat := 100
  tokenOp : Nat := 60
  sweep : Nat := 128
  flush : Nat := 2048
  tlbinv : Nat := 5000
  icinv : Nat := 2500
  tdu : Nat := 80
  probe : Nat := 36
  semRelease : Nat := 4
deriving DecidableEq, Repr

/-- The figures in use. -/
def Config.lat : Config.Latency := {}

end Sys2Proof
end

