-- ==== Sys2Proof/Machine/State.lean ====
section
/-! DEFINITION. The state of the device as plain data: every piece of state the spec names (INVENTORY.md lists them with their rules),
and the model's own fields (the scheduled events, whose turn it is, the free-value counter). -/

namespace Sys2Proof.Machine

/-! ## Memory -/

/-- Bytes by location, in canonical form. A location below 2^52 is a physical address (R24); the scratchpad of quad q lies at
2^52 + q × 2^23, the stack scratch of stack core k at 2^53 + k × 2^18, the mailbox of physical tile t at 2^54 + t × 2^16. -/
abbrev Memory := List Host.Cell

/-- The canonical form: addresses strictly rise, and no byte listed equals what an unlisted address reads as (zero: R76; log entry 2). -/
def Memory.wf : Memory → Bool
  | [] => true
  | [(_, b)] => b != 0
  | (a, b) :: (a', b') :: r => b != 0 && decide (a < a') && Memory.wf ((a', b') :: r)

/-! ## Strands -/

/-- The STR registers (R19, R37, R69, R91, R103, R141, R149, R162, R175, R202, R235, R360, R413, R417, R418). -/
structure StrRegs where
  part : Word := 0
  sched : Word := 0
  asid : BitVec 12 := 0
  tvec : Word := 0
  xlate : Word := 0
  holdf : Word := 0
  fpctl : Word := 0
  syncretry : Word := 0x0108
  timer : Word := 0
  rep : Word := 0
  reppc : Word := 0
  mon0 : Word := 0
  mon1 : Word := 0
  mon2 : Word := 0
  mon3 : Word := 0
  hta : Word := 0
  htb : Word := 0
  htr : Word := 0
  tsm0 : Word := 0
  tsm1 : Word := 0
  tsm2 : Word := 0
  tcause : Word := 0
  txpc : Word := 0
  txva : Word := 0
  txrep : Word := 0
  txreppc : Word := 0
  txstat : Word := 0
  vflags : Word := 0
  usel : Word := 0
deriving DecidableEq, Repr

/-- The kinds of request at a synchronisation home (R137, R145). -/
inductive SyncKind where
  | take | fill | peek | empty | aadd | aand | aor | amin | amax | axch | acas
deriving DecidableEq, Repr

/-- Who made a request: an agent, a host write of R147, the TDU's report of R189, the fault log's notification of R422, the
End of an engine's operation (R393), a copy's Fill of a SYNC word (R147), a word of a peer's WRITE packet (R457), with how many
words of it still wait. -/
inductive Who where
  | agent (a : Agent) | host (id : Nat) | tdu | note | engineEnd (e : Nat) | engineData (e : Nat) | peer (p : Packet)
deriving DecidableEq, Repr

/-- A request to a synchronisation home (R140): the word, the operands captured at issue, the destination register left empty with
the value that it held, whether the overflow list has carried it (R142), whether an engine fills the word with a poisoned value
(R425), and whether the word's page has NA = 1 (R70). -/
structure SyncReq where
  who : Who
  kind : SyncKind
  loc : Nat
  home : Nat
  va : Word
  asid : Nat
  v : Word
  v2 : Word
  dst : Option Nat
  old : Word
  listed : Bool
  poison : Bool
  na : Bool
deriving DecidableEq, Repr

/-- What a PARKED strand waits for (R161). -/
inductive Park where
  | regs (ns : List Nat)
  | walk (vpage : Nat)
  | lease
  | fence
  | invalidation
  | command
  | kickFull (e : Nat)
  | spawnFull
  | sem (tile idx thr : Nat) (semw : Option (Option Nat))
  | gbar (group : Nat)
  | rqtake
  | exitWait
  | transit (key : Nat)
  | requests
  | mesh
  | answer
  | earlier
  | migration
  | trailing
  | binding (l : Nat)
  | sequencer
  | monitor (dst : Option Nat)
deriving DecidableEq, Repr

/-- The states of a context (R161). A READY strand may have a retry that waits for a cycle (R141). -/
inductive Run where
  | free | ready | parked (p : Park) | mwait (dst : Option Nat) (resumed : Bool) | wait | halted (was : Option Park)
deriving DecidableEq, Repr

/-- A fence in progress (R124): its scope 0 to 3, its destination, the slices whose echo is awaited, its least completion cycle,
and the status gathered. -/
structure FenceRec where
  scope : Nat
  dst : Option Nat
  slices : List Nat
  ready : Nat
  lost : Bool
deriving DecidableEq, Repr

/-- Pending asynchronous traps (R416, R421): TIMER, PREEMPT, MESHALARM with its INFO, FABRICLOSS with its chip id. -/
structure Pending where
  timer : Bool := false
  preempt : Bool := false
  meshAlarm : Option Nat := none
  fabricLoss : Option Nat := none
deriving DecidableEq, Repr

/-- A cached translation (R32): the structure that holds it (L2 TLB of tile t: t; stack core k: 100 + k; device-level engine e: 400 + e;
host window n: 600 + n; L1 TLB of compute core c: 1000 + c), the ASID, the first VA, the size class 0 to 2, and the leaf entry. -/
structure Tlb where
  unit : Nat
  asid : Nat
  vbase : Nat
  size : Nat
  leaf : Word
deriving DecidableEq, Repr

/-- One context of a core, or the hart of an engine: what R162 lists, and what the rules named need beside it; `walked` and `walkFault`
are what its walks have brought for the instruction at its pc (R33, R35). -/
structure Strand where
  run : Run := .free
  pc : Word := 0
  regs : List (Nat × Word) := []
  empties : List Nat := []
  svs : List (Nat × BitVec 1024) := []
  str : StrRegs := {}
  party : Party := 0
  pending : Pending := {}
  repBuf : List (Nat × Instr) := []
  busy : Nat := 0
  retryAt : Nat := 0
  lastIssue : Option Nat := none
  clauseOk : Bool := false
  fence : Option FenceRec := none
  withdrawn : List SyncReq := []
  dropped : Option Word := none
  parkedAt : Nat := 0
  boost : Bool := false
  report : Word := 0
  pclass : Nat := 0
  partition : Nat := 0
  pair : Option Agent := none
  walkFault : Option (Word × Word) := none
  walked : List Tlb := []
deriving DecidableEq, Repr

/-! ## Cores -/

/-- What an accepted pass carries until it starts, and over a halt (R261, R263, R383): the vectors whose updates are complete, the format
context at its acceptance, and, of its starts so far, the bank, the declaration at the first, the least declaration, the flags raised and
whether its alarm is due. -/
structure MeshPart where
  done : Nat := 0
  ctx : Word
  bank : Option Nat := none
  eb : Option Nat := none
  low : Nat := 255
  flags : Nat := 0
  alarm : Bool := false
deriving DecidableEq, Repr

/-- A request of a core to its tile's mesh (R179): the issuing context, its destination and its signal clause, the operands captured at
issue, and its pc. Kind: 0 MFMT, 1 PLOAD, 2 PSWAP, 3 MPASS, 4 MTRAN, 5 MPROBE, 6 ACLR, 7 MSTAT. A pass that the mesh has accepted has a
`part`; in a core's queue it is one that a halt has stopped. -/
structure MeshReq where
  kind : Nat
  by_ : Agent
  party : Party
  dst : Option Nat
  sig : Option (BitVec 8 × BitVec 4)
  a : Word
  b : Word
  pc : Word
  part : Option MeshPart := none
deriving DecidableEq, Repr

/-- A long-vector instruction in a core's dispatch queue or in execution (R178, R358, R376): its strand; its kind (0 VEXIT, 1 one whose least
interval is 1, 2 VMMA, 3 ARD or AWR with so many rows); its latency; the registers of the bank that it reads and that it writes; the general
registers that it fills and its flags; once started, the cycle in which it completes. -/
structure VecOp where
  by_ : Agent
  kind : Nat
  rows : Nat
  lat : Nat
  reads : List Nat
  writes : List Nat
  gs : List (Nat × Word)
  flags : BitVec 6
  due : Nat
deriving DecidableEq, Repr

/-- A compute core or stack core: R53, R167, R169, R176 to R179, R200, R407, R462 to R464. `regMap` sends each failed entry of the register
file to its spare entry, 2,048 and above (R53); `dispatch` is the queue of R178 and `flying` what the WVU has started from it; `svFree` is the
cycle from which a stack core may start its next stack-vector instruction (R493). -/
structure Core where
  regMap : List (Nat × Nat) := []
  turns : List Nat := []
  spare : Nat := 0
  extra : List (Nat × Nat) := []
  yielded : List Nat := []
  regcap : Word := 0
  qweight : Word := 0
  rq : List (Nat × Word) := []
  takers : List (Nat × Nat) := []
  lease : Option Nat := none
  leaseQueue : List Nat := []
  lv : List (Nat × BitVec 4096) := []
  dispatch : List VecOp := []
  flying : List VecOp := []
  svFree : Nat := 0
  meshQueue : List MeshReq := []
  fmtctx : Word := 12
  progress : Word := 0
  level : Nat := 0x1000
  grant : Nat := 0x0800
  sleepep : Nat := 0
  slept : Bool := false
  issuedAt : Option Nat := none
  cost : Nat := 0
  vfreq : Nat := 5
deriving DecidableEq, Repr

/-- A line of an L1 data cache (R55 to R57): its core, line address, holder-table key, generation and holder at the fill, the ASID and
the VA of its first byte, whether its page has NA = 1 (R70), the contexts of the core that used it (R107), its valid and dirty bytes, a full
bit and a poison mark for each of its words (R75, R425). The most recently used line of the device stands first. -/
structure Line where
  core : Nat
  line : Nat
  entry : Nat
  gen : Nat
  holder : Party
  asid : Nat
  va : Nat
  na : Bool
  users : BitVec 64
  valid : BitVec 64
  dirty : BitVec 64
  full : BitVec 8
  poison : BitVec 8
  data : BitVec 512
deriving DecidableEq, Repr

/-- A line of an L1 instruction cache (R59). The most recently used line of the device stands first. -/
structure ILine where
  core : Nat
  line : Nat
  data : BitVec 512
deriving DecidableEq, Repr

/-! ## Quads and tiles -/

/-- A quad's registers (R464, R465, R469, R487); the core whose queue the WVU looks at first, and the cycle from which it may start another
VMMA (R178, R376); the cycle in which its clock last changed and how many cycles of its own it had had before (R9, R465). `aim`: the highest point requested at the last
request (R464). -/
structure Quad where
  mv : Nat := 0x0320
  deepdly : Nat := 0x0A
  gate : Nat := 0
  pt : Nat := 5
  aim : Nat := 5
  level : Nat := 0
  levelNew : Nat := 0
  blocked : Nat := 0
  eol : Bool := false
  gband : Nat := 0
  margin : Nat := 0
  drift : Nat := 0
  trip : BitVec 16 := 0x1A40
  temp : BitVec 16 := 0
  hit : Bool := false
  idleSince : Nat := 0
  wvuNext : Nat := 0
  mmaFree : Nat := 0
  clockAt : Nat := 0
  clockBase : Nat := 0
deriving DecidableEq, Repr

/-- A phase bank (R246): VALID, GEN and SW; the logical stencil that it was loaded from, byte by byte where not zero; and what its
holding-DAC codes were converted with (R247): the number of the calibration tables, the physical modes left out by the patching, the trim
correction of each column pair and the steps by which its codes have moved since (R268). `holdingCode` gives the code of every physical cell
from these. -/
structure Bank where
  valid : Bool := false
  gen : BitVec 32 := 0
  sw : BitVec 32 := 0
  stencil : List (Nat × Byte) := []
  calib : Nat := 0
  avoid : List Nat := []
  trims : List (Nat × Int × Int) := []
deriving DecidableEq, Repr

/-- A pass that the mesh runs (R255 to R263): the request; its part so far, this start counted in, the flags those of the vectors added;
SW and GEN of its bank; whether it is differential (its codes are then differences of a pair); the cycle of its first symbol and its
vectors per ten cycles (R273, R274); how many vectors it skipped; the index of the next vector to add and those to come, each an aligned
exponent, its 64 codes and the metadata flags that it raises; whether retirement cut it short, whether a halt stopped it. -/
structure MeshRun where
  req : MeshReq
  part : MeshPart
  sw : BitVec 32
  gen : BitVec 32
  half : Bool
  first : Nat
  rate : Nat
  skip : Nat
  next : Nat
  vectors : List (Int × List Int × Nat)
  cut : Bool
  halted : Bool
deriving DecidableEq, Repr

/-- The two sensors of a trim column (R268, R269): readings, excluded bits, whether the witness is undecided, when they were sampled;
the heater's power in thousandths of full scale, and for each sensor since when its reading has stood still and the power then; the
calibration temperature, and the phase error that the probes imply (R267). -/
structure Trim where
  ta : BitVec 16 := 0
  tb : BitVec 16 := 0
  excl : BitVec 2 := 0
  undecided : Bool := false
  sampledAt : Nat := 0
  heater : Nat := 0
  sinceA : Nat := 0
  sinceB : Nat := 0
  heatA : Nat := 0
  heatB : Nat := 0
  cal : BitVec 16 := 0
  phase : Int := 0
deriving DecidableEq, Repr

/-- A tile's mesh (R246 to R272). `accepted`: requests accepted while RECAL is set, in mesh order, a PLOAD with the stencil that it read
(R248); `avoid`: the physical modes that the patching leaves out; `probeK`: the next probe of the rotation (R267); `slow`: the requests that it
probes or clears for, with the cycles in which they complete (R384, R385); `failing`: its codes leave their bound, which nothing has noticed yet (R434). -/
structure Mesh where
  bank0 : Bank := {}
  bank1 : Bank := {}
  active : Nat := 0
  retired : Bool := false
  uncovered : Bool := false
  recal : Bool := false
  spares : Nat := 4
  single : Nat := 0
  diff : Nat := 0
  upSingle : Nat := 0
  upDiff : Nat := 0
  probes : Nat := 0
  maxSingle : Nat := 0
  maxDiff : Nat := 0
  doubled : Nat := 0
  ckcnt : Nat := 0
  sensesel : Nat := 0
  trims : List (Nat × Trim) := []
  running : List MeshRun := []
  load : Option (MeshReq × Nat) := none
  swap : Option MeshReq := none
  symbolsEnd : Nat := 0
  nextCore : Nat := 0
  accepted : List (MeshReq × List (Nat × Byte)) := []
  calib : Nat := 0
  avoid : List Nat := []
  probeK : Nat := 0
  slow : List (MeshReq × Nat) := []
  failing : Bool := false
deriving DecidableEq, Repr

/-- A tile: semaphores (R152), accumulator store and metadata (R65, R230, R262), mesh. The store has 4,096 physical rows and 128 spare rows
behind them; an element's key is physical row × 64 + column, and `rowMap` sends a logical row (tile × 64 + row) to its physical row where
that is not the row of the same number (R65); from cycle `accFree` on its port takes another ARD or AWR (R376). -/
structure Tile where
  rowMap : List (Nat × Nat) := []
  sems : List (Nat × Word) := []
  acc : List (Nat × BitVec 96) := []
  accPoison : List Nat := []
  accMeta : List (Nat × Word) := []
  accFree : Nat := 0
  mesh : Mesh := {}
deriving DecidableEq, Repr

/-! ## Engines -/

/-- A kick as captured (R390): the kick word, the 64-byte argument block, the ASID and party of the strand that kicked it, and the ASID that
the operation runs in. -/
structure Kick where
  word : Word
  block : List Word
  by_ : Nat × Party
  asid : Nat
  partition : Nat
deriving DecidableEq, Repr

/-- The work store of a stencil engine (R399); `poison`: it has taken in a poisoned word (R425). -/
structure Work where
  a : List (Nat × BitVec 32) := []
  u : List (Nat × BitVec 32) := []
  v : List (Nat × BitVec 32) := []
  sigma : List (Nat × BitVec 32) := []
  phases : List (Nat × BitVec 16) := []
  sign : Word := 0
  poison : Bool := false
  buffer : List (Nat × Byte) := []
  hash : BitVec 256 := 0
deriving DecidableEq, Repr

/-- An engine (R184, R398, R399): its queue of kicks; the operation in progress with how far it has come, the element of a gather's table
that it has read (R395), the words read behind `progress` and not written yet, each with its mark, the page whose walk it waits for (R39); what its End still has to do, with the addresses whose regions it still returns
(R397); its line buffers, its work store; the routines of its class that its microcode store does not hold (R392). The hart's registers are
those of its strand record. An operation whose End the TDU holds (R204) stands in the same form, `since` the cycle of its arrival there. -/
structure Engine where
  queue : List Kick := []
  op : Option Kick := none
  ending : Option (Nat × Nat) := none
  returns : List Word := []
  filled : Bool := false
  progress : Nat := 0
  elem : Option (Nat × Word) := none
  gathered : List (Word × Bool) := []
  walking : Option Nat := none
  since : Nat := 0
  absent : List Nat := []
  lost : Bool := false
  lbs : List (Nat × BitVec 512) := []
  work : Work := {}
  retired : Bool := false
deriving DecidableEq, Repr

/-! ## Regions -/

/-- A holder-table entry (R84); `thenLost`: it becomes LOST when its shares have returned (R106). -/
structure Entry where
  asid : Nat := 0
  base : Nat := 0
  len : Nat := 0
  holder : Party := 0
  shares : Nat := 0
  gen : BitVec 16 := 0
  lender : Party := 0
  transit : Bool := false
  state : Nat := 0
  thenLost : Bool := false
deriving DecidableEq, Repr

/-- A share record (R86). -/
structure Share where
  entry : Nat := 0
  count : Nat := 0
  party : Party := 0
deriving DecidableEq, Repr

/-- The path by which an actor reads memory (R73, R111). -/
inductive Path where
  | strand | stack | engine | mgmt | host | peer | tdu
deriving DecidableEq, Repr

/-- The party, ASID and privilege of an access (R81). -/
structure Actor where
  party : Party
  asid : Nat
  priv : Nat
  path : Path
  agent : Option Agent
deriving DecidableEq, Repr

/-- Who beside a strand waits for a transfer: a peer whose request came by this packet (R458), a slot of the host token port (R445). -/
inductive Via where
  | peer (p : Packet) | slot (n : Nat)
deriving DecidableEq, Repr

/-- How a party goes: it ends, it is killed, its unit fails, it is lost (R105, R106). -/
inductive Fate where
  | ends | killed | failed | lost
deriving DecidableEq, Repr

/-- The token operations that a strand sends (R94), with the operands captured at issue. -/
inductive TokenOp where
  | lend (b : Word) (give : Bool) | tret | share (b : Word) | unshr (n : Nat) | split (cut : Word) | merge (upper : Word) | tqry
deriving DecidableEq, Repr

/-- An operation on an entry that waits behind a transfer (R92): a strand's, with its destination and signal clause; that of a slot of
the host token port; a peer's, with its FABMAP word; a runtime command, with its writer and the context whose registers it names; the
return that an engine's End sends for an address (R393); the settlement of a killed strand, behind the operations that it has sent (R354). -/
inductive TokenWait where
  | strand (a : Agent) (x : Actor) (op : TokenOp) (va : Word) (dst : Option Nat) (sig : Option (BitVec 8 × BitVec 4))
  | slot (n : Nat) (w va : Word)
  | peer (p : Packet) (m : Word)
  | command (by_ ctx : Agent) (w : Word)
  | engine (e : Nat) (va : Word)
  | settle (asid : Nat) (p : Party) (fate : Fate)
deriving DecidableEq, Repr

/-- A transfer in progress on an entry (R98): what the entry becomes, and the strand that gets the token status word, with its ASID and
party and its signal clause; for a SEIZE, which frees every share record, the context whose STR.HTR gets it; how the receiver has gone
where it has gone meanwhile. -/
structure Transfer where
  holder : Party
  lender : Party
  state : Nat
  who : Option Agent
  dst : Option Nat
  sig : Option (BitVec 8 × BitVec 4)
  runtime : Option Agent
  via : Option Via
  whose : Nat × Party := (0, 0)
  gone : Option Fate := none
deriving DecidableEq, Repr

/-! ## Synchronisation, groups, dispatch -/

/-- A reserved word (R145): the taking agent, the value held before, the new value that its Fill brings, and whether its page has NA = 1. -/
structure Reservation where
  agent : Agent
  old : Word
  new : Word
  home : Nat
  va : Word
  na : Bool
deriving DecidableEq, Repr

/-- An armed monitor at a home (R148): the strand, its slot and the 64-byte line, and the home. -/
structure Monitor where
  agent : Agent
  slot : Nat
  line : Nat
  home : Nat
deriving DecidableEq, Repr

/-- A member of a group, by its party (R154 to R156): whether it arrived in the current phase, is required by it, holds an arrival for the
next. -/
structure Member where
  party : Party
  arrived : Bool
  required : Bool
  held : Bool
  dst : Option Nat
  heldDst : Option Nat
deriving DecidableEq, Repr

/-- A group (R154). -/
structure Group where
  phase : BitVec 16
  members : List Member
  gone : Nat
deriving DecidableEq, Repr

/-- A binding (R157). -/
structure Binding where
  va : Word
  asid : Nat
  launch : Word
  once : Bool
  priv : Nat
deriving DecidableEq, Repr

/-- A committed spawn (R194): the record's VA, the value for g0, the ASID, the privilege that R187 checks, the bound word to empty
at placement with its VA, how often it was passed over, and the cycle of its commit. -/
structure Spawn where
  va : Word
  value : Word
  asid : Nat
  priv : Nat
  bound : Option Nat
  passed : Nat
  at_ : Word := 0
  since : Nat := 0
deriving DecidableEq, Repr

/-- A partition's live state in shadow storage (R206): strand contexts, core state, semaphores, copy-engine state; and the operations whose
End the TDU holds (R204), oldest first. -/
structure Shadow where
  strands : List (Nat × Strand) := []
  cores : List (Nat × Core) := []
  sems : List (Nat × List (Nat × Word)) := []
  engines : List (Nat × Engine) := []
  ends : List Engine := []
deriving DecidableEq, Repr

/-- A TDU command that is being carried out or waits (R191). -/
structure TduCmd where
  by_ : Agent
  cmd : Word
deriving DecidableEq, Repr

/-- The TDU (R190 to R199). -/
structure Tdu where
  parts : List (Nat × Word) := []
  stat : Word := 0
  arg : Word := 0
  boost : Word := 0x61A8
  spawns : List Spawn := []
  bindings : List (Nat × Binding) := []
  boundFull : List (Nat × Option Spawn) := []
  ids : List (Nat × (Nat × Nat)) := []
  groups : List (Nat × Group) := []
  shadows : List (Nat × Shadow) := []
  commands : List TduCmd := []
deriving DecidableEq, Repr

/-! ## Translation -/

/-- A cached pointer entry or ASID-table entry (R32): level 3 to 0 of the table it points to; for an ASID-table entry, level 4. -/
structure WalkEntry where
  asid : Nat
  level : Nat
  vtag : Nat
  entry : Word
deriving DecidableEq, Repr

/-- How far a walk has come (R34): it waits for an entry of its tile's miss table, for a walker, or is walked. -/
inductive WalkStage where
  | atTile | queued | walking
deriving DecidableEq, Repr

/-- A walk for the misses of a structure in an ASID on a 64 KiB page; they share it (R34). -/
structure Walk where
  unit : Nat
  asid : Nat
  vpage : Nat
  stage : WalkStage
deriving DecidableEq, Repr

/-! ## Device registers and the outside -/

/-- A port (R449): CFG, STAT, ERR as fields; the far end's chip and lending, as the last training told them (R450, R491). `lendWait`: the ports that must still train
before a change of LENDTO or LENDN is in force (R450). -/
structure Port where
  cfg : Word := 0x0FF
  state : Nat := 0
  locked : BitVec 10 := 0
  eyeok : BitVec 10 := 0
  active : BitVec 10 := 0
  lentOut : Nat := 0
  lendWait : List Nat := []
  farLending : Nat := 0
  droptv : Nat := 0
  droptype : Nat := 0
  replay : Nat := 0
  neighbour : Nat := 0
  step : Nat := 0
  due : Nat := 0
deriving DecidableEq, Repr

/-- A packet or a kick's fabric operation that waits for acknowledgement (R456), with the ASID and party of the strand that it was queued
for. -/
structure Unacked where
  packet : Packet
  firstSent : Nat
  lastSent : Nat
  by_ : Option (Nat × Party)
  engine : Option Nat
deriving DecidableEq, Repr

/-- The fabric's state (R453 to R460). `writing`: WRITE packets that are being performed, with the number of the next word; `backlog`: packets that 256 unacknowledged ones keep back (R456); `naks`: negative
acknowledgements of failed checks, counted (R90). -/
structure Fabric where
  chipid : BitVec 12 := 0
  tv : Nat := 0
  tvprev : Nat := 0
  switchedAt : Nat := 0
  accepting : Bool := false
  rtsel : Word := 0
  routes : List (Nat × BitVec 7) := []
  shadow : List (Nat × BitVec 7) := []
  fabdrop : Nat := 0
  fabmap : List (Nat × Word) := []
  ports : List (Nat × Port) := []
  unacked : List Unacked := []
  backlog : List Unacked := []
  nextSeq : List (Nat × Nat) := []
  expect : List (Nat × Nat) := []
  lostPeers : List Nat := []
  sent : List (Nat × Packet) := []
  sentMsgs : List (Nat × List Word) := []
  msgs : List (Nat × List Word) := []
  migrating : List (Nat × Agent) := []
  incoming : List (Nat × List Word) := []
  writing : List (Packet × Nat) := []
  naks : Nat := 0
deriving DecidableEq, Repr

/-- A slot of the host token port (R445). -/
structure TokenSlot where
  va : Word := 0
  result : Word := 0
  done : Bool := true
deriving DecidableEq, Repr

/-- An answer to a request from outside: the bytes of a read with the poison indication, a completion, a token word, a message. -/
inductive Answer where
  | line (off : Nat) (data : BitVec 512) (poison : Bool)
  | done (off : Nat)
  | mediaEvent (off : Nat)
  | word (off : Nat) (w : Word)
  | digest (index : Nat) (d : BitVec 256)
  | spdm (code : Nat) (ws : List Word)
  | file (ws : List Word)
deriving DecidableEq, Repr

/-- A host write that waits as a Fill (R147); whether its page has NA = 1. -/
structure HostFill where
  id : Nat
  loc : Nat
  na : Bool
  va : Word
  asid : Nat
  v : Word
  due : Nat
  off : Nat
  src : Option Nat
deriving DecidableEq, Repr

/-- What waits at the host attachment: a memory request (operation 0 read, 1 whole line, 2 partial write; its BAR4 requester, none for
CXL.mem) on a region in transit or behind one of the same requester, a P2PFLUSH read. -/
inductive HostReq where
  | mem (id op off : Nat) (data : BitVec 512) (mask : BitVec 64) (src : Option Nat)
  | flush (id : Nat)
deriving DecidableEq, Repr

/-- The host attachment (R48, R443 to R447): windows as written and as in force, token port, answers given. -/
structure HostSide where
  winVa : List (Nat × Word) := []
  winCfg : List (Nat × Word) := []
  liveVa : List (Nat × Word) := []
  liveCfg : List (Nat × Word) := []
  p2pcfg : Word := 0
  slots : List (Nat × TokenSlot) := []
  fills : List HostFill := []
  held : List HostReq := []
  nextId : Nat := 0
  answers : List Answer := []
  lost : Bool := false
deriving DecidableEq, Repr

/-- Faults and repair (R422 to R441): the log's registers and queue, FSTAT, the dump, erasure lists, spares, watchdog. `faultAt`: `time` at the
last fault's detection (R441); `bankRepairs`: rank and position, with the stack, of the banks that the next re-initialisation remaps (R436); `wrapped`: HEAD has
passed 2^32 (R422). `failed` gives 2 for a core that is out of use until the next re-initialisation, 1 for another unit that goes then. -/
structure FaultSide where
  flogbase : Word := 0
  head : Nat := 0
  tail : Nat := 0
  lost : Nat := 0
  note : Word := 0
  queue : List (List Word) := []
  fstate : Nat := 2
  cause : Nat := 0
  epoch : BitVec 16 := 0
  faultAt : Nat := 0
  dumpok : Bool := false
  dump : List (Nat × Byte) := []
  pairctl : Word := 0
  tvecdef : Word := 0
  erasures : List (Nat × List Nat) := []
  bankRepairs : List ((Nat × Nat) × Nat) := []
  spares : List (Nat × Nat) := []
  failed : List (Nat × Nat) := []
  mgmtCores : Nat := 2
  mgmtRunning : Bool := true
  failoverLost : Nat := 0
  corrected : List (Nat × (Nat × Nat)) := []
  scrubbed : List (Nat × List (Nat × Nat × Nat)) := []
  faults : Nat := 0
  kills : Nat := 0
  wrapped : Bool := false
deriving DecidableEq, Repr

/-- The module (R471 to R473). `imageNext`: an image delivered for the next re-initialisation, with the digest of the key that its signature
verifies under and its security version; `fuses`: the anti-rollback counter, as fuses blown. -/
structure Module where
  cap : Nat := 1600
  alert : Bool := false
  lit : List Nat := [0, 1, 2, 3, 4, 5, 6, 7]
  bays : List Nat := [0, 1, 2, 3, 4, 5, 6, 7, 8]
  certSeq : Nat := 0
  cert : List Word := []
  image : Nat := 0
  imageNext : Option (Nat × BitVec 256 × Nat) := none
  version : Nat := 0
  fuses : Nat := 0
  hours : Nat := 0
deriving DecidableEq, Repr

/-- The capacity registers (R3, R68), DEV.MEMSPLIT (R25), DEV.ASIDTAB (R31) as written and as walks use it, and firmware's map of logical
to physical LLC slices (R67). -/
structure Caps where
  sliceMap : List (Nat × Nat) := []
  tilemask : Word := 0
  llc : Word := 0x0C0000
  core : Word := 0
  stack : Word := 0
  engine : Word := 0
  memsplit : Word := 0
  asidtab : Word := 0
  asidtabLive : Word := 0
deriving DecidableEq, Repr

/-- The machine. `feb` and `poison`: the words below the LLC whose full/empty bit is not that of reset, and those with a poison mark; `llcBits`: the
bit and the mark of each DRAM word that the LLC holds newer (R75, R425). -/
structure State where
  cycle : Nat := 0
  unit : Nat := 0
  cur : Agent := ⟨.mgmt, 0, 0⟩
  sched : List (Nat × Instr) := []
  inputs : List Input := []
  freeCount : Nat := 0
  caps : Caps := {}
  mem : Memory := []
  llc : List (Nat × Byte) := []
  feb : List Nat := []
  poison : List Nat := []
  llcBits : List (Nat × (Bool × Bool)) := []
  l1 : List Line := []
  icache : List ILine := []
  tlbs : List Tlb := []
  walkCache : List WalkEntry := []
  walks : List Walk := []
  holders : List (Nat × List Nat) := []
  invalidations : List (Agent × Word) := []
  icInvs : List (Agent × Word) := []
  htCmds : List (Agent × Agent × Word) := []
  strands : List (Nat × Strand) := []
  cores : List (Nat × Core) := []
  quads : List (Nat × Quad) := []
  tiles : List (Nat × Tile) := []
  engines : List (Nat × Engine) := []
  entries : List (Nat × Entry) := []
  shares : List (Nat × Share) := []
  transfers : List (Nat × Transfer) := []
  tokenQueue : List (List Nat × TokenWait) := []
  waiters : List SyncReq := []
  overflow : List SyncReq := []
  reserved : List (Nat × Reservation) := []
  monitors : List Monitor := []
  tdu : Tdu := {}
  fabric : Fabric := {}
  host : HostSide := {}
  faults : FaultSide := {}
  board : Module := {}
deriving DecidableEq, Repr

/-- The machine right after the reset of R12: the spec's reset values, memory with nothing listed, FSTAT.STATE REINIT (R430), no
strand placed. Values that the spec does not give are those of log entry 1. -/
def State.reset : State := {}

/-! ## Stops -/

/-- Faults: the model has none. Every instruction and event of the spec has an effect, a status or a trap; no access to a missing
address stops the machine (it takes the trap that R37 or R331 names). The type has one constructor so that it can be written down. -/
inductive Fault where
  /-- Never raised: kept so that the type is not empty. Safe. -/
  | stuck
deriving DecidableEq, Repr

/-- Refusals. -/
inductive Refusal where
  /-- An instruction that has no meaning yet; raised by its arm of exec only. Safe: nothing is said about the instruction. -/
  | notModelled (mnemonic : String)
deriving DecidableEq, Repr

end Sys2Proof.Machine
end

