-- ==== Sys2Proof/Machine/Mem.lean ====
section
/-! DEFINITION. Agents and their records, registers, and the storage levels: home memory under the LLC, full/empty bits, poison,
monitors, L1 data caches (spec/02, spec/04 R111). -/

namespace Sys2Proof.Machine

/-! ## Agents and records -/

/-- The key of a context's record. -/
def strandKey (a : Agent) : Nat :=
  match a.kind with
  | .compute => a.unit * 64 + a.ctx
  | .stack => 20000 + a.unit * 16 + a.ctx
  | .engine => 30000 + a.unit
  | .mgmt => 40000 + a.ctx

/-- The agent that a record's key belongs to. -/
def agentOfKey (k : Nat) : Agent :=
  if k < 20000 then ⟨.compute, k / 64, k % 64⟩
  else if k < 30000 then ⟨.stack, (k - 20000) / 16, (k - 20000) % 16⟩
  else if k < 40000 then ⟨.engine, k - 30000, 0⟩
  else ⟨.mgmt, 0, k - 40000⟩

/-- The key of the core that runs an agent. -/
def coreKey (a : Agent) : Nat :=
  match a.kind with
  | .compute => a.unit
  | .stack => 1000 + a.unit
  | .engine => 3000 + a.unit
  | .mgmt => 2000

/-- The record of a context. -/
def strandOf (s : State) (a : Agent) : Strand := mget {} s.strands (strandKey a)

/-- The state with a context's record. -/
def putStrand (s : State) (a : Agent) (r : Strand) : State := { s with strands := mset s.strands (strandKey a) r }

/-- The state with a context's record changed. -/
def modStrand (s : State) (a : Agent) (f : Strand → Strand) : State := putStrand s a (f (strandOf s a))

/-- The record of the executing agent. -/
def me (s : State) : Strand := strandOf s s.cur

/-- The record of a core. -/
def coreOf (s : State) (c : Nat) : Core := mget {} s.cores c

/-- The state with a core's record changed. -/
def modCore (s : State) (c : Nat) (f : Core → Core) : State := { s with cores := mset s.cores c (f (coreOf s c)) }

/-- The record of a quad. -/
def quadOf (s : State) (q : Nat) : Quad := mget {} s.quads q

/-- The state with a quad's record changed. -/
def modQuad (s : State) (q : Nat) (f : Quad → Quad) : State := { s with quads := mset s.quads q (f (quadOf s q)) }

/-- The record of a tile. -/
def tileOf (s : State) (t : Nat) : Tile := mget {} s.tiles t

/-- The state with a tile's record changed. -/
def modTile (s : State) (t : Nat) (f : Tile → Tile) : State := { s with tiles := mset s.tiles t (f (tileOf s t)) }

/-- The key of the physical element that holds element k of the accumulators, in logical row-major order (R65). -/
def accAt (x : Tile) (k : Nat) : Nat := mget (k / 64) x.rowMap (k / 64) * 64 + k % 64

/-- Element k of a tile's accumulators, through the row map (R65). -/
def accRaw (s : State) (t k : Nat) : BitVec 96 := mget 0 (tileOf s t).acc (accAt (tileOf s t) k)

/-- A tile with element k of its accumulators set. -/
def Tile.putAcc (x : Tile) (k : Nat) (v : BitVec 96) : Tile := { x with acc := mput 0 x.acc (accAt x k) v }

/-- A tile with a logical row of its accumulators zero and without marks. -/
def Tile.clearRow (x : Tile) (row : Nat) : Tile :=
  let b := accAt x (row * 64)
  { x with acc := mclear x.acc b (b + 64), accPoison := sclear x.accPoison b (b + 64) }

/-- Whether element k of a tile's accumulators carries a poison mark (R425). -/
def accMarked (s : State) (t k : Nat) : Bool := shas (tileOf s t).accPoison (accAt (tileOf s t) k)

/-- The state with a tile's mesh changed. -/
def modMesh (s : State) (t : Nat) (f : Mesh → Mesh) : State := modTile s t fun x => { x with mesh := f x.mesh }

/-- The record of an engine. -/
def engineOf (s : State) (e : Nat) : Engine := mget {} s.engines e

/-- The state with an engine's record changed. -/
def modEngine (s : State) (e : Nat) (f : Engine → Engine) : State := { s with engines := mset s.engines e (f (engineOf s e)) }

/-- The physical tile of an agent, where it has one: compute agents and the engines of a tile. -/
def tileOfAgent (a : Agent) : Option Nat :=
  match a.kind with
  | .compute => some (a.unit / 8)
  | .engine => if a.unit < 90 then some (a.unit / 5) else none
  | _ => none

/-- The quad (tile × 2 + quad) of an agent: a compute agent's own; a copy engine's own; quad 0 of its tile for the stencil engine,
whose own-quad scratchpad the spec does not name (log entry 5). -/
def quadOfAgent (a : Agent) : Option Nat :=
  match a.kind with
  | .compute => some (a.unit / 4)
  | .engine => if a.unit < 90 then some (a.unit / 5 * 2 + (if a.unit % 5 = 2 ∨ a.unit % 5 = 3 then 1 else 0)) else none
  | _ => none

/-! ## Clocks (R9, R464) -/

/-- The clock of an agent in twenty-fifths of 2.5 GHz. -/
def clockOf (s : State) (a : Agent) : Nat :=
  match a.kind with
  | .compute => match (quadOf s (a.unit / 4)).pt with | 1 => 8 | 2 => 12 | 3 => 16 | 4 => 20 | _ => 25
  | .stack => 16
  | .engine => 25
  | .mgmt => 12

/-- Whether a clock of f twenty-fifths has a cycle at cycle n. -/
def ticks (f n : Nat) : Bool := decide (n * f % 25 < f)

/-- Cycles that such a clock has had before cycle n. -/
def tickIndex (f n : Nat) : Nat := (n * f + 25 - f) / 25

/-- The number, from reset on, of an agent's own cycle at the current cycle: a quad's counts go on through its point changes (R9, R465). -/
def ownIndex (s : State) (a : Agent) : Nat :=
  match a.kind with
  | .compute =>
    let q := quadOf s (a.unit / 4)
    q.clockBase + (tickIndex (clockOf s a) s.cycle - tickIndex (clockOf s a) q.clockAt)
  | _ => tickIndex (clockOf s a) s.cycle

/-- The device cycles that d of an agent's own cycles take (R9, R307). -/
def ownCycles (s : State) (a : Agent) (d : Nat) : Nat := (d * 25 + clockOf s a - 1) / clockOf s a

/-- A value that nothing constrains, and the state with the counter advanced (log entry 3). -/
def fresh (s : State) : Word × State := (Config.freeWord s.freeCount, { s with freeCount := s.freeCount + 1 })

/-- The event is placed d cycles from now, behind those of the same cycle. -/
def insertEvent : List (Nat × Instr) → Nat → Instr → List (Nat × Instr)
  | [], c, i => [(c, i)]
  | (c', j) :: r, c, i => if c < c' then (c, i) :: (c', j) :: r else (c', j) :: insertEvent r c i

/-- Schedules an event d cycles from now. -/
def post (s : State) (d : Nat) (i : Instr) : State := { s with sched := insertEvent s.sched (s.cycle + d) i }

/-- A wake event for a compute agent's quad where it spills or is deep-gated (R468). -/
def rouse (s : State) (a : Agent) : State :=
  if a.kind = .compute ∧ ((quadOf s (a.unit / 4)).gate = 1 ∨ (quadOf s (a.unit / 4)).gate = 2) then post s 0 (.wakeEvent (a.unit / 4)) else s

/-! ## Registers (R53, R54) -/

/-- The value of a register. -/
def Strand.reg (r : Strand) (n : Nat) : Word := mget 0 r.regs n

/-- Whether a register is empty. -/
def Strand.isEmpty (r : Strand) (n : Nat) : Bool := shas r.empties n

/-- A write: the register holds the value and is full. -/
def Strand.setReg (r : Strand) (n : Nat) (v : Word) : Strand := { r with regs := mput 0 r.regs n v, empties := sdel r.empties n }

/-- The register is marked empty; it keeps its value (R165). -/
def Strand.markEmpty (r : Strand) (n : Nat) : Strand := { r with empties := sadd r.empties n }

/-- The register is full again with the value that it held. -/
def Strand.refill (r : Strand) (n : Nat) : Strand := { r with empties := sdel r.empties n }

/-- The number under which stack-vector register n stands among a strand's empty registers (R402). -/
def svMark (n : Nat) : Nat := 256 + n

/-- Registers of the partition: STR.PART.SIZE, or the 32 of a hart and of a management strand (R182). -/
def partSize (a : Agent) (r : Strand) : Nat :=
  match a.kind with
  | .engine | .mgmt => 32
  | _ => fld r.str.part 7 0

/-- The privilege: 0 U, 1 S, 2 F (R182, R283). -/
def privOf (a : Agent) (r : Strand) : Nat :=
  match a.kind with
  | .engine => 1
  | .mgmt => 2
  | _ => fld r.str.sched 9 8

/-! ## Home memory (R76, R111): HBM and the side memories, with the LLC's dirty bytes over HBM -/

/-- What an unlisted address reads as: zero (R76; log entry 2). -/
def memDefault : Byte := 0

/-- A byte at its place below the LLC. -/
def hbmByte (s : State) (l : Nat) : Byte := mget memDefault s.mem l

/-- Writes a byte below the LLC. -/
def putHbm (s : State) (l : Nat) (b : Byte) : State := { s with mem := mput memDefault s.mem l b }

/-- First location of the management core's 2 MiB SRAM (R52, R185): where it lies is the model's (log entry 7). -/
def sramBase : Nat := 2 ^ 49

/-- Whether a location is one of that SRAM. -/
def isSram (l : Nat) : Bool := decide (sramBase ≤ l) && decide (l < sramBase + 2 ^ 21)

/-- Whether a location is one of DRAM: cached by the LLC. -/
def isDram (l : Nat) : Bool := decide (l < 2 ^ 51) && !isSram l

/-- A byte as its home reads it: the LLC's copy where it has a dirty one. -/
def homeByte (s : State) (l : Nat) : Byte := if isDram l then (mfind s.llc l).getD (hbmByte s l) else hbmByte s l

/-- Writes a byte at its home. -/
def putHome (s : State) (l : Nat) (b : Byte) : State := if isDram l then { s with llc := mset s.llc l b } else putHbm s l b

/-- Writes a byte of a page with NA = 1 at its home: it goes through to HBM (R70). -/
def putThrough (s : State) (l : Nat) (b : Byte) : State := putHbm { s with llc := mdel s.llc l } l b

/-- Writes a byte at its home, through to HBM where its page has NA = 1. -/
def putBy (na : Bool) (s : State) (l : Nat) (b : Byte) : State := if na then putThrough s l b else putHome s l b

/-- The n bytes at a location, by a byte reader. -/
def bytesBy (f : Nat → Byte) (l n : Nat) : List Byte := (List.range n).map fun i => f (l + i)

/-- Writes bytes by a byte writer. -/
def writeBy (f : State → Nat → Byte → State) : State → Nat → List Byte → State
  | s, _, [] => s
  | s, l, b :: bs => writeBy f (f s l b) (l + 1) bs

/-- The 64-bit word at its home (Mem64 of R14). -/
def homeWord (s : State) (l : Nat) : Word := word (leNat (bytesBy (homeByte s) l 8))

/-- The 64-bit word below the LLC. -/
def hbmWord (s : State) (l : Nat) : Word := word (leNat (bytesBy (hbmByte s) l 8))

/-- The bytes of a word. -/
def wordBytes (w : Word) : List Byte := leBytes 8 w.toNat

/-- Location of a scratchpad byte of a quad. -/
def scratchLoc (q o : Nat) : Nat := 2 ^ 52 + q * 2 ^ 23 + o

/-- Location of a stack-scratch byte. -/
def stackLoc (k o : Nat) : Nat := 2 ^ 53 + k * 2 ^ 18 + o

/-- Location of a mailbox byte. -/
def mailLoc (t o : Nat) : Nat := 2 ^ 54 + t * 2 ^ 16 + o

/-! ## Full/empty bits and poison (R75, R76, R136, R425), kept for each word's location -/

/-- Whether a word is full after reset: every word but those of the mailboxes. -/
def resetFull (l : Nat) : Bool := decide (l < 2 ^ 54)

/-- The full/empty bit and the poison mark of a word below the LLC. -/
def hbmBits (s : State) (l : Nat) : Bool × Bool := (resetFull l != shas s.feb l, shas s.poison l)

/-- The two below the LLC are written. -/
def putHbmBits (s : State) (l : Nat) (b : Bool × Bool) : State :=
  { s with feb := sput s.feb l (resetFull l != b.1), poison := sput s.poison l b.2 }

/-- The two as the word's home reads them: the LLC's where it holds newer ones. -/
def homeBits (s : State) (l : Nat) : Bool × Bool := (mfind s.llcBits l).getD (hbmBits s l)

/-- The two are written at the word's home: of a DRAM word in the LLC, which loses them with the data that it holds (R75, R430). -/
def putHomeBits (s : State) (l : Nat) (b : Bool × Bool) : State :=
  if isDram l then { s with llcBits := mset s.llcBits l b } else putHbmBits { s with llcBits := mdel s.llcBits l } l b

/-- Of a page with NA = 1 they go through to HBM with the data (R70). -/
def putBitsBy (na : Bool) (s : State) (l : Nat) (b : Bool × Bool) : State :=
  if na then putHbmBits { s with llcBits := mdel s.llcBits l } l b else putHomeBits s l b

/-- The full/empty bit. -/
def isFull (s : State) (l : Nat) : Bool := (homeBits s l).1

/-- Whether a word is poisoned. -/
def isPoison (s : State) (l : Nat) : Bool := (homeBits s l).2

/-- Sets the full/empty bit; of a page with NA = 1 through to HBM. -/
def setFull (s : State) (l : Nat) (b : Bool) (na : Bool := false) : State := putBitsBy na s l (b, isPoison s l)

/-- Sets the poison mark. -/
def setPoison (s : State) (l : Nat) (b : Bool) (na : Bool := false) : State := putBitsBy na s l (isFull s l, b)

/-- A flush of a range of DRAM (R71): dirty LLC bytes go to HBM, with the bits of their words (R75). The clean copy that WB keeps equals
HBM, so both flushes leave the same values. -/
def flushRange (s : State) (lo hi : Nat) : State :=
  let s' := (s.llcBits.filter fun e => decide (lo ≤ e.1) && decide (e.1 < hi)).foldl (fun s e => putHbmBits s e.1 e.2) s
  { s' with
    mem := (s.llc.filter fun e => decide (lo ≤ e.1) && decide (e.1 < hi)).foldl (fun m e => mput memDefault m e.1 e.2) s.mem
    llc := mclear s.llc lo hi
    llcBits := mclear s.llcBits lo hi }

/-- The locations of the words that n bytes at l touch. -/
def wordsOf (l n : Nat) : List Nat := (List.range ((l % 8 + n + 7) / 8)).map fun i => (l / 8 + i) * 8

/-- What a store does to the bits of the words it touches, as a reader and a writer of them give them: full (R76); a whole word loses its
poison mark (R425). -/
def storeBits (get : State → Nat → Bool × Bool) (put : State → Nat → Bool × Bool → State) (s : State) (l n : Nat) : State :=
  (wordsOf l n).foldl (fun s w => put s w (true, (get s w).2 && !(decide (l ≤ w) && decide (w + 8 ≤ l + n)))) s

/-! ## Monitors (R148, R149) -/

/-- The monitor register of a slot. -/
def StrRegs.mon (r : StrRegs) (n : Nat) : Word :=
  match n with | 0 => r.mon0 | 1 => r.mon1 | 2 => r.mon2 | _ => r.mon3

/-- The registers with a monitor slot changed. -/
def StrRegs.setMon (r : StrRegs) (n : Nat) (w : Word) : StrRegs :=
  match n with
  | 0 => { r with mon0 := w } | 1 => { r with mon1 := w } | 2 => { r with mon2 := w } | _ => { r with mon3 := w }

/-- A slot disarmed: ARMED and HIT are cleared (R149). -/
def StrRegs.disarm (r : StrRegs) (n : Nat) : StrRegs := r.setMon n (setFld (r.mon n) 63 62 0)

/-- A write at the home of a line sets HIT in every slot armed for it, a wake event for the strand's quad (R468). -/
def hitLine (s : State) (l : Nat) : State :=
  s.monitors.foldl (fun s m => if m.line = l / 64 then
    rouse (modStrand s m.agent fun r => { r with str := r.str.setMon m.slot (r.str.mon m.slot ||| word (2 ^ 62)) }) m.agent else s) s

/-- Every line of a range is written at its home. -/
def hitRange (s : State) (l n : Nat) : State := (List.range ((l % 64 + n + 63) / 64)).foldl (fun s i => hitLine s ((l / 64 + i) * 64)) s

/-! ## Homes and slices (R67, R135) -/

/-- L of R67. -/
def sliceCount (s : State) : Nat := fld s.caps.llc 7 0

/-- The home slice of a physical address. -/
def sliceOf (s : State) (pa : Nat) : Nat :=
  let x := pa / 64
  let h := bitsOf x 15 0 ^^^ bitsOf x 31 16 ^^^ bitsOf x 45 32
  h * sliceCount s / 65536

/-- The set of a line within its slice (R67). -/
def llcSet (pa : Nat) : Nat := bitsOf (pa / 64) 10 0 ^^^ bitsOf (pa / 64) 21 11

/-- The physical slice of a logical one, by firmware's map: where the map names none, the slice of the same place on its die (R67). -/
def physicalSlice (s : State) (n : Nat) : Nat :=
  (mfind s.caps.sliceMap n).getD (if n < fld s.caps.llc 31 24 then n else n - fld s.caps.llc 31 24 + 100)

/-- The home of a word: slice n for n below 1000, the banks of quad q as 1000 + q, the mailbox SRAM of tile t as 2000 + t. -/
def homeOf (s : State) (l : Nat) : Nat :=
  if l < 2 ^ 52 then sliceOf s l
  else if l < 2 ^ 53 then 1000 + (l - 2 ^ 52) / 2 ^ 23
  else 2000 + (l - 2 ^ 54) / 2 ^ 16

/-- Sets the touched-slice bit of the slice of a physical address for a compute strand (R69). -/
def touchSlice (s : State) (a : Agent) (pa : Nat) : State :=
  if a.kind = .compute then
    let n := sliceOf s pa
    modStrand s a fun r =>
      { r with str :=
        if n < 64 then { r.str with tsm0 := r.str.tsm0 ||| word (2 ^ n) }
        else if n < 128 then { r.str with tsm1 := r.str.tsm1 ||| word (2 ^ (n - 64)) }
        else { r.str with tsm2 := r.str.tsm2 ||| word (2 ^ (n - 128)) } }
  else s

/-- The slices whose bits are set. -/
def touchedSlices (r : StrRegs) : List Nat :=
  positions 64 (fun i => bit r.tsm0 i) ++ (positions 64 (fun i => bit r.tsm1 i)).map (· + 64)
    ++ (positions 64 (fun i => bit r.tsm2 i)).map (· + 128)

/-- Whether a slice lies on the compute die of a unit's tile (R67). -/
def sameDie (s : State) (a : Agent) (slice : Nat) : Bool :=
  match tileOfAgent a with
  | some t => decide (t < 9) == decide (slice < fld s.caps.llc 31 24)
  | none => true

/-- The device cycles of an L1 sweep of the lines that satisfy a test (R58): 128 cycles of the core where one of them is dirty (R9). -/
def sweepTime (s : State) (p : Line → Bool) : Nat :=
  ((s.l1.filter fun x => p x && x.dirty != 0).map fun x => ownCycles s ⟨.compute, x.core, 0⟩ Config.lat.sweep).foldl max 0

/-- The latency of a hit at the home slice of an address (R77). -/
def llcLatency (s : State) (a : Agent) (pa : Nat) : Nat :=
  if sameDie s a (sliceOf s pa) then Config.lat.llcNear else Config.lat.llcFar

/-! ## Writes at a home -/

/-- Bytes written at their home: values, full bits and poison, monitors. -/
def homeStore (s : State) (l : Nat) (bs : List Byte) : State :=
  hitRange (storeBits homeBits putHomeBits (writeBy putHome s l bs) l bs.length) l bs.length

/-- Bytes written at their home, through to HBM where their page has NA = 1 (R70). -/
def storeAt (na : Bool) (s : State) (l : Nat) (bs : List Byte) : State :=
  hitRange (storeBits homeBits (putBitsBy na) (writeBy (putBy na) s l bs) l bs.length) l bs.length

/-- Bytes written at HBM, below the LLC. -/
def hbmStore (s : State) (l : Nat) (bs : List Byte) : State := storeBits hbmBits putHbmBits (writeBy putHbm s l bs) l bs.length

/-! ## The L1 data cache (R55 to R58) -/

/-- Byte i of a line. -/
def lineByte (d : BitVec 512) (i : Nat) : Byte := BitVec.ofNat 8 (d.toNat / 2 ^ (8 * i))

/-- A line with byte i replaced. -/
def lineSet (d : BitVec 512) (i : Nat) (b : Byte) : BitVec 512 :=
  BitVec.ofNat 512 (d.toNat - d.toNat / 2 ^ (8 * i) % 256 * 2 ^ (8 * i) + b.toNat * 2 ^ (8 * i))

/-- The strand of a core that has a party id in an ASID, if one is resident. -/
def residentOf (s : State) (core asid : Nat) (p : Party) : Option Agent :=
  ((List.range 64).map fun c => Agent.mk .compute core c).find? fun a =>
    (strandOf s a).party == p && decide ((strandOf s a).str.asid.toNat = asid) && (strandOf s a).run != .free

/-- The bits of word w of a line: those among a mask of the line's bytes. -/
def wordMask (m : BitVec 64) (w : Nat) : Nat := m.toNat / 2 ^ (8 * w) % 256

/-- The full bit and the poison mark of word w of a line move to the home with its dirty bytes; bytes of a word that is not wholly dirty
leave the mark at the home as it is (R75, R425). -/
def wordBits (s : State) (ln : Line) (w : Nat) : State :=
  if wordMask ln.dirty w = 0 then s
  else
    let l := ln.line * 64 + 8 * w
    putBitsBy ln.na s l (ln.full.getLsbD w, if wordMask ln.dirty w = 255 then ln.poison.getLsbD w else isPoison s l)

/-- The dirty bytes of a line go to their home slice, with the bits of their words; the bit of that slice is set for the recorded
holder (R57). -/
def writeBack (s : State) (ln : Line) : State :=
  if ln.dirty = 0 then s
  else
    let s := (positions 64 fun i => ln.dirty.getLsbD i).foldl (fun s i => putBy ln.na s (ln.line * 64 + i) (lineByte ln.data i)) s
    let s := hitLine ((List.range 8).foldl (fun s w => wordBits s ln w) s) (ln.line * 64)
    match residentOf s ln.core ln.asid ln.holder with
    | some a => touchSlice s a (ln.line * 64)
    | none => s

/-- Writes back and invalidates the lines that satisfy a test. -/
def sweepLines (s : State) (p : Line → Bool) : State :=
  let s' := (s.l1.filter p).reverse.foldl writeBack s
  { s' with l1 := s.l1.filter fun x => !p x }

/-- Writes back the lines that satisfy a test; they stay valid and become clean (R58). -/
def cleanLines (s : State) (p : Line → Bool) : State :=
  let s' := (s.l1.filter p).reverse.foldl writeBack s
  { s' with l1 := s.l1.map fun x => if p x then { x with dirty := 0 } else x }

/-- Makes room for a line in its set: with eight lines there, the one used longest ago goes (R52, R57; log entry 6). -/
def evictFor (s : State) (core line : Nat) : State :=
  let same := s.l1.filter fun x => x.core = core ∧ x.line % 128 = line % 128
  if same.length < 8 then s
  else match same.getLast? with
    | some v => sweepLines s (fun x => x == v)
    | none => s

/-- The line for an access under an entry and generation, or none: a line recorded otherwise is written back and dropped (R56, R89). -/
def lookupLine (s : State) (core line key gen : Nat) : Option Line × State :=
  match s.l1.find? fun x => x.core = core ∧ x.line = line with
  | none => (none, s)
  | some x =>
    if x.entry = key ∧ x.gen = gen then (some x, s)
    else (none, sweepLines s fun y => y.core = core ∧ y.line = line)

/-- Puts a line first in the order of use. -/
def putLine (s : State) (x : Line) : State :=
  { s with l1 := x :: s.l1.filter fun y => !(y.core = x.core ∧ y.line = x.line) }

/-- What an access records in the line that it fills: the holder-table key, generation and holder of its region, its ASID, the VA of
the line's first byte, NA of its page. -/
structure LineTag where
  entry : Nat
  gen : Nat
  holder : Party
  asid : Nat
  va : Nat
  na : Bool
deriving DecidableEq, Repr

/-- A line with no valid byte. -/
def emptyLine (core line : Nat) (t : LineTag) : Line :=
  ⟨core, line, t.entry, t.gen, t.holder, t.asid, t.va, t.na, 0, 0, 0, 0, 0, 0⟩

/-- A line with a context among its users. -/
def Line.usedBy (x : Line) (a : Agent) : Line := { x with users := x.users ||| BitVec.ofNat 64 (2 ^ a.ctx) }

/-- An 8-bit mask by a test on its places. -/
def mask8 (p : Nat → Bool) : BitVec 8 := BitVec.ofNat 8 (((positions 8 p).map (2 ^ ·)).foldl (· + ·) 0)

/-- The bytes that are not valid come from the home, with the bits of the words that were not wholly valid (R57, R75). -/
def fillLine (s : State) (x : Line) : Line :=
  let d := (List.range 64).foldl (fun d i => if x.valid.getLsbD i then d else lineSet d i (homeByte s (x.line * 64 + i))) x.data
  let at_ (w : Nat) : Nat := x.line * 64 + 8 * w
  { x with
    valid := BitVec.allOnes 64
    data := d
    full := mask8 fun w => if wordMask x.dirty w ≠ 0 ∨ wordMask x.valid w = 255 then x.full.getLsbD w else isFull s (at_ w)
    poison := mask8 fun w => if wordMask x.valid w = 255 then x.poison.getLsbD w else isPoison s (at_ w) }

/-- Loads n bytes within one line through the L1 cache; answers the bytes, whether they hit, and the state. -/
def l1Load (s : State) (a : Agent) (t : LineTag) (pa n : Nat) : List Byte × Bool × State :=
  let o := pa % 64
  let (x?, s) := lookupLine s a.unit (pa / 64) t.entry t.gen
  let read (x : Line) : List Byte := bytesBy (fun i => lineByte x.data i) o n
  match x? with
  | some x =>
    if (positions 64 fun i => decide (o ≤ i) && decide (i < o + n)).all fun i => x.valid.getLsbD i then (read x, true, putLine s (x.usedBy a))
    else
      let s := touchSlice s a pa
      let x := fillLine s x
      (read x, false, putLine s (x.usedBy a))
  | none =>
    let s := touchSlice (evictFor s a.unit (pa / 64)) a pa
    let x := fillLine s (emptyLine a.unit (pa / 64) t)
    (read x, false, putLine s (x.usedBy a))

/-- A line with bytes stored from place o on: they are valid and dirty, their words full; a word stored whole loses its poison mark. -/
def storeInLine (x : Line) (o : Nat) (bs : List Byte) : Line :=
  let m := BitVec.ofNat 64 ((2 ^ bs.length - 1) * 2 ^ o)
  { x with
    valid := x.valid ||| m
    dirty := x.dirty ||| m
    full := mask8 fun w => x.full.getLsbD w || decide (wordMask m w ≠ 0)
    poison := mask8 fun w => x.poison.getLsbD w && decide (wordMask m w ≠ 255)
    data := (bs.foldl (fun (p : BitVec 512 × Nat) b => (lineSet p.1 p.2 b, p.2 + 1)) (x.data, o)).1 }

/-- Stores bytes within one line into the L1 cache: allocated without a fetch, the bytes valid and dirty (R57). -/
def l1Store (s : State) (a : Agent) (t : LineTag) (pa : Nat) (bs : List Byte) : State :=
  let (x?, s) := lookupLine s a.unit (pa / 64) t.entry t.gen
  match x? with
  | some x => putLine s ((storeInLine x (pa % 64) bs).usedBy a)
  | none => putLine (evictFor s a.unit (pa / 64)) ((storeInLine (emptyLine a.unit (pa / 64) t) (pa % 64) bs).usedBy a)

/-- Bytes of a range split at multiples of m: the pieces as (start, length). -/
def pieces (m : Nat) : Nat → Nat → Nat → List (Nat × Nat)
  | 0, _, _ => []
  | _, _, 0 => []
  | f + 1, l, n + 1 =>
    let k := min (n + 1) (m - l % m)
    (l, k) :: pieces m f (l + k) (n + 1 - k)

end Sys2Proof.Machine
end

