-- ==== Sys2Proof/Machine/Access.lean ====
section
/-! DEFINITION. What an address names and who may touch it: windows (R21), page walks and cached translations (R24 to R39), region
lookup and the holder check (R78 to R91), and the reads and writes that a checked access performs (R55, R73, R111). -/

namespace Sys2Proof.Machine

/-! ## Who accesses -/

/-- The kinds of access that the checks distinguish; `xload` and `xstore` are engine and host data accesses, which R147 turns into
synchronisation operations on SYNC words. -/
inductive Mode where
  | load | store | fetch | peek | sync | marm | xload | xstore
deriving DecidableEq, Repr

/-- KIND of R37. -/
def Mode.kind : Mode → Nat
  | .load | .peek | .marm | .xload => 0
  | .store | .xstore => 1
  | .fetch => 2
  | .sync => 3

/-- Whether the mode is a synchronisation-word operation. -/
def Mode.isSync : Mode → Bool
  | .peek | .sync => true
  | _ => false

/-- The runtime party of an ASID (R80). -/
def runtimeParty : Party := 0x70000000

/-- The host party of an ASID. -/
def hostParty : Party := 0x50000000

/-- The peer party of a chip. -/
def peerParty (chip : Nat) : Party := BitVec.ofNat 32 (0x60000000 + chip % 4096 * 2 ^ 16)

/-- The party of an engine (R80, R389). -/
def engineParty (e : Nat) : Party :=
  if e < 90 then
    if e % 5 = 4 then BitVec.ofNat 32 (0x31000000 + e / 5 * 2 ^ 16) else BitVec.ofNat 32 (0x30000000 + e / 5 * 2 ^ 16 + e % 5 * 2 ^ 8)
  else if e < 98 then BitVec.ofNat 32 (0x32FF0000 + (e - 90) * 2 ^ 8)
  else BitVec.ofNat 32 (0x33FF0000 + (e - 98) * 2 ^ 8)

/-- An agent as the actor of its own accesses; an engine acts in the ASID of its kick (R184). -/
def actorOf (s : State) (a : Agent) : Actor :=
  let r := strandOf s a
  match a.kind with
  | .compute => ⟨r.party, r.str.asid.toNat, privOf a r, .strand, some a⟩
  | .stack => ⟨r.party, r.str.asid.toNat, privOf a r, .stack, some a⟩
  | .engine => ⟨engineParty a.unit, ((engineOf s a.unit).op.map (·.asid)).getD 0, 1, .engine, some a⟩
  | .mgmt => ⟨0, 0, 2, .mgmt, some a⟩

/-- The key of a group: ASID × 2^28 + id (R154). -/
def groupKey (asid gid : Nat) : Nat := asid * 2 ^ 28 + gid

/-- Whether a party is a member of a group. -/
def isMember (s : State) (asid gid : Nat) (p : Party) : Bool :=
  match mfind s.tdu.groups (groupKey asid gid) with
  | some g => g.members.any fun m => m.party == p
  | none => false

/-- Whether an actor matches a party of its ASID (R81). -/
def matchesParty (s : State) (x : Actor) (p : Party) : Bool :=
  (p != 0 && p == x.party)
    || ((x.path = .strand || x.path = .stack || x.path = .tdu) && decide (1 ≤ x.priv) && p == runtimeParty)
    || (decide (bitsOf p.toNat 31 28 = 2) && x.agent.isSome && isMember s x.asid (bitsOf p.toNat 27 0) x.party)

/-! ## The physical map (R24 to R26) -/

/-- N of R26: enabled stacks. -/
def stackCount (s : State) : Nat := popNat 12 (fld s.caps.memsplit 11 0)

/-- Bytes of the local part of a stack. -/
def localSize (s : State) : Nat := fld s.caps.memsplit 25 16 * 2 ^ 26

/-- Whether a PA lies in a populated DRAM aperture. -/
def isPopulated (s : State) (pa : Nat) : Bool :=
  if pa < 2 ^ 40 then decide (pa < stackCount s * (48 * 2 ^ 30 - localSize s))
  else if 2 ^ 48 ≤ pa ∧ pa < 2 ^ 48 + 12 * 2 ^ 40 then
    bit s.caps.memsplit ((pa - 2 ^ 48) / 2 ^ 40) && decide ((pa - 2 ^ 48) % 2 ^ 40 < localSize s)
  else false

/-- Whether a PA lies in the host aperture. -/
def isHostAperture (pa : Nat) : Bool := decide (2 ^ 51 ≤ pa) && decide (pa < 2 ^ 52)

/-- Firmware memory outside both apertures (R25, R185, R331), the management core's SRAM first (R52): where it lies is the model's (log
entry 7). -/
def isFirmware (pa : Nat) : Bool := decide (2 ^ 49 ≤ pa) && decide (pa < 2 ^ 49 + 2 ^ 48)

/-- The physical stack and the stack address of a DRAM address (R26). -/
def stackAddr (s : State) (pa : Nat) : Nat × Nat :=
  if pa < 2 ^ 40 then
    let n := max 1 (stackCount s)
    let g := pa / 4096
    ((nthSet 12 (fld s.caps.memsplit 11 0) (g % n)).getD 0, g / n * 4096 + pa % 4096)
  else ((pa - 2 ^ 48) / 2 ^ 40, pa % 2 ^ 40)

/-! ## Page walks (R27 to R31) -/

/-- A translation fault: CAUSE and LEVEL of R37. -/
abbrev XErr := Nat × Nat

/-- A pointer or ASID-table entry, from the walk cache or from memory; answers the entry and whether it was read. -/
def walkRead (s : State) (asid level vtag pa : Nat) : Word :=
  match s.walkCache.find? fun e => e.asid = asid ∧ e.level = level ∧ e.vtag = vtag with
  | some e => e.entry
  | none => homeWord s pa

/-- One level of the walk and those below it. `table` is the PA of the table; answers the leaf, its level, the pointers used. -/
def walkLevel (s : State) (asid va : Nat) : Nat → Nat → List WalkEntry → Except XErr (Word × Nat × List WalkEntry)
  | level, table, acc =>
    let pa := table + va / 2 ^ (16 + 10 * level) % 1024 * 8
    let vtag := va / 2 ^ (16 + 10 * level)
    let e := walkRead s asid level vtag pa
    if !bit e 0 then .error (3, level)
    else if bit e 1 then
      if level = 3 ∨ fld e 59 52 ≠ 0 ∨ fld e 15 7 ≠ 0 ∨ (level = 1 ∧ fld e 25 16 ≠ 0) ∨ (level = 2 ∧ fld e 35 16 ≠ 0) then .error (4, level)
      else .ok (e, level, acc)
    else
      match level with
      | 0 => .error (4, 0)
      | l + 1 =>
        if fld e 63 52 ≠ 0 ∨ fld e 12 2 ≠ 0 then .error (4, l + 1)
        else
          let nt := fld e 51 13 * 2 ^ 13
          if !isPopulated s nt then .error (10, l + 1)
          else walkLevel s asid va l nt (⟨asid, l + 1, vtag, e⟩ :: acc)

/-- A page walk: the leaf, its level, and the entries that the walk cache keeps (R30, R31, R33). DESIGN CHOICE (log entry 76): an ASID table
outside the DRAM apertures, for which the spec gives no cause, is read as the memory there: where nothing is listed V is 0, NOASID. -/
def walk (s : State) (asid va : Nat) : Except XErr (Word × Nat × List WalkEntry) :=
  let e := walkRead s asid 4 0 (fld s.caps.asidtabLive 51 15 * 2 ^ 15 + 8 * asid)
  if !bit e 0 then .error (2, 0)
  else if fld e 63 52 ≠ 0 ∨ fld e 12 1 ≠ 0 ∨ !isPopulated s (fld e 51 13 * 2 ^ 13) then .error (11, 0)
  else walkLevel s asid va 3 (fld e 51 13 * 2 ^ 13) [⟨asid, 4, 0, e⟩]

/-- The structure whose misses go to the walkers for an agent: its tile's L2 TLB, or its stack or engine TLB (R34). -/
def tlbUnit (a : Agent) : Nat :=
  match a.kind with
  | .compute => a.unit / 8
  | .stack => 100 + a.unit
  | .engine => if a.unit < 90 then a.unit / 5 else 400 + a.unit
  | .mgmt => 999

/-- A cached translation of an address. -/
def tlbFind (s : State) (unit asid va : Nat) : Option Tlb :=
  s.tlbs.find? fun t => t.unit = unit ∧ (bit t.leaf 5 ∨ t.asid = asid) ∧ t.vbase ≤ va ∧ va < t.vbase + 2 ^ (16 + 10 * t.size)

/-- The PA that a leaf gives an address. -/
def leafPa (leaf : Word) (size va : Nat) : Nat := fld leaf 51 16 * 2 ^ 16 + va % 2 ^ (16 + 10 * size)

/-- The structures that an actor's access looks up in order, for those of a unit: the core's L1 TLB first (R32, R34). -/
def tlbUnits (x : Actor) (u : Nat) : List Nat :=
  match x.agent with
  | some a => if a.kind = .compute then [1000 + a.unit, u] else [u]
  | none => [u]

/-- The set of a translation in its structure: of 512 in an L2 TLB; every other structure is one set (R32). -/
def tlbSet (t : Tlb) : Nat := if t.unit < 100 then t.vbase / 2 ^ (16 + 10 * t.size) % 512 else 0

/-- Entries of a set: 8 in an L2 TLB, 64 in an L1 TLB, 32 in a stack core's, 8 in a device-level engine's, 256 for a host window (R32). -/
def tlbWays (unit : Nat) : Nat := if unit < 100 then 8 else if 1000 ≤ unit then 64 else if 600 ≤ unit then 256 else if 400 ≤ unit then 8 else 32

/-- The list without its last element that satisfies a test. -/
def dropLast (p : α → Bool) (xs : List α) : List α := (takeFirst p xs.reverse).elim xs fun r => r.2.reverse

/-- A translation becomes the most recently used of its set; a full set loses the one used longest ago (R32; log entry 6). -/
def tlbInsert (s : State) (t : Tlb) : State :=
  let rest := s.tlbs.filter (· ≠ t)
  let same (y : Tlb) : Bool := decide (y.unit = t.unit) && decide (tlbSet y = tlbSet t)
  { s with tlbs := t :: (if (rest.filter same).length < tlbWays t.unit then rest else dropLast same rest) }

/-- The translation that a leaf gives an address. -/
def leafEntry (unit asid va : Nat) (leaf : Word) (size : Nat) : Tlb :=
  ⟨unit, asid, va / 2 ^ (16 + 10 * size) * 2 ^ (16 + 10 * size), size, leaf⟩

/-- The pointer entries of a walk enter the walk cache of 1,024 entries (R32, R33; log entry 6). -/
def cachePointers (s : State) (ps : List WalkEntry) : State :=
  { s with walkCache := (ps.filter (fun p => !s.walkCache.contains p) ++ s.walkCache).take 1024 }

/-- Permissions and the aperture of a leaf, lowest code first (R37). -/
def leafCheck (s : State) (x : Actor) (m : Mode) (leaf : Word) (size va : Nat) : Option XErr :=
  let pa := leafPa leaf size va
  let copy : Bool := match x.agent with
    | some a => decide (a.kind = .engine) && decide (a.unit < 90) && decide (a.unit % 5 ≠ 4)
    | none => false
  if (m.kind = 1 ∨ m.kind = 3) ∧ !bit leaf 2 then some (5, size)
  else if m.kind = 2 ∧ !bit leaf 3 then some (6, size)
  else if x.priv = 0 ∧ x.path ≠ .host ∧ !bit leaf 4 then some (7, size)
  else if isPopulated s pa ∨ (isHostAperture pa ∧ copy) then none
  else some (10, size)

/-! ## What an address names -/

/-- The place that a checked address names. -/
inductive Place where
  | dram (pa : Nat) (na : Bool)
  | hostMem (pa : Nat)
  | scratch (q o : Nat)
  | stackScratch (k o : Nat)
  | acc (t o : Nat)
  | accMeta (t o : Nat)
  | kick (dev : Bool) (t slot : Nat)
  | mailbox (t o : Nat)
  | view (o : Nat)
deriving DecidableEq, Repr

/-- Why an access is not performed now: a translation that a walk must bring, a region in transit, a translation fault (R37) or a
holder fault (R91) with its word and the lowest faulting address. -/
inductive Bad where
  | walk (unit asid vpage : Nat)
  | transit (key : Nat)
  | xlate (w : Word) (va : Word)
  | holder (cause : Nat) (w : Word) (va : Word)
deriving DecidableEq, Repr

/-- STR.XLATE for a fault (R37). -/
def xlateWord (cause level kind va : Nat) : Word := word (cause * 2 ^ 60 + level * 2 ^ 58 + kind * 2 ^ 56 + va % 2 ^ 56)

/-- The fault of an address. -/
def xlateBad (m : Mode) (e : XErr) (va : Nat) : Bad := .xlate (xlateWord e.1 e.2 m.kind va) (word (va % 2 ^ 56))

/-- First VA of the local windows (R19). -/
def winBase : Nat := 0x00FFFF0000000000

/-- Whether an engine is listed by the capacity registers (R3). -/
def engineListed (s : State) (e : Nat) : Bool :=
  if e < 90 then bit s.caps.tilemask (e / 5)
  else if e < 98 then bit s.caps.engine (56 + (e - 90))
  else decide (e < 146) && bit s.caps.engine (e - 98)

/-- The engine of a kick slot. -/
def slotEngine (dev : Bool) (t slot : Nat) : Nat := if dev then 90 + slot else t * 5 + slot

/-- The windows of R21: the place, or CAUSE 8 (NOWIN) or 9 (WINPRIV). The agents come first, then the size, then privilege and kind. -/
def windowOf (s : State) (x : Actor) (m : Mode) (va : Nat) : Except Nat Place :=
  let o := va - winBase
  let kind := (x.agent.map (·.kind)).getD .mgmt
  let tile := (x.agent.bind tileOfAgent).getD 0
  let hasTile := (x.agent.bind tileOfAgent).isSome
  let compute := decide (kind = .compute)
  let stencil := decide (kind = .engine) && hasTile && decide (((x.agent.map (·.unit)).getD 0) % 5 = 4)
  if o < 2 ^ 23 then
    if kind = .stack then
      if 2 ^ 18 ≤ o then .error 8
      else if m = .fetch ∨ m = .marm then .error 9
      else .ok (.stackScratch ((x.agent.map (·.unit)).getD 0) o)
    else if !(compute || (decide (kind = .engine) && hasTile)) then .error 9
    else if m = .fetch then .error 9
    else .ok (.scratch ((x.agent.bind quadOfAgent).getD 0) o)
  else if 2 ^ 24 ≤ o ∧ o < 2 ^ 24 + 3 * 2 ^ 20 then
    if !(compute || stencil) then .error 9
    else if m.isSync ∨ m = .fetch ∨ m = .marm ∨ (m.kind = 1 ∧ x.priv = 0) then .error 9
    else .ok (.acc tile (o - 2 ^ 24))
  else if 0x1300000 ≤ o ∧ o < 0x1300200 then
    if !(compute || stencil) then .error 9
    else if m.isSync ∨ m = .fetch ∨ m = .marm ∨ (m.kind = 1 ∧ x.priv = 0) then .error 9
    else .ok (.accMeta tile (o - 0x1300000))
  else if 2 ^ 32 ≤ o ∧ o < 2 ^ 32 + 4096 then
    let slot := (o - 2 ^ 32) / 64
    if !compute then .error 9
    else if 5 ≤ slot ∨ !engineListed s (slotEngine false tile slot) then .error 8
    else if m.isSync ∨ m = .fetch ∨ m = .marm then .error 9
    else .ok (.kick false tile slot)
  else if 2 ^ 33 ≤ o ∧ o < 2 ^ 33 + 2 ^ 16 then
    if !(compute || (decide (kind = .engine) && hasTile)) then .error 9
    else if !(m.isSync || decide (m = .marm) || (decide (kind = .engine) && (decide (m = .xload) || decide (m = .xstore)))) then .error 9
    else .ok (.mailbox tile (o - 2 ^ 33))
  else if 0x8000000000 ≤ o ∧ o < 0x8004000000 then
    if !(compute || decide (kind = .stack)) then .error 9
    else if m ≠ .load ∨ x.priv = 0 then .error 9
    else .ok (.view (o - 0x8000000000))
  else if 0x9000000000 ≤ o ∧ o < 0x9000001000 then
    let slot := (o - 0x9000000000) / 64
    if !compute then .error 9
    else if 56 ≤ slot ∨ !engineListed s (slotEngine true tile slot) then .error 8
    else if m.isSync ∨ m = .fetch ∨ m = .marm ∨ x.priv = 0 then .error 9
    else .ok (.kick true tile slot)
  else .error 8

/-- The translation of an address that an actor's structures hold, or that a walk has brought for the instruction at its pc. -/
def knownLeaf (s : State) (x : Actor) (u va : Nat) : Option Tlb :=
  ((tlbUnits x u).findSome? fun v => tlbFind s v x.asid va).or
    (x.agent.bind fun a => (strandOf s a).walked.find? fun t => t.asid = x.asid ∧ t.vbase ≤ va ∧ va < t.vbase + 2 ^ (16 + 10 * t.size))

/-- Where the translation of an actor comes from: a TLB, which misses (R35), or a walk at once (peers, the TDU). -/
def translated (s : State) (x : Actor) (unit : Option Nat) (m : Mode) (va : Nat) : Except Bad (Word × Nat) :=
  match unit with
  | some u =>
    match knownLeaf s x u va with
    | some t => .ok (t.leaf, t.size)
    | none =>
      let known := match x.agent with
        | some a => (strandOf s a).walkFault
        | none => none
      match known with
      | some (page, e) => if page.toNat = va / 2 ^ 16 then .error (xlateBad m (fld e 63 60, fld e 59 58) va) else .error (.walk u x.asid (va / 2 ^ 16))
      | none => .error (.walk u x.asid (va / 2 ^ 16))
  | none =>
    match walk s x.asid va with
    | .ok (leaf, size, _) => .ok (leaf, size)
    | .error e => .error (xlateBad m e va)

/-- The place of one address: NONCANON, windows, translation and permissions (R18, R20, R37); the management core's physical
addresses, APERTURE for an operand outside DRAM and firmware memory (R331), NONCANON for a fetch at a target that JR took (R328). -/
def place (s : State) (x : Actor) (unit : Option Nat) (m : Mode) (va : Nat) : Except Bad Place :=
  if x.path = .mgmt then
    if isPopulated s va ∨ isFirmware va then .ok (.dram va false)
    else .error (xlateBad m (if m = .fetch ∧ 2 ^ 56 ≤ va then 1 else 10, 0) va)
  else if 2 ^ 56 ≤ va then .error (xlateBad m (1, 0) va)
  else if winBase ≤ va then
    match windowOf s x m va with
    | .ok p => .ok p
    | .error c => .error (xlateBad m (c, 0) va)
  else do
    let (leaf, size) ← translated s x unit m va
    match leafCheck s x m leaf size va with
    | some e => .error (xlateBad m e va)
    | none =>
      let pa := leafPa leaf size va
      if isHostAperture pa then .ok (.hostMem pa) else .ok (.dram pa (bit leaf 6))

/-! ## Regions (R78, R84, R90, R102) -/

/-- The entry index that words show: of the device table, or of a quad's. -/
def entryIndex (key : Nat) : Nat := if key < 65536 then key else (key - 65536) % 32

/-- The keys of a table: the device's, or those of quad q's scratchpad table. -/
def inTable (q : Option Nat) (key : Nat) : Bool :=
  match q with
  | none => decide (key < 65536)
  | some q => decide (65536 + q * 32 ≤ key) && decide (key < 65536 + q * 32 + 32)

/-- The table that an address belongs to: none for the device's, `some q` for the own-quad scratchpad; an address in any other
window names no region. -/
def tableOf (a : Option Agent) (va : Nat) : Option (Option Nat) :=
  if va < winBase then some none
  else if va - winBase < 2 ^ 23 then (a.bind quadOfAgent).map some
  else none

/-- The region of an ASID that contains an address. -/
def regionAt (s : State) (asid : Nat) (tbl : Option Nat) (va : Nat) : Option (Nat × Entry) :=
  s.entries.find? fun (k, e) => inTable tbl k && decide (e.state ≠ 0) && decide (e.asid = asid) && decide (e.base ≤ va / 256)
    && decide (va / 256 < e.base + e.len)

/-- The region that an actor's address lies in. -/
def regionFor (s : State) (x : Actor) (va : Nat) : Option (Nat × Entry) := (tableOf x.agent va).bind fun t => regionAt s x.asid t va

/-- The share record of a party on an entry. -/
def shareOf (s : State) (key : Nat) (p : Party) : Option (Nat × Share) := s.shares.find? fun (_, r) => r.entry = key ∧ r.party = p ∧ r.count ≠ 0

/-- Whether an actor has shares on an entry, as itself, a group or the runtime. -/
def hasShare (s : State) (x : Actor) (key : Nat) : Bool := s.shares.any fun (_, r) => decide (r.entry = key) && decide (r.count ≠ 0) && matchesParty s x r.party

/-- STR.HOLDF for a fault (R91). -/
def holdfWord (cause kind : Nat) (r : Option (Nat × Entry)) : Word :=
  match r with
  | none => word (cause * 2 ^ 60 + kind * 2 ^ 54 + 2 ^ 48)
  | some (k, e) => word (cause * 2 ^ 60 + e.state * 2 ^ 56 + kind * 2 ^ 54 + entryIndex k * 2 ^ 32 + e.holder.toNat)

/-- The table of R90 for one region: 0 when the access is allowed, else CAUSE of STR.HOLDF. -/
def holderCause (s : State) (x : Actor) (m : Mode) (key : Nat) (e : Entry) : Nat :=
  if e.state = 5 ∨ e.state = 6 then 3
  else if e.state = 3 then
    match m with
    | .peek | .sync | .marm | .xload | .xstore => 0
    | _ => 1
  else if m.isSync then 1
  else if e.state = 1 then if matchesParty s x e.holder then 0 else 1
  else if e.state = 2 then
    if matchesParty s x e.holder || hasShare s x key then if m.kind = 1 then 2 else 0 else 1
  else if m = .fetch then 1
  else if matchesParty s x e.holder then 0 else 1

/-- The holder check of one address (R90): the region, a wait for its transfer, or the fault. -/
def holderCheck (s : State) (x : Actor) (m : Mode) (va : Nat) : Except Bad (Nat × Entry) :=
  match regionFor s x va with
  | none => .error (.holder 1 (holdfWord 1 m.kind none) (word va))
  | some (k, e) =>
    if e.transit then .error (.transit k)
    else match holderCause s x m k e with
      | 0 => .ok (k, e)
      | c => .error (.holder c (holdfWord c m.kind (some (k, e))) (word va))

/-- One piece of a checked access: its address, size, place and region. -/
structure Part where
  va : Nat
  n : Nat
  place : Place
  region : Option (Nat × Entry)
deriving DecidableEq, Repr

/-- The device cycles that d of an actor's own cycles take. -/
def actorCycles (s : State) (x : Actor) (d : Nat) : Nat := match x.agent with | some a => ownCycles s a d | none => d

/-- The latency of a stack core's access to HBM in stack cycles: its own channels 2j and 2j + 1, another of its stack, another stack (R72,
R77). -/
def stackLatency (s : State) (a : Agent) (pa : Nat) : Nat :=
  let x := stackAddr s pa
  if x.1 ≠ a.unit / 16 then Config.lat.stackFar
  else if bitsOf x.2 12 8 / 2 = a.unit % 16 then Config.lat.stackHbm else Config.lat.stackSwitch

/-- Whether a place's accesses meet a holder check (R23, R74, R185). -/
def needsHolder (x : Actor) (p : Place) : Bool :=
  match p with
  | .dram _ _ => decide (x.path ≠ .mgmt)
  | .hostMem _ => true
  | .scratch _ _ => true
  | _ => false

/-- A synchronisation operation in stack scratch faults UNOWNED (R74, R337). -/
def scratchSync (m : Mode) (p : Place) : Bool :=
  match p with
  | .stackScratch _ _ => m.isSync
  | _ => false

/-- The checks of R332 on n bytes at an address: every part's address, then every part's holder. A region is 256-byte aligned, so
parts of 256 bytes lie in one region and one page. -/
def access (s : State) (x : Actor) (unit : Option Nat) (m : Mode) (va n : Nat) : Except Bad (List Part) := do
  let ps ← (pieces 256 (n + 1) va n).mapM fun (v, k) => do return (⟨v, k, ← place s x unit m v, none⟩ : Part)
  ps.mapM fun p =>
    if scratchSync m p.place then .error (.holder 1 (holdfWord 1 m.kind none) (word p.va))
    else if needsHolder x p.place then do return { p with region := some (← holderCheck s x m p.va) } else .ok p

/-! ## Walks in progress (R34) -/

/-- Entries of a tile's miss table. -/
def missEntries : Nat := 64

/-- Page walkers of the device. -/
def walkers : Nat := 32

/-- A free walker takes the walk that reached the LLC first. -/
def startWalk (s : State) : State :=
  if walkers ≤ (s.walks.filter fun w => w.stage = .walking).length then s
  else match takeFirst (fun w : Walk => w.stage == .queued) s.walks with
    | some (w, _) =>
      post { s with walks := s.walks.map fun v => if v = w then { v with stage := .walking } else v } Config.lat.walk (.walkReturn w.unit w.asid w.vpage)
    | none => s

/-- A miss of a structure joins the walk of its ASID and page, or begins one; with its tile's miss table full it waits at the tile. DESIGN
CHOICE (log entry 76): the misses of one stack core, and of one device-level engine, for the same ASID and page are merged into one walk too. -/
def launchWalk (s : State) (unit asid vpage : Nat) : State :=
  if s.walks.any fun w => w.unit = unit ∧ w.asid = asid ∧ w.vpage = vpage then s
  else
    let full := decide (unit < 100) && decide (missEntries ≤ (s.walks.filter fun w => w.unit = unit ∧ w.stage ≠ .atTile).length)
    startWalk { s with walks := s.walks ++ [⟨unit, asid, vpage, if full then .atTile else .queued⟩] }

/-- A walk is over: its entry of the miss table goes to the miss that waited longest at the tile, its walker to the next walk. -/
def endWalk (s : State) (unit asid vpage : Nat) : State :=
  let ws := s.walks.filter fun w => !(w.unit = unit ∧ w.asid = asid ∧ w.vpage = vpage)
  let ws := match takeFirst (fun w : Walk => w.unit == unit && w.stage == .atTile) ws with
    | some (w, r) => r ++ [{ w with stage := .queued }]
    | none => ws
  startWalk (startWalk { s with walks := ws })

/-! ## Reading and writing what was checked -/

/-- The location of a place's first byte in the model's memory; places without one have none. -/
def Place.loc : Place → Option Nat
  | .dram pa _ => some pa
  | .hostMem pa => some pa
  | .scratch q o => some (scratchLoc q o)
  | .stackScratch k o => some (stackLoc k o)
  | .mailbox t o => some (mailLoc t o)
  | _ => none

/-- The state of a part's region; 0 where it has none. -/
def Part.state (p : Part) : Nat := (p.region.map (·.2.state)).getD 0

/-- A byte of an accumulator window: elements of 12 bytes, packed in logical row-major order (R21). -/
def accByte (s : State) (t o : Nat) : Byte := BitVec.ofNat 8 ((accRaw s t (o / 12)).toNat / 2 ^ (o % 12 * 8))

/-- The elements that a write of n bytes at an offset of the accumulator window covers whole lose their poison mark (R425). -/
def clearAccMarks (s : State) (t o n : Nat) : State :=
  modTile s t fun x => { x with accPoison := ((List.range ((o + n) / 12 - (o + 11) / 12)).map (· + (o + 11) / 12)).foldl (fun m k => sdel m (accAt x k)) x.accPoison }

/-- Writes a byte of an accumulator window. -/
def putAccByte (s : State) (t o : Nat) (b : Byte) : State :=
  modTile s t fun x =>
    let v := (accRaw s t (o / 12)).toNat
    let k := 2 ^ (o % 12 * 8)
    x.putAcc (o / 12) (BitVec.ofNat 96 (v - v / k % 256 * k + b.toNat * k))

/-- A byte of the accumulator metadata: the word of tile k at offset 8k. -/
def metaByte (s : State) (t o : Nat) : Byte := byteOf (mget 0 (tileOf s t).accMeta (o / 8)) (o % 8)

/-- Writes a byte of the accumulator metadata. -/
def putMetaByte (s : State) (t o : Nat) (b : Byte) : State :=
  modTile s t fun x => { x with accMeta := mput 0 x.accMeta (o / 8) (setFld (mget 0 x.accMeta (o / 8)) (o % 8 * 8 + 7) (o % 8 * 8)
    (if o % 8 = 0 then b.toNat % 128 else b.toNat)) }

/-- The four words of a holder-table entry (R84). -/
def Entry.words (e : Entry) : List Word :=
  [word (e.asid * 2 ^ 48 + e.base), word e.len, word (e.holder.toNat * 2 ^ 32 + e.shares * 2 ^ 16 + e.gen.toNat),
    word (e.lender.toNat * 2 ^ 32 + (if e.transit then 128 else 0) + e.state)]

/-- The word of a share record (R86). -/
def Share.word0 (r : Share) : Word := word (entryIndex r.entry * 2 ^ 48 + r.count * 2 ^ 32 + r.party.toNat)

/-- A byte of the holder-table read view (R87): entries of 32 bytes, then share records of 16 bytes; zero elsewhere. -/
def viewByte (s : State) (o : Nat) : Byte :=
  if o < 65536 * 32 then byteOf ((Entry.words (mget {} s.entries (o / 32))).getD (o % 32 / 8) 0) (o % 8)
  else if 0x2000000 ≤ o ∧ o < 0x2000000 + 131072 * 16 then
    if o % 16 < 8 then byteOf (Share.word0 (mget {} s.shares ((o - 0x2000000) / 16))) (o % 8) else 0
  else 0

/-! ## Holder caches (R83, R89) and the TLBs' use -/

/-- The holder caches that an agent's check looks up in order, each with its entries and its added latency: a core's or device-level
engine's own, then the tile's (R83). -/
def holderUnits (a : Agent) : List (Nat × Nat × Nat) :=
  let tile := match tileOfAgent a with | some t => [(5000 + t, 1024, Config.lat.holderTile)] | none => []
  match a.kind with
  | .compute | .stack => (coreKey a, 32, 0) :: tile
  | .engine => if a.unit < 90 then tile else [(coreKey a, 32, 0)]
  | .mgmt => []

/-- The entries that a holder cache holds. -/
def heldBy (s : State) (u : Nat) : List Nat := mget [] s.holders u

/-- The latency that the lookup of an entry adds: of the first cache that holds it, else of the entry's home, logical slice i mod L (R83). -/
def holderDelay (s : State) (a : Agent) (key : Nat) : Nat :=
  match (holderUnits a).find? fun u => (heldBy s u.1).contains key with
  | some u => u.2.2
  | none => if sameDie s a (key % max 1 (sliceCount s)) then Config.lat.holderNear else Config.lat.holderFar

/-- An entry becomes the most recently used of a holder cache; a full one evicts the entry used longest ago, and a compute core then
writes back and invalidates every line recorded under it (R89; log entry 6). -/
def holdIn (a : Agent) (key : Nat) (s : State) (u : Nat × Nat × Nat) : State :=
  let es := (heldBy s u.1).filter (· ≠ key)
  let out := es.drop (u.2.1 - 1)
  let s := { s with holders := mset s.holders u.1 (key :: es.take (u.2.1 - 1)) }
  if a.kind = .compute ∧ u.1 = a.unit then sweepLines s fun x => decide (x.core = a.unit) && out.contains x.entry else s

/-- The check of an access brings its entry into the caches up to the one that held it. -/
def noteHolder (s : State) (a : Agent) (key : Nat) : State :=
  let us := holderUnits a
  let missed := us.takeWhile fun u => !(heldBy s u.1).contains key
  (us.take (missed.length + 1)).foldl (holdIn a key) s

/-- The translation that an access used enters the structures up to the one that held it (R33: only a translation that an access has
used without a fault is kept). -/
def noteLeaf (s : State) (x : Actor) (u va : Nat) : State :=
  match knownLeaf s x u va with
  | none => s
  | some t =>
    let us := tlbUnits x u
    let missed := us.takeWhile fun v => (tlbFind s v x.asid va).isNone
    (us.take (missed.length + 1)).foldl (fun s v => tlbInsert s { t with unit := v }) s

/-- What an access that passed its checks leaves in the caches of translations and of holder-table entries. -/
def noteParts (s : State) (x : Actor) (ps : List Part) : State :=
  match x.agent with
  | none => s
  | some a => ps.foldl (fun s p =>
      let s := if p.va < winBase ∧ a.kind ≠ .mgmt then noteLeaf s x (tlbUnit a) p.va else s
      match p.region with
      | some (k, _) => if k < 65536 then noteHolder s a k else s
      | none => s) s

/-- The greatest latency that the holder checks of an access add. -/
def partsDelay (s : State) (x : Actor) (ps : List Part) : Nat :=
  match x.agent with
  | none => 0
  | some a => (ps.map fun p => match p.region with | some (k, _) => if k < 65536 then holderDelay s a k else 0 | none => 0).foldl max 0

/-- The entry leaves every holder cache and tile holder-table cache; the lines recorded under it go with it (R89, R98). -/
def dropHolder (s : State) (key : Nat) : State :=
  sweepLines { s with holders := s.holders.map fun h => (h.1, h.2.filter (· ≠ key)) } fun x => x.entry = key

/-- What an access to a byte of a DRAM part records in a line. -/
def tagAt (x : Actor) (p : Part) (key : Nat) (e : Entry) (pa : Nat) (na : Bool) (at_ : Nat) : LineTag :=
  ⟨key, e.gen.toNat, e.holder, x.asid, (p.va + (at_ - pa)) / 64 * 64, na⟩

/-- Reads a part: the bytes, the latency of R77 in device cycles, the state. -/
def readPart (s : State) (x : Actor) (p : Part) : List Byte × Nat × State :=
  match p.place with
  | .dram pa na =>
    match x.path, p.region, x.agent with
    | .strand, some (k, e), some a =>
      (pieces 64 (p.n + 1) pa p.n).foldl (fun (acc : List Byte × Nat × State) (q : Nat × Nat) =>
        let (bs, hit, s) := if e.state = 1 ∨ e.state = 2 then l1Load acc.2.2 a (tagAt x p k e pa na q.1) q.1 q.2
          else (bytesBy (homeByte acc.2.2) q.1 q.2, false, touchSlice acc.2.2 a q.1)
        (acc.1 ++ bs, max acc.2.1 (if hit then ownCycles s a Config.lat.l1 else llcLatency s a q.1), s)) ([], 0, s)
    | .stack, _, _ =>
      if p.state = 4 then (bytesBy (homeByte s) pa p.n, Config.lat.llcNear, s)
      else (bytesBy (hbmByte s) pa p.n, (x.agent.map fun a => ownCycles s a (stackLatency s a pa)).getD 0, s)
    | .host, _, _ | .peer, _, _ => if p.state = 3 ∨ p.state = 4 then (bytesBy (homeByte s) pa p.n, 0, s) else (bytesBy (hbmByte s) pa p.n, 0, s)
    | _, _, _ => (bytesBy (homeByte s) pa p.n, Config.lat.llcNear, s)
  | .hostMem _ =>
    -- what host memory holds is the host's: free values (log entry 3)
    ((List.range p.n).map fun i => byteOf (Config.freeWord (s.freeCount + i / 8)) (i % 8), Config.lat.miss, { s with freeCount := s.freeCount + (p.n + 7) / 8 })
  | .scratch q o => (bytesBy (hbmByte s) (scratchLoc q o) p.n, actorCycles s x Config.lat.scratch, s)
  | .stackScratch k o => (bytesBy (hbmByte s) (stackLoc k o) p.n, actorCycles s x Config.lat.stackScratch, s)
  | .mailbox t o => (bytesBy (hbmByte s) (mailLoc t o) p.n, actorCycles s x Config.lat.mailbox, s)
  | .acc t o => (bytesBy (accByte s t) o p.n, Config.lat.accWindow, s)
  | .accMeta t o => (bytesBy (metaByte s t) o p.n, Config.lat.accWindow, s)
  | .view o => (bytesBy (viewByte s) o p.n, Config.lat.llcNear, s)
  | .kick _ _ _ => (List.replicate p.n 0, Config.lat.accWindow, s)

/-- Writes a part. -/
def writePart (s : State) (x : Actor) (p : Part) (bs : List Byte) : State :=
  match p.place with
  | .dram pa na =>
    match x.path, p.region, x.agent with
    | .strand, some (k, e), some a =>
      ((pieces 64 (p.n + 1) pa p.n).foldl (fun (acc : List Byte × State) (q : Nat × Nat) =>
        (acc.1.drop q.2,
          if e.state = 1 then l1Store acc.2 a (tagAt x p k e pa na q.1) q.1 (acc.1.take q.2)
          else storeAt na (touchSlice acc.2 a q.1) q.1 (acc.1.take q.2))) (bs, s)).2
    | .stack, _, _ => if p.state = 4 then storeAt na s pa bs else hbmStore s pa bs
    | .host, _, _ | .peer, _, _ => if p.state = 3 ∨ p.state = 4 then storeAt na s pa bs else hbmStore s pa bs
    | _, _, _ => storeAt na s pa bs
  | .hostMem pa => writeBy putHbm s pa bs
  | .scratch q o => homeStore s (scratchLoc q o) bs
  | .stackScratch k o => homeStore s (stackLoc k o) bs
  | .mailbox t o => homeStore s (mailLoc t o) bs
  | .acc t o => clearAccMarks (writeBy (fun s i b => putAccByte s t i b) s o bs) t o bs.length
  | .accMeta t o => writeBy (fun s i b => putMetaByte s t i b) s o bs
  | .view _ | .kick _ _ _ => s

/-- The 64-byte lines beyond the first that the parts touch. -/
def furtherLines (ps : List Part) : Nat := ((ps.head?.map (·.va)).getD 0 % 64 + (ps.map (·.n)).foldl (· + ·) 0 - 1) / 64

/-- The bytes of all parts in address order, their greatest latency, the state. -/
def readAll (s : State) (x : Actor) (ps : List Part) : List Byte × Nat × State :=
  ps.foldl (fun (acc : List Byte × Nat × State) p =>
    let (bs, t, s) := readPart acc.2.2 x p
    (acc.1 ++ bs, max acc.2.1 t, s)) ([], 0, s)

/-- Reads all parts, as an access that passed its checks: the latency is the greatest of the parts', with what the holder lookup adds
(R83) and 4 of the agent's cycles for each further line (R335). -/
def readParts (s : State) (x : Actor) (ps : List Part) : List Byte × Nat × State :=
  let r := readAll (noteParts s x ps) x ps
  (r.1, r.2.1 + partsDelay s x ps + actorCycles s x (Config.lat.line * furtherLines ps), r.2.2)

/-- Writes all parts, as an access that passed its checks. -/
def writeParts (s : State) (x : Actor) (ps : List Part) (bs : List Byte) : State :=
  (ps.foldl (fun (acc : List Byte × State) p => (acc.1.drop p.n, writePart acc.2 x p (acc.1.take p.n))) (bs, noteParts s x ps)).2

/-- Whether an actor reads a part below the LLC (R73, R97): a stack strand outside a group's region, the host and a peer outside a group's
region or a SYNC region. -/
def readsBelow (x : Actor) (p : Part) : Bool :=
  match x.path with
  | .stack => decide (p.state ≠ 4)
  | .host | .peer => decide (p.state ≠ 3) && decide (p.state ≠ 4)
  | _ => false

/-- Whether an actor's read of a part meets a poisoned word: a mark of the word in the line of its core's L1 cache that serves it, else
the mark where it reads (R75, R425). -/
def poisonAt (s : State) (x : Actor) (p : Part) (w : Nat) : Bool :=
  let line := match p.region, x.agent with
    | some (k, e), some a => if x.path = Path.strand ∧ (e.state = 1 ∨ e.state = 2) then
        s.l1.find? fun (y : Line) => y.core = a.unit ∧ y.line = w / 64 ∧ y.entry = k ∧ y.gen = e.gen.toNat ∧ wordMask y.valid (w % 64 / 8) = 255 else none
    | _, _ => none
  match line with
  | some y => y.poison.getLsbD (w % 64 / 8)
  | none => if readsBelow x p then (hbmBits s w).2 else isPoison s w

/-- The address of the first poisoned word or accumulator element that an actor's read of the parts returns (R425, R426). -/
def poisonedVa (s : State) (x : Actor) (ps : List Part) : Option Word :=
  ps.findSome? fun p => match p.place with
    | .acc t o => if (List.range ((o + p.n - 1) / 12 - o / 12 + 1)).any fun i => accMarked s t (o / 12 + i) then some (word p.va) else none
    | pl => pl.loc.bind fun l => ((wordsOf l p.n).find? fun w => poisonAt s x p w).map fun w => word (if w < l then p.va else p.va + (w - l))

/-- Whether an actor's read of the parts returns a poisoned word. -/
def readsPoison (s : State) (x : Actor) (ps : List Part) : Bool := (poisonedVa s x ps).isSome

/-- Whether an access reads host memory (R50, R448). -/
def readsHost (ps : List Part) : Bool := ps.any fun p => match p.place with | .hostMem _ => true | _ => false

/-- Every word of the parts that has a place of its own is marked poisoned (R425). -/
def poisonParts (s : State) (ps : List Part) : State :=
  ps.foldl (fun s p => match p.place, p.place.loc with
    | .dram _ na, some l => (wordsOf l p.n).foldl (fun s w => setPoison s w true na) s
    | _, some l => (wordsOf l p.n).foldl (fun s w => setPoison s w true) s
    | _, none => s) s

/-- The location of a one-part access. -/
def partLoc (ps : List Part) : Nat := (ps.head?.bind fun p => p.place.loc).getD 0

/-- NA of the page of a one-part access. -/
def partNa (ps : List Part) : Bool := match ps with | ⟨_, _, .dram _ na, _⟩ :: _ => na | _ => false

end Sys2Proof.Machine
end

