-- ==== Sys2Proof/Machine/Wire.lean ====
section
/-! DEFINITION. The sending side of the Zumor fabric: routes, packets on their way, acknowledgements (R452 to R456). -/

namespace Sys2Proof.Machine

/-- The port that the current route table gives for a chip id (R453). -/
def routeOf (s : State) (chip : Nat) : Option Nat :=
  let e := mget 0 s.fabric.routes chip
  if e.getLsbD 6 && decide (e.toNat % 64 < 48) then some (e.toNat % 64) else none

/-- A packet leaves on the port of its destination's route, with the current TV (R454); without a route it is dropped and counted
(R453); a port that is not UP carries nothing. -/
def sendOut (s : State) (p : Packet) : State :=
  match routeOf s p.dst with
  | none => { s with fabric := { s.fabric with fabdrop := min (2 ^ 32 - 1) (s.fabric.fabdrop + 1) } }
  | some port =>
    if (mget {} s.fabric.ports port).state = 4 then { s with fabric := { s.fabric with sent := s.fabric.sent ++ [(port, p)] } } else s

/-- A packet of this device's own, under the current topology version. -/
def sendOwn (s : State) (p : Packet) : State := sendOut s { p with tv := s.fabric.tv, src := s.fabric.chipid.toNat }

/-- The key of a sequence: (chip, TC). -/
def seqKey (chip tc : Nat) : Nat := chip * 4 + tc

/-- Unacknowledged packets to a destination in a class (R456). -/
def unackedTo (s : State) (dst tc : Nat) : List Unacked := s.fabric.unacked.filter fun u => u.packet.dst = dst ∧ u.packet.tc = tc

/-- Whether another packet may be queued: at most 256 wait for acknowledgement (R456). -/
def mayQueue (s : State) (dst tc : Nat) : Bool := decide ((unackedTo s dst tc).length < 256)

/-- The delays of R456 in cycles: 8 µs, 200 µs. -/
def resendDelay : Nat := 20000
/-- The wait after which a destination is lost. -/
def lostDelay : Nat := 500000

/-- A packet of TC 0 to 2 is queued for a strand, named by its ASID and party: it takes the next SEQ, is sent, and stays until it is
acknowledged; where 256 wait for that already it is kept back until one of them is acknowledged (R456). One for a peer that is declared lost
already is discarded, as those that waited were; its engine's operation learns it (R126). -/
def queuePacket (s : State) (dst tc typ asid : Nat) (va : Word) (ws : List Word) (by_ : Option (Nat × Party)) (engine : Option Nat)
    (marks : List Nat := []) : State :=
  if s.fabric.lostPeers.contains dst then (match engine with | some e => modEngine s e fun x => { x with lost := true } | none => s)
  else
  let n := mget 0 s.fabric.nextSeq (seqKey dst tc)
  let p : Packet := ⟨s.fabric.tv, tc, typ, dst, s.fabric.chipid.toNat, asid, n, va, ws, marks⟩
  if !mayQueue s dst tc then { s with fabric := { s.fabric with backlog := s.fabric.backlog ++ [⟨p, s.cycle, s.cycle, by_, engine⟩] } }
  else
  let first := (unackedTo s dst tc).isEmpty
  let s := { s with fabric := { s.fabric with nextSeq := mset s.fabric.nextSeq (seqKey dst tc) ((n + 1) % 2 ^ 16)
                                              unacked := s.fabric.unacked ++ [⟨p, s.cycle, s.cycle, by_, engine⟩] } }
  let s := sendOwn s p
  if first then post s resendDelay (.fabricResend dst tc) else s

/-- The packets kept back for a destination in a class are queued, in order, as far as acknowledgements have made room. -/
def drainBacklog (s : State) (dst tc : Nat) : State :=
  let mine (u : Unacked) : Bool := decide (u.packet.dst = dst) && decide (u.packet.tc = tc)
  (s.fabric.backlog.filter mine).foldl (fun s u => queuePacket s dst tc u.packet.typ u.packet.asid u.packet.va u.packet.payload u.by_ u.engine u.packet.marks)
    { s with fabric := { s.fabric with backlog := s.fabric.backlog.filter fun u => !mine u } }

/-! ## The format of a packet (R452) -/

/-- The two words of a packet's header; LEN is the number of its payload words. -/
def packetHeader (p : Packet) : List Word :=
  [word (p.tv % 16 * 2 ^ 60 + p.tc % 4 * 2 ^ 58 + p.typ % 16 * 2 ^ 54 + p.dst % 4096 * 2 ^ 42 + p.src % 4096 * 2 ^ 30 + p.asid % 4096 * 2 ^ 18 + p.seq % 2 ^ 16),
   word (p.payload.length % 256 * 2 ^ 56 + p.va.toNat % 2 ^ 56)]

/-- A packet's trailer (R452): CRC-32C over header and payload, then 4 zero bytes. -/
def packetTrailer (p : Packet) : Word := word (crc32c ((packetHeader p ++ p.payload).flatMap wordBytes))

/-- Whether a packet that comes with a trailer is well formed: a payload of 32 words at most, and its CRC. -/
def packetSound (p : Packet) (trailer : Word) : Bool := decide (p.payload.length ≤ 32) && trailer == packetTrailer p

/-- The sequence number expected next from a chip in a class. -/
def expected (s : State) (chip tc : Nat) : Nat := mget 0 s.fabric.expect (seqKey chip tc)

/-- The cumulative ACK of the last packet performed. -/
def sendAck (s : State) (p : Packet) : State :=
  sendOwn s { p with dst := p.src, typ := 1, seq := (expected s p.src p.tc + 2 ^ 16 - 1) % 2 ^ 16, va := 0, payload := [] }

/-- The expected SEQ moves past a packet. -/
def advanceSeq (s : State) (p : Packet) : State :=
  { s with fabric := { s.fabric with expect := mset s.fabric.expect (seqKey p.src p.tc) ((p.seq + 1) % 2 ^ 16) } }

/-- A NAK: final for its packet (R456), and counted (R90). -/
def sendNak (s : State) (p : Packet) (reason : Nat) : State :=
  let s := sendOwn (advanceSeq s p) { p with dst := p.src, typ := 2, va := word reason, payload := [] }
  { s with fabric := { s.fabric with naks := s.fabric.naks + 1 } }

/-- A packet has been performed: the next SEQ is expected, and the ACK is sent. -/
def packetDone (s : State) (p : Packet) : State := sendAck (advanceSeq s p) p

end Sys2Proof.Machine
end

