-- ==== Sys2Proof/Machine/Sync.lean ====
section
/-! DEFINITION. Synchronisation homes: requests, waiter entries, service of waiting requests, reservations of atomics, the overflow
list, bound words (spec/05 R135 to R147, R158), tile semaphores (R152, R153). -/

namespace Sys2Proof.Machine

/-! ## Results on their way (R54, R165) -/

/-- The mark of an arrival whose delay counts in its quad's own cycles (R9): number 195, which names no register. -/
def ownMark : List (Nat × Word) := [(195, 0)]

/-- A result for a register: it arrives after the delay, in device cycles. No destination, no arrival. -/
def deliver (s : State) (a : Agent) (dst : Option Nat) (v : Word) (delay : Nat) : State :=
  match dst with
  | some n => post s delay (.resultArrival a [(n, v)] 0 0)
  | none => s

/-! ## Conditions and effects at the home (R137, R145) -/

/-- Waiter entries of a home in use: waiting requests and reservations (R140). -/
def entriesUsed (s : State) (home : Nat) : Nat :=
  (s.waiters.filter fun q => q.home = home).length + (s.reserved.filter fun r => r.2.home = home).length

/-- Waiter entries of every home (R135). -/
def homeEntries : Nat := 64

/-- Whether a request is an atomic. -/
def SyncKind.isAtomic : SyncKind → Bool
  | .take | .fill | .peek | .empty => false
  | _ => true

/-- Whether a word is full with a spawn pending (R158). -/
def spawnPending (s : State) (l : Nat) : Bool := (mfind s.tdu.boundFull l).isSome

/-- Whether a word is reserved for an atomic of the agent that makes a request. -/
def reservedBy (s : State) (q : SyncReq) : Bool := (mfind s.reserved q.loc).any fun r => q.who == .agent r.agent

/-- The condition of a request to proceed (R137, R158); a Peek comes after the Fill of an earlier atomic of its own agent (R113, R341). -/
def canProceed (s : State) (q : SyncReq) : Bool :=
  let free := (mfind s.reserved q.loc).isNone
  match q.kind with
  | .peek => !reservedBy s q
  | .fill => !isFull s q.loc && free
  | .empty => free && !spawnPending s q.loc
  | _ => isFull s q.loc && free && !spawnPending s q.loc

/-- The new value that an atomic's Fill brings (R340). -/
def atomicNew (k : SyncKind) (old d d2 : Word) : Word :=
  match k with
  | .aadd => old + d
  | .aand => old &&& d
  | .aor => old ||| d
  | .amin => if d.slt old then d else old
  | .amax => if old.slt d then d else old
  | .axch => d
  | .acas => if old = d then d2 else old
  | _ => old

/-- The latency of a synchronisation operation whose word is ready (R77), in device cycles. -/
def syncLatency (s : State) (w : Who) (l : Nat) : Nat :=
  let own (d : Nat) : Nat := match w with | .agent a => ownCycles s a d | _ => d
  if 2 ^ 54 ≤ l then own Config.lat.mailbox
  else if 2 ^ 52 ≤ l then own Config.lat.scratch
  else match w with
    | .agent a => llcLatency s a l + 8
    | _ => Config.lat.llcNear + 8

/-- Capacity of the spawn queue (R194). -/
def spawnCapacity : Nat := 16384

/-- A Fill on a bound word commits one spawn; the word stays full until the placement. A ONCE binding goes at the commit. With the
spawn queue full the commit waits at the word's home (R158, R194). -/
def commitBound (s : State) (l : Nat) (v : Word) : State :=
  match mfind s.tdu.bindings l with
  | none => s
  | some b =>
    let sp : Spawn := ⟨b.launch, v, b.asid, b.priv, some l, 0, b.va, s.cycle⟩
    let bs := if b.once then mdel s.tdu.bindings l else s.tdu.bindings
    if s.tdu.spawns.length < spawnCapacity then
      post { s with tdu := { s.tdu with bindings := bs, spawns := s.tdu.spawns ++ [sp], boundFull := mset s.tdu.boundFull l none } }
        Config.lat.tdu .placement
    else { s with tdu := { s.tdu with bindings := bs, boundFull := mset s.tdu.boundFull l (some sp) } }

/-- The event that runs a routine of an engine; none for a number that no class implements. -/
def routineEvent (e routine : Nat) : Option Instr :=
  match routine with
  | 0 => some (.copy e) | 1 => some (.copy2d e) | 2 => some (.gather e) | 3 => some (.stencilDecomposition e)
  | 16 => some (.fabricTokenRequest e) | 17 => some (.linkMessageSend e) | _ => none

/-- The routine of the operation in progress goes on after d cycles. -/
def resumeRoutine (s : State) (e d : Nat) : State :=
  match (engineOf s e).op.bind fun k => routineEvent e (fld k.word 63 58) with
  | some i => post s d i
  | none => s

/-- What a performed request gives its maker: a strand's register, the host's completion, an engine's next step. -/
def answerReq (s : State) (q : SyncReq) (v : Word) : State :=
  match q.who with
  | .agent a =>
    if q.kind.isAtomic || q.kind == .take || q.kind == .peek then
      let s := deliver s a q.dst v (syncLatency s q.who q.loc)
      if isPoison s q.loc then post s 0 (.errorConsumed a q.va) else s
    else s
  | .host id =>
    let done := (s.host.fills.filter fun f => f.id = id ∧ f.src = none).map fun f => Answer.done f.off
    { s with host := { s.host with fills := s.host.fills.filter (fun f => f.id ≠ id), answers := s.host.answers ++ done } }
  | .engineEnd e => post (modEngine s e fun x => { x with filled := true }) 1 (.endOp e 0 0)
  | .engineData e =>
    if (engineOf s e).ending.isSome then s else resumeRoutine (modEngine s e fun x => { x with progress := x.progress + 1, gathered := [] }) e 1
  | .peer p => { s with fabric := { s.fabric with writing := s.fabric.writing.map fun x => if x.1 = p then (p, x.2 + 1) else x } }
  | .tdu | .note => s

/-- A request performed at its home, with no service of others yet. -/
def performReq (s : State) (q : SyncReq) : State :=
  let old := homeWord s q.loc
  match q.kind with
  | .peek => answerReq s q old
  | .take => answerReq (hitLine (setFull s q.loc false q.na) q.loc) q old
  | .empty => answerReq (hitLine (setFull s q.loc false q.na) q.loc) q old
  | .fill =>
    let s := hitLine (putBitsBy q.na (writeBy (putBy q.na) s q.loc (wordBytes q.v)) q.loc (true, q.poison)) q.loc
    answerReq (commitBound s q.loc q.v) q old
  | k =>
    match q.who with
    | .agent a =>
      let s := hitLine (setFull s q.loc false q.na) q.loc
      let nw := atomicNew k old q.v q.v2
      let s := { s with reserved := mset s.reserved q.loc ⟨a, old, nw, q.home, q.va, q.na⟩ }
      post (answerReq s q old) (2 * syncLatency s q.who q.loc) (.atomicFill a q.loc nw)
    | _ => s

/-- Whether an earlier request of the same agent to the same word is waiting in the list (R338). -/
def earlierSame (qs : List SyncReq) (q : SyncReq) : Bool := qs.any fun p => p.loc = q.loc ∧ p.who = q.who

/-- The oldest waiting request on a word whose condition holds, with the others. -/
def pickWaiter (s : State) (l : Nat) : List SyncReq → List SyncReq → Option (SyncReq × List SyncReq)
  | _, [] => none
  | before, q :: r =>
    if q.loc = l ∧ canProceed s q ∧ !earlierSame before q then some (q, before ++ r) else pickWaiter s l (before ++ [q]) r

/-- An entry of a home was freed: the TDU forwards the oldest listed request of that home (R142). -/
def forwardIf (s : State) (home : Nat) : State :=
  if s.overflow.any fun q => q.home = home then post s Config.lat.tdu (.overflowForward home) else s

/-- Serves waiting requests on a word until no condition holds (R138). -/
def serveWord : Nat → State → Nat → State
  | 0, s, _ => s
  | f + 1, s, l =>
    match pickWaiter s l [] s.waiters with
    | none => s
    | some (q, rest) => serveWord f (forwardIf (performReq { s with waiters := rest } q) q.home) l

/-- Serves a word with enough fuel: every service removes a waiting request. -/
def serve (s : State) (l : Nat) : State := serveWord (s.waiters.length + 1) s l

/-- The three answers of a home (R338). -/
inductive HomeAnswer where
  | performed | waiting | busy
deriving DecidableEq, Repr

/-- Whether a home has an entry for a newly arriving request: the entries that it frees are kept for the listed ones while there are any
(R140, R142). -/
def hasEntry (s : State) (home : Nat) : Bool := decide (entriesUsed s home < homeEntries) && !(s.overflow.any fun p => p.home = home)

/-- A request arrives at its home (R137 to R142): performed, waiting in an entry, or answered BUSY. -/
def arrive (s : State) (q : SyncReq) : HomeAnswer × State :=
  if canProceed s q && !earlierSame s.waiters q && !earlierSame s.overflow q then
    if !q.kind.isAtomic || hasEntry s q.home then (.performed, serve (performReq s q) q.loc) else (.busy, s)
  else if hasEntry s q.home then (.waiting, { s with waiters := s.waiters ++ [q] })
  else (.busy, s)

/-- A request for the word at a location. -/
def requestAt (s : State) (who : Who) (kind : SyncKind) (l : Nat) (na : Bool) (va : Word) (asid : Nat) (v : Word) : SyncReq :=
  { who := who, kind := kind, loc := l, home := homeOf s l, va := va, asid := asid, v := v, v2 := 0, dst := none, old := 0, listed := false, poison := false,
    na := na }

/-- The Fill of an atomic (R145): performed on its reserved word; the reservation ends. -/
def finishAtomic (s : State) (l : Nat) (v : Word) : State :=
  match mfind s.reserved l with
  | none => s
  | some r =>
    let s := { s with reserved := mdel s.reserved l }
    let s := hitLine (putBitsBy r.na (writeBy (putBy r.na) s l (wordBytes v)) l (true, false)) l
    forwardIf (serve (commitBound s l v) l) r.home

/-- A word's bit or value changed outside a request: its waiters are looked at again. -/
def wordChanged (s : State) (l : Nat) : State := serve (hitLine s l) l

/-- A waiting request leaves its home or the overflow list: those of an agent that satisfy a test. -/
def withdraw (s : State) (p : SyncReq → Bool) : State :=
  let homes := (s.waiters.filter p).map (·.home)
  homes.foldl forwardIf { s with waiters := s.waiters.filter (fun q => !p q), overflow := s.overflow.filter fun q => !p q }

/-- Requests of an agent that wait at homes or on the overflow list. -/
def waitingOf (s : State) (a : Agent) : List SyncReq := (s.waiters ++ s.overflow).filter fun q => q.who = .agent a

/-- The TDU forwards the oldest listed request of a home (R142). -/
def forwardOverflow (s : State) (home : Nat) : State :=
  match takeFirst (fun q : SyncReq => q.home = home) s.overflow with
  | none => s
  | some (q, rest) =>
    if canProceed s q && !earlierSame s.waiters q && (!q.kind.isAtomic || decide (entriesUsed s home < homeEntries)) then
      forwardIf (serve (performReq { s with overflow := rest } q) q.loc) home
    else if entriesUsed s home < homeEntries then { s with overflow := rest, waiters := s.waiters ++ [{ q with listed := true }] }
    else s

/-! ## The pc moves on (R173, R275) -/

/-- The repetition and the pc after an instruction of len bytes has issued. -/
def advanced (r : Strand) (len : Nat) : Strand :=
  let r := { r with clauseOk := false, walkFault := none, walked := [] }
  if !bit r.str.rep 63 then { r with pc := r.pc + word len }
  else
    let idx := fld r.str.rep 59 56
    let pass := fld r.str.rep 51 40
    if idx < fld r.str.rep 55 52 then { r with pc := r.pc + word len, str := { r.str with rep := setFld r.str.rep 59 56 (idx + 1) } }
    else if pass < fld r.str.rep 39 28 then
      { r with pc := r.str.reppc, str := { r.str with rep := setFld (setFld r.str.rep 59 56 0) 51 40 (pass + 1) } }
    else { r with pc := r.pc + word len, str := { r.str with rep := setFld r.str.rep 63 63 0 }, repBuf := [] }

/-- A strand is READY again; it gets one base turn at the end of its core's list, where that is not empty: an empty one is built anew at the
start of the next cycle (R167). -/
def makeReady (s : State) (a : Agent) : State :=
  let s := modStrand s a fun r => { r with run := .ready, boost := false }
  modCore s (coreKey a) fun c => { c with turns := if c.turns = [] then [] else c.turns ++ [a.ctx] }

/-- The park of a kind ends: a strand parked so is READY; a halted one is no longer parked when it resumes. -/
def wakeIf (s : State) (a : Agent) (p : Park → Bool) : State :=
  match (strandOf s a).run with
  | .parked q => if p q then makeReady s a else s
  | .halted (some q) => if p q then modStrand s a fun r => { r with run := .halted none } else s
  | _ => s

/-! ## Tile semaphores (R152, R153) -/

/-- The value word of a semaphore (R152). -/
def semOf (s : State) (t i : Nat) : Word := mget 0 (tileOf s t).sems i

/-- COUNT. -/
def semCount (s : State) (t i : Nat) : Nat := fld (semOf s t i) 15 0

/-- Releases the waiters on a semaphore whose threshold the count meets: a SEMW gets its value word and is done, a wait clause lets
its instruction issue (R153). -/
def semRelease (s : State) (t i : Nat) : State :=
  s.strands.foldl (fun s (k, r) =>
    match r.run with
    | .parked (.sem t' i' thr w) =>
      if t' = t ∧ i' = i ∧ thr ≤ semCount s t i then
        let a := agentOfKey k
        match w with
        | some dst =>
          let s := modStrand s a fun r => advanced (match dst with | some n => r.setReg n (semOf s t i) | none => r) 4
          makeReady s a
        | none => makeReady (modStrand s a fun r => { r with clauseOk := true }) a
      else s
    | _ => s) s

/-- Stores a semaphore's value word and releases its waiters. -/
def semPut (s : State) (t i : Nat) (w : Word) : State :=
  semRelease (modTile s t fun x => { x with sems := mput 0 x.sems i w }) t i

/-- A Signal of increment k (R152). -/
def semSignal (s : State) (t i k : Nat) : State :=
  let c := semCount s t i
  let sat := fld (semOf s t i) 16 16
  if c + k > 65535 then semPut s t i (word (65535 + 65536)) else semPut s t i (word (c + k + sat * 65536))

/-- The tile whose semaphores an agent uses: its own, or for a device-level hart the tile MTILE of its operation (R153); 18 for none. -/
def semTileOf (s : State) (a : Agent) : Nat :=
  match tileOfAgent a, a.kind with
  | some t, _ => t
  | none, .engine =>
    match (engineOf s a.unit).op with
    | some k => (nthSet 18 (fld s.caps.tilemask 17 0) ((nthSet 16 (fld (mget 0 s.tdu.parts k.partition) 15 0) (fld (k.block.headD 0) 23 16)).getD 0)).getD 18
    | none => 18
  | none, _ => 18

/-- Whether a mesh request of an agent waits: in its core's queue, or accepted under RECAL (R248, R377). -/
def meshWaits (s : State) (a : Agent) : Bool :=
  ((coreOf s (coreKey a)).meshQueue.any fun q => q.by_ == a) || s.tiles.any fun t => t.2.mesh.accepted.any fun q => q.1.by_ == a

/-- Whether a Signal of an agent's clauses has still to be sent: by a mesh request in progress, by a vector instruction, by an arrival. -/
def signalPending (s : State) (a : Agent) : Bool :=
  let of (q : MeshReq) : Bool := q.by_ == a && q.sig.isSome
  (s.tiles.any fun t => (t.2.mesh.running.any fun r => of r.req) || t.2.mesh.load.any (fun q => of q.1) || t.2.mesh.swap.any of || t.2.mesh.accepted.any (fun q => of q.1))
    || ((coreOf s (coreKey a)).dispatch.any fun v => v.by_ == a && v.gs.any fun d => d.1 == 193)
    || s.sched.any fun e => match e.2 with | .resultArrival b ds _ _ => b == a && ds.any fun d => d.1 == 193 | _ => false

/-- A signal clause, sent when its instruction's own effect has completed (R152, R153, R279). -/
def sendSignal (s : State) (a : Agent) (sig : Option (BitVec 8 × BitVec 4)) : State :=
  match sig with
  | some (j, k) => if semTileOf s a < 18 then semSignal s (semTileOf s a) j.toNat k.toNat else s
  | none => s

end Sys2Proof.Machine
end

