-- ==== Sys2Proof/Machine/Token.lean ====
section
/-! DEFINITION. Regions and tokens: status codes, valid receivers, transfers, shares, splits, runtime commands, settlement
(spec/03 R78 to R108). -/

namespace Sys2Proof.Machine

/-! ## Parties (R80 to R82) -/

/-- The kind of a party. -/
def partyKind (p : Party) : Nat := bitsOf p.toNat 31 28

/-- The number of a party within its kind. -/
def partyNum (p : Party) : Nat := bitsOf p.toNat 27 0

/-- Whether a party reads memory below the cache (R97, R98): stack strand, host, peer. -/
def belowCache (p : Party) : Bool := decide (partyKind p = 4) || decide (partyKind p = 5) || decide (partyKind p = 6)

/-- The party of a strand or stack strand by its id (R80). -/
def strandParty (stack : Bool) (id : Nat) : Party := BitVec.ofNat 32 ((if stack then 4 else 1) * 2 ^ 28 + id % 2 ^ 28)

/-- Every strand record, resident or in shadow storage. -/
def allStrands (s : State) : List (Nat × Strand) := s.strands ++ s.tdu.shadows.flatMap fun p => p.2.strands

/-- Whether a strand or stack strand of an ASID is live (R82). -/
def isLive (s : State) (asid : Nat) (p : Party) : Bool :=
  (allStrands s).any fun (_, r) => decide (r.run ≠ .free) && r.party == p && decide (r.str.asid.toNat = asid)

/-- Whether an enabled host window carries an ASID (R81, R82). -/
def hostHasWindow (s : State) (asid : Nat) : Bool :=
  !s.host.lost && s.host.liveCfg.any fun (_, w) => bit w 63 && decide (fld w 43 32 = asid)

/-- Whether a party id is valid as a receiver in an ASID (R82). -/
def validReceiver (s : State) (asid : Nat) (p : Party) : Bool :=
  match partyKind p with
  | 1 | 4 => isLive s asid p
  | 2 => (mfind s.tdu.groups (groupKey asid (partyNum p))).isSome
  | 3 => (List.range 146).any fun e => engineParty e == p && engineListed s e
  | 5 => decide (partyNum p = 0) && hostHasWindow s asid
  | 6 => decide (bitsOf p.toNat 15 0 = 0) && decide (partyNum p / 2 ^ 16 ≠ s.fabric.chipid.toNat) && (routeOf s (partyNum p / 2 ^ 16)).isSome
  | 7 => decide (partyNum p = 0)
  | _ => false

/-- The parties that may hold or share a region of quad q's scratchpad (R102). -/
def scratchParty (s : State) (asid q : Nat) (p : Party) : Bool :=
  let onQuad (a : Agent) : Bool := decide (a.kind = .compute) && decide (a.unit / 4 = q)
  match partyKind p with
  | 1 => (allStrands s).any fun (k, r) => r.party == p && decide (r.str.asid.toNat = asid) && onQuad (agentOfKey k)
  | 2 => match mfind s.tdu.groups (groupKey asid (partyNum p)) with
    | some g => g.members.all fun m => (allStrands s).any fun (k, r) => r.party == m.party && decide (r.str.asid.toNat = asid) && onQuad (agentOfKey k)
    | none => false
  | 3 => p == engineParty (q / 2 * 5 + q % 2 * 2) || p == engineParty (q / 2 * 5 + q % 2 * 2 + 1) || p == engineParty (q / 2 * 5 + 4)
  | 7 => true
  | _ => false

/-- The quad whose scratchpad table holds a key. -/
def keyQuad (key : Nat) : Option Nat := if key < 65536 then none else some ((key - 65536) / 32)

/-- Whether a receiver may be named for a region: R82, and R102 for a scratchpad region; not its HOLDER. -/
def receiverOk (s : State) (key : Nat) (e : Entry) (p : Party) : Bool :=
  validReceiver s e.asid p && p != e.holder && match keyQuad key with
    | some q => scratchParty s e.asid q p
    | none => true

/-- Whether a party is a peer that has been declared lost. -/
def isLostPeer (s : State) (p : Party) : Bool := decide (partyKind p = 6) && s.fabric.lostPeers.contains (partyNum p / 2 ^ 16)

/-! ## Entries -/

/-- The entry of a key. -/
def entryOf (s : State) (key : Nat) : Entry := mget {} s.entries key

/-- The state with an entry. -/
def putEntry (s : State) (key : Nat) (e : Entry) : State := { s with entries := mset s.entries key e }

/-- Whether a line lies in a region, by its ASID and its address. -/
def Entry.covers (e : Entry) (x : Line) : Bool := decide (x.asid = e.asid) && decide (e.base ≤ x.va / 256) && decide (x.va / 256 < e.base + e.len)

/-- The lines of a region: those recorded under its entry, and those that a SPLIT or MERGE left recorded under another (R58, R89, R96). -/
def linesOf (s : State) (key : Nat) (x : Line) : Bool := decide (x.entry = key) || (entryOf s key).covers x

/-- An entry sweep (R89): every L1 line of the region, or recorded under the entry, is written back and invalidated. -/
def entrySweep (s : State) (key : Nat) : State := sweepLines s (linesOf s key)

/-- GEN rises by 1; before it wraps, an entry sweep runs (R88, R89). -/
def bumpGen (s : State) (key : Nat) : State :=
  let e := entryOf s key
  let s := if e.gen = 0xFFFF then entrySweep s key else s
  putEntry s key { e with gen := e.gen + 1 }

/-- A free key from k on, among the next n (log entry 8). -/
def freeKey (s : State) : Nat → Nat → Option Nat
  | 0, _ => none
  | n + 1, k => if (entryOf s k).state = 0 then some k else freeKey s n (k + 1)

/-- A free entry of the table that holds a key. -/
def allocEntry (s : State) (key : Nat) : Option Nat :=
  match keyQuad key with
  | none => freeKey s 65536 0
  | some q => freeKey s 32 (65536 + q * 32)

/-- The entry is freed (R104): sweep, GEN + 1, every other field zero; no holder cache keeps it. -/
def freeEntry (s : State) (key : Nat) : State :=
  let s := bumpGen (dropHolder (entrySweep s key) key) key
  putEntry s key { gen := (entryOf s key).gen }

/-- A free share record among n from j on. -/
def freeShare (s : State) : Nat → Nat → Option Nat
  | 0, _ => none
  | n + 1, j => if (mget {} s.shares j).count = 0 then some j else freeShare s n (j + 1)

/-- A free share record of the table of a key. -/
def allocShare (s : State) (key : Nat) : Option Nat :=
  match keyQuad key with
  | none => freeShare s 131072 0
  | some q => freeShare s 64 (131072 + q * 64)

/-- Every share record of an entry is freed. -/
def dropShares (s : State) (key : Nat) : State :=
  putEntry { s with shares := s.shares.filter fun r => r.2.entry ≠ key } key { entryOf s key with shares := 0 }

/-- n shares of a record return (R95): at SHARES 0 the region is EXCL again, or LOST where R106 says so. -/
def returnShares (s : State) (key j n : Nat) : State :=
  let r := mget {} s.shares j
  let s := { s with shares := if r.count ≤ n then mdel s.shares j else mset s.shares j { r with count := r.count - n } }
  let e := entryOf s key
  let left := e.shares - n
  putEntry s key { e with shares := left, state := if left = 0 ∧ e.state = 2 then (if e.thenLost then 6 else 1) else e.state }

/-! ## Flushes of a region (R71, R98, R350) -/

/-- Flushes the pages of a VA range; a page whose translation faults is skipped. -/
def flushPages (asid : Nat) : Nat → State → Nat → Nat → State
  | 0, s, _, _ => s
  | f + 1, s, va, n =>
    if n = 0 then s
    else
      let k := min n (2 ^ 16 - va % 2 ^ 16)
      let s := match walk s asid va with
        | .ok (leaf, size, _) => flushRange s (leafPa leaf size va) (leafPa leaf size va + k)
        | .error _ => s
      flushPages asid f s (va + k) (n - k)

/-- The LLC flush of a region of the translated range. -/
def flushRegion (s : State) (key : Nat) (e : Entry) : State :=
  if key < 65536 then flushPages e.asid (e.len * 256 / 2 ^ 16 + 2) s (e.base * 256) (e.len * 256) else s

/-- Every word of a new SYNC region becomes empty, a change that monitors see; values stay (R136, R148). DESIGN CHOICE (log entry 73): a
page that does not translate has no word to empty and is skipped. -/
def emptyWords (q : Option Nat) (asid : Nat) : Nat → State → Nat → State
  | 0, s, _ => s
  | n + 1, s, va =>
    let s := match q with
      | some q => hitLine (setFull s (scratchLoc q (va - winBase)) false) (scratchLoc q (va - winBase))
      | none => match walk s asid va with
        | .ok (leaf, size, _) => hitLine (setFull s (leafPa leaf size va) false) (leafPa leaf size va)
        | .error _ => s
    emptyWords q asid n s (va + 8)

/-! ## Transfers (R98) -/

/-- The typical cycles of a transfer (R101). -/
def transferTime (s : State) (key : Nat) (giver receiver : Party) : Nat :=
  Config.lat.tokenOp + sweepTime s (linesOf s key)
    + (if !belowCache giver && belowCache receiver then Config.lat.flush else 0)

/-- A transfer begins: TRANSIT, the entry leaves the holder caches, the sweep of the giver's lines, the flush for a receiver below the cache;
its completion follows. -/
def beginTransfer (s : State) (key : Nat) (t : Transfer) : State :=
  let e := entryOf s key
  let d := transferTime s key e.holder t.holder
  let s := dropHolder (putEntry s key { e with transit := true }) key
  let s := if partyKind e.holder = 1 ∨ partyKind e.holder = 7 then entrySweep s key else s
  let s := if !belowCache e.holder && belowCache t.holder then flushRegion s key e else s
  post { s with transfers := mset s.transfers key t } d (.transferComplete key)

/-- The token status word (R348). -/
def tokenWord (key : Option Nat) (status : Nat) : Word := word ((key.map entryIndex).getD 0 * 2 ^ 32 + status)

/-- The state of a region by its new holder (R94). -/
def stateFor (p : Party) : Nat := if partyKind p = 2 then 4 else 1

/-! ## Token operations: the status, with the effect where it is 0 (R93 to R96) -/

/-- The lowest code whose condition holds. -/
def lowestCode (cs : List (Nat × Bool)) : Nat := ((cs.filter fun c => c.2).map (·.1)).foldl (fun m c => if m = 0 ∨ c < m then c else m) 0

/-- Whether an actor may issue holder operations on an entry: it matches HOLDER and is no host or peer (R94). -/
def mayOperate (s : State) (x : Actor) (e : Entry) : Bool := matchesParty s x e.holder && decide (x.path ≠ .host) && decide (x.path ≠ .peer)

/-- States in which a region cannot be transferred or cut (R94). -/
def fixedState (e : Entry) : Bool := decide (e.state = 3) || decide (e.state = 5) || decide (e.state = 6)

/-- LEND (R94, R350): the status, and the transfer where it is OK. -/
def lendStatus (s : State) (x : Actor) (r : Option (Nat × Entry)) (b : Word) (give : Bool) : Nat × Option Transfer :=
  match r with
  | none => (1, none)
  | some (key, e) =>
    let p : Party := b.setWidth 32
    let c := lowestCode [(2, !mayOperate s x e), (3, fixedState e), (4, decide (e.state = 2)),
      (6, decide (fld b 63 32 ≠ 0) || !receiverOk s key e p || (give && (decide (partyKind p = 5) || decide (partyKind p = 6)))
        || (decide (e.state = 4) && belowCache p)),
      (12, isLostPeer s p || isLostPeer s e.holder)]
    if c ≠ 0 then (c, none)
    else (0, some ⟨p, if give then 0 else if e.lender = 0 then e.holder else e.lender, stateFor p, x.agent, none, none, none, none, (x.asid, x.party), none⟩)

/-- TRET (R94). -/
def tretStatus (s : State) (x : Actor) (r : Option (Nat × Entry)) : Nat × Option Transfer :=
  match r with
  | none => (1, none)
  | some (_, e) =>
    let c := lowestCode [(2, !matchesParty s x e.holder), (3, fixedState e), (4, decide (e.state = 2)), (5, decide (e.lender = 0)),
      (12, isLostPeer s e.lender || isLostPeer s e.holder)]
    if c ≠ 0 then (c, none) else (0, some ⟨e.lender, 0, stateFor e.lender, x.agent, none, none, none, none, (x.asid, x.party), none⟩)

/-- Whether a line is one of a region's holder: a strand of its core that used it matches HOLDER. -/
def holderLine (s : State) (e : Entry) (l : Line) : Bool :=
  (positions 64 fun c => l.users.getLsbD c).any fun c => matchesParty s (actorOf s ⟨.compute, l.core, c⟩) e.holder

/-- The holder's lines stay valid when a SHARE raises GEN (R95): those of the generation `e.gen` are recorded under the new one. A line that a
sharer filled misses at its next lookup (R56, R88). -/
def keepLines (s : State) (key : Nat) (e : Entry) : State :=
  { s with l1 := s.l1.map fun l => if l.entry = key ∧ l.gen = e.gen.toNat ∧ holderLine s e l then { l with gen := (entryOf s key).gen.toNat } else l }

/-- SHARE (R94, R95, R351): of a region in EXCL that no group holds, or SHARED; n = 0 meets the checks of R82 and R94 alone. -/
def shareOp (s : State) (x : Actor) (r : Option (Nat × Entry)) (b : Word) : Nat × State :=
  match r with
  | none => (1, s)
  | some (key, e) =>
    let p : Party := b.setWidth 32
    let n := fld b 39 32
    let old := s.shares.find? fun (_, y) => y.entry = key ∧ y.party = p
    let slot := match old with | some (j, _) => some j | none => allocShare s key
    let have' := (old.map (·.2.count)).getD 0
    let c := lowestCode [(2, !mayOperate s x e), (3, decide (e.state = 4) || (decide (e.state = 1) && decide (partyKind e.holder = 2)) || fixedState e),
      (6, decide (fld b 63 40 ≠ 0) || !receiverOk s key e p),
      (10, decide (n ≠ 0) && (slot.isNone || decide (65535 < have' + n) || decide (65535 < e.shares + n))),
      (12, isLostPeer s p || isLostPeer s e.holder)]
    if c ≠ 0 then (c, s)
    else if n = 0 then (0, s)
    else
      let s := { s with shares := mset s.shares (slot.getD 0) ⟨key, have' + n, p⟩ }
      let s := putEntry s key { e with shares := e.shares + n, state := 2 }
      let s := cleanLines s (linesOf s key)
      let s := if belowCache p then flushRegion s key e else s
      (0, if e.state = 1 then keepLines (bumpGen s key) key e else s)

/-- UNSHR (R95, R351). DESIGN CHOICE (log entry 76): of several share records that the issuer matches, as itself, a group or the runtime, the one of
the lowest number gives the shares back. -/
def unshrOp (s : State) (x : Actor) (r : Option (Nat × Entry)) (n : Nat) : Nat × State :=
  match r with
  | none => (1, s)
  | some (key, e) =>
    let rec' := s.shares.find? fun (_, y) => y.entry = key ∧ y.count ≠ 0 ∧ matchesParty s x y.party
    let have' := (rec'.map (·.2.count)).getD 0
    let c := lowestCode [(2, rec'.isNone), (3, decide (e.state ≠ 2) && decide (e.state ≠ 5) && decide (e.state ≠ 6)),
      (11, decide (have' < n)), (12, isLostPeer s e.holder)]
    if c ≠ 0 then (c, s) else if n = 0 then (0, s) else (0, returnShares s key ((rec'.map (·.1)).getD 0) n)

/-- SPLIT (R94, R96, R352), of a region in EXCL or GROUP: answers the status, the upper entry's key and the state. -/
def splitOp (s : State) (x : Actor) (r : Option (Nat × Entry)) (cut : Word) : Nat × Nat × State :=
  match r with
  | none => (1, 0, s)
  | some (key, e) =>
    let c256 := cut.toNat / 256
    let slot := allocEntry s key
    let c := lowestCode [(2, !mayOperate s x e), (3, fixedState e || decide (e.state = 2)),
      (7, decide (cut.toNat % 256 ≠ 0) || decide (c256 ≤ e.base) || decide (e.base + e.len ≤ c256)), (9, slot.isNone),
      (12, isLostPeer s e.holder)]
    if c ≠ 0 then (c, key, s)
    else
      let up := slot.getD 0
      let s := putEntry s up { e with base := c256, len := e.base + e.len - c256, gen := (entryOf s up).gen }
      let s := putEntry s key { e with len := c256 - e.base }
      (0, up, bumpGen (bumpGen s key) up)

/-- Whether a range breaks R78: its length, or its place across the first address of the windows. -/
def badRange (base len : Nat) : Bool := decide (2 ^ 40 ≤ len) || (decide (base < winBase / 256) && decide (winBase / 256 < base + len))

/-- MERGE (R96, R352). DESIGN CHOICE (log entry 68): the sweep that R89 sets before the upper entry is freed writes its lines back here,
although R96 says that MERGE writes nothing back. -/
def mergeOp (s : State) (x : Actor) (r r2 : Option (Nat × Entry)) : Nat × State :=
  match r, r2 with
  | some (k1, e1), some (k2, e2) =>
    let c := lowestCode [(2, !mayOperate s x e1 || !mayOperate s x e2), (3, fixedState e1 || fixedState e2),
      (4, decide (e1.shares ≠ 0) || decide (e2.shares ≠ 0) || decide (e1.state = 2) || decide (e2.state = 2)),
      (8, decide (k1 = k2) || decide (e1.base + e1.len ≠ e2.base) || decide (e1.holder ≠ e2.holder) || decide (e1.lender ≠ e2.lender)
        || decide (e1.state ≠ e2.state)),
      (12, isLostPeer s e1.holder || isLostPeer s e2.holder), (14, badRange e1.base (e1.len + e2.len))]
    if c ≠ 0 then (c, s)
    else
      let s := putEntry s k1 { e1 with len := e1.len + e2.len }
      (0, freeEntry (bumpGen s k1) k2)
  | _, _ => (1, s)

/-- The query word (R97) for an actor. -/
def queryWord (s : State) (x : Actor) (r : Option (Nat × Entry)) : Word :=
  match r with
  | none => 0
  | some (key, e) =>
    let role := if matchesParty s x e.holder then (if partyKind e.holder = 2 then 3 else 1) else if hasShare s x key then 2 else 0
    word (e.state * 2 ^ 60 + role * 2 ^ 58 + (if e.lender = 0 then 0 else 2 ^ 57) + (if key < 65536 then 0 else 2 ^ 56)
      + e.gen.toNat * 2 ^ 32 + e.shares * 2 ^ 16 + entryIndex key)

/-! ## Settlement (R105, R106) -/

/-- What a transfer in progress becomes when a party goes (R105, R106, R354): from a giver that fails or is lost it completes with POISONED;
one that would return to the party returns to the runtime; one to the party is settled for it when it completes. -/
def transferGone (fate : Fate) (p holder : Party) (t : Transfer) : Transfer :=
  { t with
    state := if holder = p ∧ (fate = .failed ∨ fate = .lost) then 5 else t.state
    lender := if t.lender = p then runtimeParty else t.lender
    gone := if t.holder = p then some fate else t.gone }

/-- The state in which a region stays when its holder goes (R105, R106). -/
def stateAfter (fate : Fate) (e : Entry) : Nat :=
  match fate with
  | .ends => if e.state = 4 then 1 else e.state
  | .killed | .failed => if e.state = 1 ∨ e.state = 4 then 5 else e.state
  | .lost => if e.state = 1 ∨ e.state = 4 ∨ (e.state = 2 ∧ e.shares = 0) then 6 else e.state

/-- Settles one entry for a party that goes; the holder of a region in transit is settled with its transfer. -/
def settleEntry (fate : Fate) (p : Party) (s : State) (key : Nat) : State :=
  let e := entryOf s key
  let s :=
    if e.transit then
      match mfind s.transfers key with
      | some t => { s with transfers := mset s.transfers key (transferGone fate p e.holder t) }
      | none => s
    else if e.holder = p then
      let s := dropHolder (if e.state = 1 ∨ e.state = 4 then entrySweep s key else s) key
      bumpGen (putEntry s key { e with holder := runtimeParty, state := stateAfter fate e, thenLost := fate = .lost ∧ e.state = 2 }) key
    else s
  let e := entryOf s key
  let s := if e.lender = p then putEntry s key { e with lender := runtimeParty } else s
  match s.shares.find? fun (_, r) => r.entry = key ∧ r.party = p ∧ r.count ≠ 0 with
  | some (j, r) => returnShares s key j r.count
  | none => s

/-- Settles every entry of an ASID (of every ASID for a peer or the host) for a party. -/
def settle (s : State) (asid : Option Nat) (p : Party) (fate : Fate) : State :=
  if p = 0 then s
  else (s.entries.filter fun (_, e) => decide (e.state ≠ 0) && (asid.isNone || asid == some e.asid)).foldl (fun s e => settleEntry fate p s e.1) s

/-- A transfer completes (R98): the entry is written and TRANSIT clears; a receiver that has gone meanwhile is settled by how it went
(R105, R106). -/
def applyTransfer (s : State) (key : Nat) (t : Transfer) : State :=
  let e := entryOf s key
  let s := putEntry s key { e with holder := t.holder, lender := t.lender, state := t.state, transit := false, thenLost := false }
  let s := bumpGen { s with transfers := mdel s.transfers key } key
  match t.gone with
  | some f => settleEntry f t.holder s key
  | none => s

/-! ## Runtime commands (R103, R104) -/

/-- CREATE: status, entry and state. -/
def createOp (s : State) (a : Agent) (base len : Nat) (w : Word) : Nat × Option Nat × State :=
  let p : Party := BitVec.ofNat 32 (fld w 63 32)
  let asid := fld w 31 20
  let st := fld w 19 16
  let lo := base * 256
  let hi := (base + len) * 256
  let tbl := tableOf (some a) lo
  let q := tbl.join
  let inRange := decide (hi ≤ winBase) || (decide (winBase ≤ lo) && decide (hi ≤ winBase + 2 ^ 23) && q.isSome)
  let overlap := s.entries.any fun (k, e) => inTable q k && decide (e.state ≠ 0) && decide (e.asid = asid) && decide (e.base < base + len)
    && decide (base < e.base + e.len)
  let slot := match q with
    | none => freeKey s 65536 0
    | some q => freeKey s 32 (65536 + q * 32)
  let okParty := validReceiver s asid p && (decide (st ≠ 4) || decide (partyKind p = 2)) && match q with
    | some q => scratchParty s asid q p
    | none => true
  let c := lowestCode [(3, decide (st ≠ 1) && decide (st ≠ 3) && decide (st ≠ 4)), (6, !okParty), (9, slot.isNone), (12, isLostPeer s p), (13, overlap),
    (14, decide (len = 0) || !inRange)]
  if c ≠ 0 then (c, none, s)
  else
    let key := slot.getD 0
    let e : Entry := { asid := asid, base := base, len := len, holder := p, gen := (entryOf s key).gen, state := st }
    let s := if belowCache p then flushRegion s key e else s
    let s := if st = 3 then emptyWords q asid (len * 32) s lo else s
    (0, some key, putEntry s key e)

/-- Requests on words of a destroyed SYNC region are dropped: the destination is full again with its old value, and the strand takes
UNOWNED at its next issue (R144). DESIGN CHOICE (log entry 69): of several requests of one strand dropped before that issue the last one
gives the one trap; an engine whose data Fill is dropped ends its operation as for UNOWNED. -/
def dropRequests (s : State) (key : Nat) (e : Entry) : State :=
  let hit (q : SyncReq) : Bool := decide (q.asid = e.asid) && decide (e.base ≤ q.va.toNat / 256) && decide (q.va.toNat / 256 < e.base + e.len)
    && (match keyQuad key with | some k => decide (q.home = 1000 + k) | none => decide (q.home < 1000))
  let s' := ((s.waiters ++ s.overflow).filter hit).foldl (fun s q =>
    match q.who with
    | .agent a =>
      let kind := if q.kind = .peek then 0 else 3
      modStrand s a fun r => { (match q.dst with | some n => r.setReg n q.old | none => r) with dropped := some (word (kind * 2 ^ 56 + q.va.toNat % 2 ^ 56)) }
    | .engineData e => post s 1 (.endOp e 4 (q.va.toNat % 2 ^ 56))
    | _ => s) s
  withdraw s' hit

/-- DESTROY. -/
def destroyOp (s : State) (r : Option (Nat × Entry)) : Nat × Option Nat × State :=
  match r with
  | none => (1, none, s)
  | some (key, e) =>
    let c := lowestCode [(2, decide (e.holder ≠ runtimeParty) && decide (e.state ≠ 3)), (3, decide (e.lender ≠ 0)), (4, decide (e.shares ≠ 0))]
    if c ≠ 0 then (c, some key, s)
    else
      let s := if e.state = 3 then
          let s := dropRequests s key e
          { s with tdu := { s.tdu with bindings := s.tdu.bindings.filter fun (l, b) =>
              !(decide (b.asid = e.asid) && decide (e.base ≤ b.va.toNat / 256) && decide (b.va.toNat / 256 < e.base + e.len)
                && (match keyQuad key with | some k => decide (homeOf s l = 1000 + k) | none => decide (l < 2 ^ 52))) } }
        else s
      (0, some key, freeEntry s key)

/-- RECLAIM. -/
def reclaimOp (s : State) (r : Option (Nat × Entry)) : Nat × Option Nat × State :=
  match r with
  | none => (1, none, s)
  | some (key, e) =>
    if e.state ≠ 5 ∧ e.state ≠ 6 then (3, some key, s)
    else
      let s := flushRegion (dropShares (entrySweep s key) key) key e
      let s := putEntry s key { entryOf s key with holder := runtimeParty, lender := 0, state := 1, thenLost := false }
      (0, some key, bumpGen s key)

/-- SEIZE: the status, and the transfer to the runtime. -/
def seizeStatus (r : Option (Nat × Entry)) (a : Agent) : Nat × Option Transfer :=
  match r with
  | none => (1, none)
  | some (_, e) =>
    if e.state ≠ 1 ∧ e.state ≠ 2 ∧ e.state ≠ 4 then (3, none) else (0, some ⟨runtimeParty, 0, 1, some a, none, none, some a, none, (0, 0), none⟩)

end Sys2Proof.Machine
end

