-- ==== Sys2Proof/Machine/Life.lean ====
section
/-! DEFINITION. Fault records (R422 to R424), groups and barriers (R154 to R156), the end of a strand and the contained kill
(R160, R427). -/

namespace Sys2Proof.Machine

/-! ## Fault records -/

/-- Capacity of the ring in records (R422). -/
def flogCapacity (s : State) : Nat := 64 * 2 ^ min 10 (fld s.faults.flogbase 3 0)

/-- The notification word's location: translated in ASID 0, in a SYNC region of ASID 0 (R422). -/
def noteWord (s : State) : Option (Nat × Nat × Bool) :=
  let va := fld s.faults.note 55 3 * 8
  if va = 0 then none
  else match regionAt s 0 none va, walk s 0 va with
    | some (_, e), .ok (leaf, size, _) => if e.state = 3 ∧ bit leaf 2 then some (leafPa leaf size va, va, bit leaf 6) else none
    | _, _ => none

/-- After a record: if the notification word is empty, it is filled with HEAD; a BUSY answer is retried every 16 cycles. A Fill that waits already
would be followed by one that finds the word full, so none is added (log entry 74). -/
def notifyLog (s : State) : State :=
  match noteWord s with
  | none => s
  | some (l, va, na) =>
    if isFull s l || (s.waiters ++ s.overflow).any (fun q => q.who == .note && q.loc == l) then s
    else
      match arrive s (requestAt s .note .fill l na (word va) 0 (word s.faults.head)) with
      | (.busy, s) => post s 16 .notificationFillRetry
      | (_, s) => s

/-- Writes one record into the ring, with SEQ (R422, R423); HEAD and TAIL count modulo 2^32. -/
def writeRecord (s : State) (ws : List Word) : State :=
  if (s.faults.head + 2 ^ 32 - s.faults.tail) % 2 ^ 32 = flogCapacity s then
    { s with faults := { s.faults with lost := min (2 ^ 32 - 1) (s.faults.lost + 1) } }
  else
    let at_ := fld s.faults.flogbase 51 12 * 4096 + s.faults.head % flogCapacity s * 64
    let ws := match ws with
      | w :: r => setFld w 31 0 s.faults.head :: r
      | [] => []
    -- in a SYNC region the store fills the words, which serves the requests that wait for that (R138)
    let s := (List.range 8).foldl (fun s i => serve s (at_ + 8 * i)) (homeStore s at_ (ws.flatMap wordBytes))
    notifyLog { s with faults := { s.faults with head := (s.faults.head + 1) % 2 ^ 32, wrapped := s.faults.wrapped || decide (s.faults.head + 1 = 2 ^ 32) } }

/-- A record is produced: it is written, or waits in the 256-entry queue while no ring exists or no management core runs. -/
def record (s : State) (kind sev asid : Nat) (party : Party) (unit : Nat) (addr d0 d1 d2 pc : Word) : State :=
  let ws := [word (kind * 2 ^ 56 + sev * 2 ^ 54 + asid % 4096 * 2 ^ 32), word (party.toNat * 2 ^ 32 + unit), word s.cycle, addr, d0, d1, pc, d2]
  if fld s.faults.flogbase 51 12 = 0 ∨ !s.faults.mgmtRunning then
    if s.faults.queue.length < 256 then { s with faults := { s.faults with queue := s.faults.queue ++ [ws] } }
    else if s.faults.mgmtRunning then { s with faults := { s.faults with lost := min (2 ^ 32 - 1) (s.faults.lost + 1) } }
    else { s with faults := { s.faults with failoverLost := s.faults.failoverLost + 1 } }
  else writeRecord s ws

/-- The queued records are written, oldest first. -/
def drainRecords (s : State) : State :=
  if fld s.faults.flogbase 51 12 = 0 ∨ !s.faults.mgmtRunning then s
  else s.faults.queue.foldl writeRecord { s with faults := { s.faults with queue := [] } }

/-- The unit of a record (R423). -/
def unitWord (a : Agent) : Nat :=
  match a.kind with
  | .compute => 1 * 2 ^ 24 + a.unit / 8 * 2 ^ 16 + a.unit % 8 * 2 ^ 8 + a.ctx
  | .stack => 2 * 2 ^ 24 + a.unit / 16 * 2 ^ 16 + a.unit % 16 * 2 ^ 8 + a.ctx
  | .engine => 3 * 2 ^ 24 + (if a.unit < 90 then a.unit / 5 * 2 ^ 16 + a.unit % 5 * 2 ^ 8 else if a.unit < 98 then (a.unit - 90) * 2 ^ 8 else (a.unit - 98) * 2 ^ 8)
  | .mgmt => 9 * 2 ^ 24 + a.ctx

/-! ## Groups (R154 to R156) -/

/-- The group of a key. -/
def groupOf (s : State) (k : Nat) : Option Group := mfind s.tdu.groups k

/-- The state with a group. -/
def putGroup (s : State) (k : Nat) (g : Group) : State := { s with tdu := { s.tdu with groups := mset s.tdu.groups k g } }

/-- The result word of R347. -/
def groupWord (phase status : Nat) : Word := word (phase * 2 ^ 8 + status)

/-- Changes the record of a strand named by ASID and party, resident or in shadow storage. -/
def modParty (s : State) (asid : Nat) (p : Party) (f : Strand → Strand) : State :=
  let hit (r : Strand) : Bool := r.party == p && decide (r.str.asid.toNat = asid) && decide (r.run ≠ .free)
  let on (m : List (Nat × Strand)) : List (Nat × Strand) := m.map fun (k, r) => (k, if hit r then f r else r)
  { s with strands := on s.strands, tdu := { s.tdu with shadows := s.tdu.shadows.map fun (k, x) => (k, { x with strands := on x.strands }) } }

/-- A context that a strand named by ASID and party occupies. -/
def contextOf (s : State) (asid : Nat) (p : Party) : Option Agent :=
  (s.strands.find? fun (_, r) => r.party == p && decide (r.str.asid.toNat = asid) && decide (r.run ≠ .free)).map fun x => agentOfKey x.1

/-- An arrived member of the group of key k returns with its phase's number: its destination fills, its park at that barrier ends. -/
def releaseMember (k phase : Nat) (s : State) (m : Member) : State :=
  let s := modParty s (k / 2 ^ 28) m.party fun r =>
    let r := match m.dst with | some n => r.setReg n (groupWord phase 0) | none => r
    if r.run = .halted (some (.gbar k)) ∧ m.held = false then { r with run := .halted none } else r
  match contextOf s (k / 2 ^ 28) m.party with
  | some a => if (strandOf s a).run = .parked (.gbar k) ∧ m.held = false then makeReady s a else s
  | none => s

/-- Completes the current phase as long as every member it requires has arrived: the arrived members return its number, held
arrivals count in the next phase (R156). -/
def runPhase : Nat → State → Nat → State
  | 0, s, _ => s
  | f + 1, s, k =>
    match groupOf s k with
    | none => s
    | some g =>
      if (g.members.any (·.arrived) || decide (g.gone ≠ 0)) && g.members.all fun m => m.arrived || !m.required then
        let s := (g.members.filter (·.arrived)).foldl (releaseMember k g.phase.toNat) s
        let ms := g.members.map fun m => { m with arrived := m.held, held := false, required := true, dst := m.heldDst, heldDst := none }
        runPhase f (putGroup s k { phase := g.phase + 1, members := ms, gone := 0 }) k
      else s

/-- A member leaves, by LEAVE, its end or its kill; an arrival already made stays counted; the last one dissolves the group, and what
the group held is settled (R155, R156). -/
def leaveGroup (s : State) (k : Nat) (p : Party) : State :=
  match groupOf s k with
  | none => s
  | some g =>
    let gone := g.gone + (if g.members.any fun m => m.party == p && m.arrived then 1 else 0)
    let ms := g.members.filter fun m => m.party ≠ p
    if ms = [] then
      let s := settle s (some (k / 2 ^ 28)) (BitVec.ofNat 32 (2 * 2 ^ 28 + k % 2 ^ 28)) .ends
      { s with tdu := { s.tdu with groups := mdel s.tdu.groups k } }
    else runPhase 3 (putGroup s k { g with members := ms, gone := gone }) k

/-- The groups of an ASID that a party belongs to. -/
def groupsOf (s : State) (asid : Nat) (p : Party) : List Nat :=
  (s.tdu.groups.filter fun (k, g) => decide (k / 2 ^ 28 = asid) && g.members.any fun m => m.party == p).map (·.1)

/-! ## The end of a strand (R160) -/

/-- Whether a scheduled event belongs to an agent's own waits and results; an atomic's Fill is the home's (R145). -/
def eventOf (a : Agent) : Instr → Bool
  | .resultArrival b _ _ _ | .fenceEcho b _ | .mwaitTimeout b _ | .waitTimeout b _ | .strandTimerExpiry b | .asyncTrapEntry b | .longWait b
  | .errorConsumed b _ => b == a
  | _ => false

/-- The report value (R189). -/
def reportValue (outcome id value : Nat) : Word := word (outcome * 2 ^ 60 + id % 2 ^ 28 * 2 ^ 32 + value % 2 ^ 32)

/-- The lease of a core is released; the first parked requester is granted next (R176). -/
def releaseLease (s : State) (core ctx : Nat) (clear : Bool) : State :=
  let c := coreOf s core
  if c.lease ≠ some ctx then modCore s core fun c => { c with leaseQueue := c.leaseQueue.filter (· ≠ ctx) }
  else
    let s := modCore s core fun c => { c with lease := none, lv := if clear then [] else c.lv }
    if c.leaseQueue = [] then s else post s 1 (.leaseGrant core)

/-- Monitors of an agent go: its slots are disarmed and the entries freed (R149). -/
def disarmAll (s : State) (a : Agent) : State :=
  modStrand { s with monitors := s.monitors.filter fun m => m.agent ≠ a } a fun r =>
    { r with str := [0, 1, 2, 3].foldl StrRegs.disarm r.str }

/-- A mesh request of a strand that goes: nobody is left for its result; its signal clause is sent as usual (R406, R427). -/
def MeshReq.disown (a : Agent) (q : MeshReq) : MeshReq := if q.by_ == a then { q with party := 0, dst := none } else q

/-- The mesh of an ending strand's tile: the requests that it has accepted run to their end without the strand (R427). -/
def disownMesh (s : State) (a : Agent) : State :=
  if a.kind ≠ .compute then s
  else modMesh s (a.unit / 8) fun m => { m with
    running := m.running.map fun r => { r with req := r.req.disown a }
    load := m.load.map fun x => (x.1.disown a, x.2)
    swap := m.swap.map fun q => q.disown a
    accepted := m.accepted.map fun x => (x.1.disown a, x.2) }

/-- HALTED (R161). -/
def Run.isHalted : Run → Bool
  | .halted _ => true
  | _ => false

/-- A context's record when its strand has gone: its partition is scrubbed; its STR register storage stays until placement or restore
overwrite it (R160, R413). -/
def Strand.freed (r : Strand) : Strand := { str := r.str }

/-- Whether an operation that a strand has sent to an entry's home still waits there (R92). -/
def tokensSent (s : State) (asid : Nat) (p : Party) : Bool :=
  s.tokenQueue.any fun q => match q.2 with | .strand _ x _ _ _ _ => decide (x.asid = asid) && x.party == p | _ => false

/-- The strand ends (R160): tokens, memberships, monitors and lease go, the report is on its way, the partition is scrubbed, the
context is free. The tokens of a killed strand are settled behind the operations that it has sent (R354). -/
def endStrand (s : State) (a : Agent) (outcome value : Nat) (fate : Fate) : State :=
  let r := strandOf s a
  let asid := r.str.asid.toNat
  let s := if tokensSent s asid r.party then { s with tokenQueue := s.tokenQueue ++ [([], .settle asid r.party fate)] } else settle s (some asid) r.party fate
  let s := (groupsOf s asid r.party).foldl (fun s k => leaveGroup s k r.party) s
  let s := disarmAll s a
  let s := releaseLease s (coreKey a) a.ctx (fate ≠ .ends)
  let s := if r.report = 0 then s else post s 1 (.reportFill asid r.report (reportValue outcome (partyNum r.party) value))
  let s := { s with sched := s.sched.filter fun e => !eventOf a e.2 }
  let s := modCore s (coreKey a) fun c =>
    { c with turns := c.turns.filter (· ≠ a.ctx), yielded := c.yielded.filter (· ≠ a.ctx), takers := c.takers.filter fun t => t.1 ≠ a.ctx
             meshQueue := c.meshQueue.filter fun q => q.by_ ≠ a
             dispatch := c.dispatch.filter fun v => v.by_ ≠ a
             progress := if bit c.progress 63 && decide (fld c.progress 61 56 = a.ctx) then 0 else c.progress }
  let s := disownMesh s a
  let s := match r.pair with
    | some b => modStrand s b Strand.freed
    | none => s
  let s := modStrand s a Strand.freed
  if s.tdu.spawns = [] then s else post s Config.lat.tdu .placement

/-- The strand that a context belongs to: the leading one for a pair's trailing context (R432). -/
def pairLead (s : State) (a : Agent) : Agent :=
  match (strandOf s a).run with
  | .parked .trailing | .halted (some .trailing) => ((s.strands.find? fun x => x.2.pair == some a).map fun x => agentOfKey x.1).getD a
  | _ => a

/-- Every atomic of an agent between its Take and its Fill is completed by the home with the value held before (R146). -/
def restoreAtomics (s : State) (a : Agent) : State :=
  let held := s.reserved.filter fun e => e.2.agent == a
  let s := { s with sched := s.sched.filter fun e => match e.2 with | .atomicFill b _ _ => b ≠ a | _ => true }
  held.foldl (fun s e => finishAtomic s e.1 e.2.old) s

/-- Kill(c) of R427, of the pair where it is one, or with its unit (`fate`): the reserved atomics are completed by the home with the values
held before (the record names the first), waiting requests are dropped, tokens are settled as POISONED, the strand ends with OUTCOME 1, a
KILL record is written with the VA consumed, or 0. -/
def killWith (fate : Fate) (s : State) (a : Agent) (cause : Nat) (at' : Word) : State :=
  let a := pairLead s a
  let r := strandOf s a
  let (at_, va, old) := match s.reserved.find? fun e => e.2.agent == a with
    | some (_, v) => (256, v.va, v.old)
    | none => (0, (0 : Word), (0 : Word))
  let s := restoreAtomics (withdraw s fun q => q.who = .agent a) a
  let s := endStrand s a 1 0 fate
  let s := { s with faults := { s.faults with kills := s.faults.kills + 1 } }
  record s 2 1 r.str.asid.toNat r.party (unitWord a) at' (word (cause + at_)) va old r.pc

/-- The contained kill of a strand. -/
def killStrand (s : State) (a : Agent) (cause : Nat) (at' : Word) : State := killWith .killed s a cause at'

end Sys2Proof.Machine
end

