-- ==== Sys2Proof/Machine/Ops.lean ====
section
/-! DEFINITION. The shared operations of every instruction: the checks at issue (R163, R164, R285), parking, taking an exception and
returning from one (R416 to R421), memory operands (R331, R332), results. -/

namespace Sys2Proof.Machine

/-! ## Traps (R416 to R421) -/

/-- A trap: cause code, FLAGS and INFO of STR.TCAUSE, the address, the words for STR.XLATE and STR.HOLDF, and whether the return PC is
the next instruction (SOFT). -/
structure Trap where
  code : Nat
  flags : Nat := 0
  info : Nat := 0
  va : Word := 0
  xlate : Option Word := none
  holdf : Option Word := none
  next : Bool := false
deriving DecidableEq, Repr

/-- The registers of a strand on trap entry (R175, R419): the record, ACTIVE cleared, privilege S, INTRAP set, the pc at the handler.
`r` is the strand whose pc and repetition the record names. A request dropped by DESTROY keeps its trap for the next issue (R144). -/
def trapEntered (a : Agent) (r : Strand) (t : Trap) (len : Nat) : Strand :=
  let rr := if t.next then advanced r len else r
  let str := { r.str with
    tcause := word (t.code * 2 ^ 56 + t.flags % 64 * 2 ^ 48 + t.info % 2 ^ 48)
    txpc := rr.pc &&& maskOf 55 2
    txva := t.va &&& maskOf 55 0
    txrep := rr.str.rep
    txreppc := rr.str.reppc
    rep := setFld rr.str.rep 63 63 0
    txstat := word (2 ^ 63 + privOf a r * 2 ^ 8)
    sched := if a.kind = .mgmt then r.str.sched else setFld r.str.sched 9 8 1
    xlate := t.xlate.getD r.str.xlate
    holdf := t.holdf.getD r.str.holdf }
  { r with str := str, pc := word (fld r.str.tvec 55 6 * 64), repBuf := [], clauseOk := false, walkFault := none, walked := [] }

/-- Whether a handler is running on the record: no trap can be taken onto it (R419). -/
def inTrap (r : Strand) : Bool := bit r.str.txstat 63

/-- STATUS and DETAIL with which a trap ends an engine's operation (R392, R393). -/
def engineTrap (r : Strand) (t : Trap) : Nat × Nat :=
  if t.code = 5 then (3, t.va.toNat) else if t.code = 6 ∨ t.code = 7 ∨ t.code = 8 then (4, t.va.toNat) else (7, r.pc.toNat % 2 ^ 56)

/-- Takes a trap (R419): onto a handler that runs already it kills the strand (cause 3); with no handler it kills it too (cause 4);
an engine hart's trap ends its operation (R290, R393). -/
def takeTrap (s : State) (a : Agent) (t : Trap) (len : Nat) : State :=
  let r := strandOf s a
  if a.kind = .engine then
    let (st, d) := engineTrap r t
    post (putStrand s a { r with run := .free }) 1 (.endOp a.unit st d)
  else
    if inTrap r then
      killStrand (modStrand s a fun r => { r with str := { r.str with xlate := t.xlate.getD r.str.xlate, holdf := t.holdf.getD r.str.holdf } }) a 3 0
    else if fld r.str.tvec 55 6 = 0 then killStrand (putStrand s a { trapEntered a r t len with pc := r.pc }) a 4 0
    else putStrand s a (trapEntered a r t len)

/-- The strand after a return from a trap (R420). -/
def trapReturned (a : Agent) (r : Strand) : Strand :=
  { r with
    pc := r.str.txpc
    repBuf := []
    str := { r.str with
      sched := if a.kind = .mgmt then r.str.sched else setFld r.str.sched 9 8 (fld r.str.txstat 9 8)
      rep := r.str.txrep
      reppc := r.str.txreppc
      txstat := setFld r.str.txstat 63 63 0 } }

/-! ## What an issue comes to -/

/-- The outcome of an issue attempt: done (the strand goes on behind the instruction), control moved, held (nothing but parking or a
retry happened, or the strand ended), or a trap. -/
inductive Res where
  | done (s : State)
  | goto (s : State) (pc : Word)
  | hold (s : State)
  | trap (s : State) (t : Trap)

/-- The state after an issue attempt of an instruction of len bytes. -/
def settleRes (len : Nat) : Res → State
  | .done s => modStrand s s.cur fun r => advanced r len
  | .goto s pc => modStrand s s.cur fun r => { advanced r len with pc := pc }
  | .hold s => s
  | .trap s t => takeTrap s s.cur t len

/-- The outcome of an instruction of len bytes. -/
def finish (len : Nat) (r : Res) : Host.Outcome State Fault Refusal := .next (settleRes len r)

/-! ## Parking and retries (R161, R164, R168) -/

/-- An attempt that does not issue costs a compute core one quantum instead of what it has paid for its opcode (R462). -/
def refund (s : State) (a : Agent) : State :=
  if a.kind = .compute then modCore s (coreKey a) fun c => { c with level := min 4096 (c.level + c.cost - 1), cost := 1 } else s

/-- The strand parks; it loses every turn it holds (R167). -/
def parkAs (s : State) (a : Agent) (p : Park) : State :=
  let s := modStrand s a fun r => { r with run := .parked p, parkedAt := s.cycle }
  modCore s (coreKey a) fun c => { c with turns := c.turns.filter (· ≠ a.ctx) }

/-- The executing strand parks with its instruction held at issue. -/
def parkMe (s : State) (p : Park) : Res := .hold (parkAs (refund s s.cur) s.cur p)

/-- The executing strand's instruction is retried, no sooner than d cycles from now (R168). -/
def retryMe (s : State) (d : Nat) : Res := .hold (modStrand (refund s s.cur) s.cur fun r => { r with retryAt := s.cycle + d })

/-! ## Registers at issue (R163, R164, R172) -/

/-- The stagger j × s of the repetition in progress; 0 outside one (R172). -/
def stagger (r : Strand) : Nat := if bit r.str.rep 63 then fld r.str.rep 51 40 * fld r.str.rep 6 0 else 0

/-- A register that an instruction names, after the stagger: a general register, one read through an lvsrc field (below 96 too), a
long-vector register, a stack-vector register, an accumulator tile. -/
inductive Use where
  | g (n : Nat) | lg (n : Nat) | lv (n : Nat) | sv (n : Nat) | acc (n : Nat)
deriving DecidableEq, Repr

/-- Whether a register lies beyond its range (R163, R172). -/
def Use.beyond (size : Nat) : Use → Bool
  | .g n => decide (size ≤ n)
  | .lg n => decide (size ≤ n) || decide (96 ≤ n)
  | .lv n => decide (32 ≤ n)
  | .sv n => decide (8 ≤ n)
  | .acc n => decide (64 ≤ n)

/-- The registers among the uses that are empty. -/
def emptyUses (r : Strand) (us : List Use) : List Nat :=
  us.filterMap fun u => match u with
    | .g n | .lg n => if r.isEmpty n then some n else none
    | .sv n => if r.isEmpty (svMark n) then some (svMark n) else none
    | _ => none

/-- Whether the strand is inside a repetition body (R174). -/
def inBody (s : State) : Bool := bit (me s).str.rep 63

/-- The checks of R285 after decoding: an illegal use, a register beyond its range; then empty registers park the strand (R164). -/
def issue (s : State) (illegal : Bool) (us : List Use) (k : State → Res) : Res :=
  if illegal then .trap s { code := 1 }
  else if us.any fun u => u.beyond (partSize s.cur (me s)) then .trap s { code := 3 }
  else if emptyUses (me s) us ≠ [] then parkMe s (.regs (emptyUses (me s) us))
  else k s

/-- A stack strand in a use that R355 and R404 call illegal. -/
def onStack (s : State) : Bool := decide (s.cur.kind = .stack)

/-- The executing agent's tile, 18 (none) where it has no tile. -/
def myTile (s : State) : Nat := (tileOfAgent s.cur).getD 18

/-- The tile whose semaphores the executing agent uses. -/
def semTile (s : State) : Nat := semTileOf s s.cur

/-- The destination of a gdst field, staggered; none for 192. -/
def dstOf (s : State) : GDst → Option Nat
  | .g n => some (n.val + stagger (me s))
  | .discard => none

/-- The uses of a destination. -/
def dstUse (d : Option Nat) : List Use := match d with | some n => [.g n] | none => []

/-- Writes a result at once. -/
def putDst (s : State) (d : Option Nat) (v : Word) : State :=
  match d with
  | some n => modStrand s s.cur fun r => r.setReg n v
  | none => s

/-- Marks a destination empty. -/
def emptyDst (s : State) (d : Option Nat) : State :=
  match d with
  | some n => modStrand s s.cur fun r => r.markEmpty n
  | none => s

/-- A delayed result: the destination is empty until it arrives (R54), t device cycles from now. -/
def later (s : State) (d : Option Nat) (v : Word) (t : Nat) : State := deliver (emptyDst s d) s.cur d v t

/-- The device cycles that d of the executing agent's own cycles take (R9, R307). -/
def mine (s : State) (d : Nat) : Nat := ownCycles s s.cur d

/-! ## Fences in progress and other order at issue (R113) -/

/-- No event of the strand issues while a fence of it is in progress. -/
def eventGate (s : State) (k : Res) : Res := if (me s).fence.isSome then parkMe s .fence else k

/-! ## The staging of passes (R363) -/

/-- Vectors of a pass that have entered the mesh by a cycle (R273). -/
def enteredBy (cycle : Nat) (r : MeshRun) : Nat :=
  if cycle < r.first then r.next else r.next + min r.vectors.length ((cycle - r.first) * r.rate / 10 + 1 - (r.next - r.skip))

/-- Bytes of a vector's elements under a format context (R253). -/
def vectorBytes (ctx : Word) : Nat := match fld ctx 4 0 with | 14 | 15 => 48 | 16 => 32 | _ => 64

/-- The scratchpad offsets of a pass's staging extent from vector k on: elements and scales (R382). -/
def stagingFrom (q : MeshReq) (ctx : Word) (k : Nat) : List (Nat × Nat) :=
  let n := fld q.b 31 16
  let v := vectorBytes ctx
  let e := q.a.toNat % 2 ^ 23
  let c := (q.a + BitVec.ofInt 64 (signedOf 24 (fld q.b 63 40))).toNat % 2 ^ 23
  if n ≤ k then [] else [(e + k * v, e + n * v), (c + 2 * k, c + 2 * n)]

/-- What the staging of an agent's accepted passes has still to read, as scratchpad offsets: of those that run, of those that RECAL or a
halt keeps waiting. -/
def stagingLeft (s : State) (a : Agent) : List (Nat × Nat) :=
  let m := (tileOf s (a.unit / 8)).mesh
  let held (q : MeshReq) : List (Nat × Nat) := match q.part with | some p => if q.by_ == a then stagingFrom q p.ctx p.done else [] | none => []
  (m.running.flatMap fun r => if r.req.by_ == a && !r.halted then stagingFrom r.req r.part.ctx (enteredBy s.cycle r) else [])
    ++ m.accepted.flatMap (fun q => held q.1) ++ (coreOf s (coreKey a)).meshQueue.flatMap held

/-- Whether the staging of an agent's passes has something left to read, which is an earlier event of the agent's (R121, R363). -/
def stagingWaits (s : State) (a : Agent) : Bool := decide (a.kind = .compute) && decide (stagingLeft s a ≠ [])

/-- Whether an agent has an earlier event that has not been performed (R113): a request that waits, an atomic between its Take and its
Fill, a mesh request whose staging accesses are to come, a Signal that its pass or operation has still to send. -/
def earlierPending (s : State) (a : Agent) : Bool :=
  decide (waitingOf s a ≠ []) || (s.reserved.any fun r => r.2.agent == a) || meshWaits s a || stagingWaits s a || signalPending s a

/-- An operation sent only after every earlier event has been performed (R113, R348, R415). -/
def orderGate (s : State) (k : Res) : Res :=
  if (me s).fence.isSome then parkMe s .fence else if earlierPending s s.cur then parkMe s .earlier else k

/-- The L1 lines of an agent's core whose recorded holder is its strand (R58). -/
def ownLine (s : State) (a : Agent) (l : Line) : Bool :=
  let r := strandOf s a
  decide (a.kind = .compute) && decide (l.core = a.unit) && decide (l.asid = r.str.asid.toNat) && l.holder == r.party && r.party != 0

/-- An agent's dirty lines go to their homes; they stay valid (R58). -/
def cleanOwn (s : State) (a : Agent) : State := cleanLines s (ownLine s a)

/-- What a fence of device scope leaves once every earlier access has been performed: the strand's dirty L1 lines written back, its
touched-slice masks cleared (R124). -/
def fenceNow (s : State) (a : Agent) : State :=
  modStrand (cleanOwn s a) a fun r => { r with str := { r.str with tsm0 := 0, tsm1 := 0, tsm2 := 0 } }

/-! ## Memory operands (R331, R332) -/

/-- The address a + SignExt(off) × scale, modulo 2^64 (R331). -/
def effAddr (base : Word) (off : BitVec 8) (scale : Nat) : Word := base + BitVec.ofInt 64 (off.toInt * scale)

/-- What a failed check does: a walk or a transfer parks the strand, a fault traps (R35, R37, R90, R91). -/
def onBad (s : State) : Bad → Res
  | .walk u asid vp => parkMe (launchWalk s u asid vp) (.walk vp)
  | .transit key => parkMe s (.transit key)
  | .xlate w va => .trap s { code := 5, va := va, xlate := some w }
  | .holder c w va => .trap s { code := 5 + c, va := va, holdf := some w }

/-- The structure whose misses go to the walkers for the executing agent. -/
def myTlb (s : State) : Option Nat := some (tlbUnit s.cur)

/-- The executing agent as an actor. -/
def myself (s : State) : Actor := actorOf s s.cur

/-! ## Staging held back (R363) -/

/-- Whether parts of the own quad's scratchpad share a word with what the staging of the executing strand's passes has still to read. -/
def stagingHeld (s : State) (ps : List Part) : Bool :=
  decide (s.cur.kind = .compute) && (stagingLeft s s.cur).any fun x => ps.any fun p => match p.place with
    | .scratch q o => decide (q = s.cur.unit / 4) && decide (o / 8 ≤ (x.2 - 1) / 8) && decide (x.1 / 8 ≤ (o + p.n - 1) / 8)
    | _ => false

/-- The checks of a memory operand: n bytes at va, aligned to `align` (R332); a store that the staging of an accepted pass holds back
forfeits its slot (R363). -/
def withAccess (s : State) (m : Mode) (va : Word) (n align : Nat) (k : List Part → Res) : Res :=
  if va.toNat % align ≠ 0 then .trap s { code := 4, va := va }
  else match access s (myself s) (myTlb s) m va.toNat n with
    | .error b => onBad s b
    | .ok ps => if m = .store ∧ stagingHeld s ps then retryMe s 1 else k ps

/-- A read that returned a poisoned word kills the strand (R426); an engine hart does not consume it. -/
def consume (s : State) (ps : List Part) (k : Res) : Res :=
  match poisonedVa s (myself s) ps with
  | some va => if s.cur.kind = .engine then k else .hold (killStrand s s.cur 1 va)
  | none => k

/-! ## Wait and signal clauses (R152, R279, R297) -/

/-- A wait clause holds its instruction at issue until the semaphore meets the threshold. -/
def waitClause (s : State) (c : Clauses) (k : Res) : Res :=
  match c.wait with
  | none => k
  | some (i, t) =>
    if (me s).clauseOk ∨ t.toNat ≤ semCount s (myTile s) i.toNat then k else parkMe s (.sem (myTile s) i.toNat t.toNat none)

/-- Whether clauses are an illegal use: on a stack core any, on an engine hart the wait clause (R346, R355). -/
def clauseIllegal (s : State) (c : Clauses) : Bool :=
  (onStack s && (c.wait.isSome || c.sig.isSome)) || (decide (s.cur.kind = .engine) && c.wait.isSome)

/-- What an arrival brings that ends its strand's wait for it: number 192, which names no register, marks it. -/
def answerOf (d : Option Nat) (v : Word) : List (Nat × Word) := (match d with | some n => [(n, v)] | none => []) ++ [(192, 0)]

/-- The signal that an arrival brings with it: number 193 marks semaphore × 16 + increment. -/
def signalOf (sig : Option (BitVec 8 × BitVec 4)) : List (Nat × Word) :=
  match sig with | some (j, k) => [(193, word (j.toNat * 16 + k.toNat))] | none => []

/-- A result that arrives with the strand parked until then: JOIN, LEAVE, token instructions (R92, R347). -/
def answerLater (s : State) (d : Option Nat) (v : Word) (t : Nat) : Res :=
  let ds := answerOf d v
  let s := emptyDst s d
  let s := modStrand s s.cur fun r => { r with parkedAt := s.cycle }
  .done (parkAs (post s t (.resultArrival s.cur ds 0 0)) s.cur .answer)

end Sys2Proof.Machine
end

