-- ==== Sys2Proof/Machine/Operands.lean ====
section
/-! DEFINITION. Operand forms: general sources, special sources, the constant table, long-vector and stack-vector sources
(R172, R280 to R284, R289, R402). -/

namespace Sys2Proof.Machine

/-! ## Partitions and logical units (R186, R190, R283) -/

/-- The rank of bit i among the set bits of the low n bits of v. -/
def rankOf (n v i : Nat) : Nat := (positions n fun j => v.testBit j && decide (j < i)).length

/-- The word of a partition. -/
def partWord (s : State) (p : Nat) : Word := mget 0 s.tdu.parts p

/-- The logical tile (index among the enabled tiles) of a physical tile. -/
def logicalTile (s : State) (t : Nat) : Nat := rankOf 18 (fld s.caps.tilemask 17 0) t

/-- The physical tile of a logical tile. -/
def physTile (s : State) (n : Nat) : Option Nat := nthSet 18 (fld s.caps.tilemask 17 0) n

/-- `ltile`: the logical tile, or logical stack, of the executing unit within the partition; a tile's engine has its tile's. -/
def ltileVal (s : State) (a : Agent) : Nat :=
  let w := partWord s (strandOf s a).partition
  match a.kind with
  | .compute => rankOf 16 (fld w 15 0) (logicalTile s (a.unit / 8))
  | .stack => rankOf 12 (fld w 59 48) (a.unit / 16)
  | .engine => if a.unit < 90 then rankOf 16 (fld w 15 0) (logicalTile s (a.unit / 5)) else 0
  | .mgmt => 0

/-- The special sources (R283); `len` is the length of the instruction. -/
def specialVal (s : State) (a : Agent) (len : Nat) (x : Special) : Word :=
  let r := strandOf s a
  match x with
  | .sid => r.party.setWidth 64
  | .ctx => word (if a.kind = .engine then 0 else a.ctx)
  | .lcore => match a.kind with
    | .compute => word (ltileVal s a * 8 + a.unit % 8)
    | .stack => word (ltileVal s a * 16 + a.unit % 16)
    | _ => 0
  | .ltile => word (ltileVal s a)
  | .time => word s.cycle
  | .pc => r.pc
  | .npc => r.pc + word len
  | .asid => match a.kind with
    | .engine => word (actorOf s a).asid
    | .mgmt => 0
    | _ => r.str.asid.setWidth 64
  | .priv => word (privOf a r)
  | .repj => if bit r.str.rep 63 then word (fld r.str.rep 51 40) else 0
  | .psize => word (fld r.str.part 7 0)
  | .ntile => match a.kind with
    | .compute => word (popNat 16 (fld (partWord s r.partition) 15 0))
    | .stack => word (popNat 12 (fld (partWord s r.partition) 59 48))
    | .engine => if (engineOf s a.unit).op.isSome then word (popNat 16 (fld (partWord s r.partition) 15 0)) else 0
    | .mgmt => 0

/-! ## The constant table (R284) -/

/-- The integer column. -/
def kInt (n : Nat) : Word :=
  if n < 16 then word n
  else if n < 24 then wordOfInt (15 - (n : Int))
  else if n < 40 then word (2 ^ (n - 19))
  else match n with
    | 40 => 0xFF | 41 => 0xFFFF | 42 => 0xFFFFFFFF | 43 => 0x7FFFFFFFFFFFFFFF | 44 => 0x8000000000000000
    | 45 => 0x0101010101010101 | 46 => 0x0001000100010001 | 47 => 0x0000000100000001
    | 48 => 16 | 49 => 24 | 50 => 31 | 51 => 48 | 52 => 63 | 53 => 96 | 54 => 127 | 55 => 255
    | 56 => 511 | 57 => 1023 | 58 => 2047 | 59 => 4095 | 60 => 65535 | 61 => 768 | 62 => 49152
    | _ => 0x00FFFF0000000000

/-- The floating column, as sign, numerator and denominator; the irrational entries to 46 decimal places. -/
def kFloat (n : Nat) : Bool × Nat × Nat :=
  if n < 16 then (false, n, 1)
  else if n < 24 then (true, n - 15, 1)
  else if n < 40 then (false, 2 ^ (n - 19), 1)
  else match n with
    | 40 => (false, 1, 16) | 41 => (false, 1, 8) | 42 => (false, 1, 4) | 43 => (false, 1, 2)
    | 44 => (false, 1, 1) | 45 => (false, 2, 1) | 46 => (false, 4, 1) | 47 => (false, 8, 1)
    | 48 => (false, 1, 3) | 49 => (false, 1, 5) | 50 => (false, 1, 6) | 51 => (false, 1, 7)
    | 52 => (false, 1, 9) | 53 => (false, 1, 10) | 54 => (false, 1, 12)
    | 55 => (false, 14426950408889634073599246810018921374266459541, 10 ^ 46)
    | 56 => (false, 6931471805599453094172321214581765680755001343, 10 ^ 46)
    | 57 => (false, 7071067811865475244008443621048490392848359376, 10 ^ 46)
    | 58 => (false, 14142135623730950488016887242096980785696718753, 10 ^ 46)
    | 59 => (false, 15707963267948966192313216916397514420985846996, 10 ^ 46)
    | 60 => (false, 3183098861837906715377675267450287240689192914, 10 ^ 46)
    | 61 => (false, 27182818284590452353602874713526624977572470937, 10 ^ 46)
    | 62 => (false, 3010299956639811952137388947244930267681898814, 10 ^ 46)
    | _ => (false, 1, 64)

/-- A constant in a floating format (R284): converted by R233 to nearest even, no flag. A constant beyond the
format's largest finite magnitude saturates. DEDUCED, log 67. -/
def kCode (f : FP) (n : Nat) : Nat := let (s, p, q) := kFloat n; (f.round .rn true s p q).1

/-! ## General sources (R282) -/

/-- The registers that a source names. -/
def srcUse (s : State) : Src → List Use
  | .g n => [.g (n.val + stagger (me s))]
  | _ => []

/-- The value of a source as an integer or pattern. -/
def srcVal (s : State) (x : Src) (len : Nat := 4) : Word :=
  match x with
  | .g n => (me s).reg (n.val + stagger (me s))
  | .k n => kInt n.val
  | .zero => 0
  | .special y => specialVal s s.cur len y

/-- The code that a source gives a floating operand. -/
def srcCode (s : State) (f : FP) (x : Src) : Nat :=
  match x with
  | .k n => kCode f n.val
  | x => (srcVal s x).toNat % 2 ^ f.width

/-- The uses of a gdst that is read as well. -/
def gdstUse (s : State) (d : GDst) : List Use := dstUse (dstOf s d)

/-- The value of a gdst that is read as an operand: 192 reads zero. -/
def gdstVal (s : State) (d : GDst) : Word :=
  match dstOf s d with
  | some n => (me s).reg n
  | none => 0

/-- The register of a gdst+v field, staggered. -/
def gregOf (s : State) (d : GReg) : Nat := d.val + stagger (me s)

/-! ## Long-vector and stack-vector operands (R289, R356, R402) -/

/-- Lane i of width w. -/
def laneOf {n : Nat} (v : BitVec n) (w i : Nat) : Nat := v.toNat / 2 ^ (w * i) % 2 ^ w

/-- A vector of lanes. -/
def ofLanes (n w : Nat) (ls : List Nat) : BitVec n := BitVec.ofNat n (ls.foldr (fun l acc => l % 2 ^ w + acc * 2 ^ w) 0)

/-- The registers that a long-vector source names. -/
def lsrcUse (s : State) : LSrc → List Use
  | .lv n => [.lv (n.val + stagger (me s))]
  | .g n => [.lg (n.val + stagger (me s))]
  | _ => []

/-- A long-vector register of the executing core's bank. -/
def lvVal (s : State) (n : Nat) : BitVec 4096 := mget 0 (coreOf s (coreKey s.cur)).lv n

/-- A register of the bank, staggered. -/
def lregOf (s : State) (d : LReg) : Nat := d.val + stagger (me s)

/-- Writes a long-vector register. -/
def putLv (s : State) (n : Nat) (v : BitVec 4096) : State :=
  modCore s (coreKey s.cur) fun c => { c with lv := mput 0 c.lv n v }

/-- A broadcast code: a constant in the operand's class, a value's low bits. -/
def broadcast (t : LTy) (k : Option (Fin 64)) (v : Word) : Nat :=
  match k with
  | some n => if t.fmt.isInt then (kInt n.val).toNat % 2 ^ t.width else kCode t.fp n.val
  | none => v.toNat % 2 ^ t.width

/-- The lanes of a long-vector source read as type t, in an instruction of so many bytes (R283). -/
def lsrcLanes (s : State) (t : LTy) (x : LSrc) (len : Nat := 4) : List Nat :=
  match x with
  | .lv n => let v := lvVal s (n.val + stagger (me s)); (List.range t.lanes).map fun i => laneOf v t.width i
  | .g n => List.replicate t.lanes (broadcast t none ((me s).reg (n.val + stagger (me s))))
  | .k n => List.replicate t.lanes (broadcast t (some n) 0)
  | .zero => List.replicate t.lanes 0
  | .special y => List.replicate t.lanes (broadcast t none (specialVal s s.cur len y))

/-- A stack-vector register. -/
def svVal (s : State) (n : Nat) : BitVec 1024 := mget 0 (me s).svs n

/-- Writes a stack-vector register. -/
def putSv (s : State) (n : Nat) (v : BitVec 1024) : State := modStrand s s.cur fun r => { r with svs := mput 0 r.svs n v }

/-- A stack-vector register, staggered. -/
def svregOf (s : State) (d : SvReg) : Nat := d.val + stagger (me s)

/-- The lanes of a stack-vector register. -/
def svLanesOf (s : State) (t : LTy) (n : Nat) : List Nat := let v := svVal s n; (List.range t.svLanes).map fun i => laneOf v t.width i

/-- The registers that a stack-vector source names. -/
def svsrcUse (s : State) : SvSrc → List Use
  | .sv n => [.sv (n.val + stagger (me s))]
  | .g n => [.lg (n.val + stagger (me s))]
  | _ => []

/-- The lanes of a stack-vector source. -/
def svsrcLanes (s : State) (t : LTy) (x : SvSrc) : List Nat :=
  match x with
  | .sv n => svLanesOf s t (n.val + stagger (me s))
  | .g n => List.replicate t.svLanes (broadcast t none ((me s).reg (n.val + stagger (me s))))
  | .k n => List.replicate t.svLanes (broadcast t (some n) 0)
  | .zero => List.replicate t.svLanes 0
  | .special y => List.replicate t.svLanes (broadcast t none (specialVal s s.cur 4 y))

end Sys2Proof.Machine
end

