-- ==== Sys2Proof/Machine/Flags.lean ====
section
/-! DEFINITION. Flags of STR.FPCTL and STR.VFLAGS and what raising them does: sticky bits, the arithmetic trap, the subnormal assist
(R235 to R240, R308, R325, R360). -/

namespace Sys2Proof.Machine

/-- Sets flags of STR.FPCTL; they are sticky (R235). -/
def raise (s : State) (fl : Flags) : State :=
  modStrand s s.cur fun r => { r with str := { r.str with fpctl := r.str.fpctl ||| fl.setWidth 64 } }

/-- The enable bits of STR.FPCTL [13:8]. -/
def enables (r : Strand) : Flags := BitVec.ofNat 6 (fld r.str.fpctl 13 8)

/-- Whether FTZ is set. -/
def ftz (r : Strand) : Bool := bit r.str.fpctl 20

/-- The arithmetic trap: every raised flag is set, the destination stays as it was (R236). -/
def arithTrap (s : State) (fl : Flags) : Res := .trap (raise s fl) { code := 10, flags := fl.toNat }

/-- A result written at once with its flags (saturating integer and packed instructions): an enabled flag traps and writes nothing. -/
def resultNow (s : State) (d : Option Nat) (v : Word) (fl : Flags) : Res :=
  if fl &&& enables (me s) ≠ 0 then arithTrap s fl else .done (putDst (raise s fl) d v)

/-- What an arrival brings for a register; number 194 marks one of an instruction that can raise a flag (R237). -/
def resultOf (d : Option Nat) (v : Word) (can : Bool) : List (Nat × Word) :=
  (match d with | some n => [(n, v)] | none => []) ++ if can then [(194, 0)] else []

/-- The event of a delayed result, where there is anything to deliver, t device cycles from now, which count as cycles of the agent's own. -/
def deliverFlags (s : State) (a : Agent) (d : Option Nat) (v : Word) (fl : Flags) (can : Bool) (t : Nat) : State :=
  if d.isNone ∧ fl = 0 ∧ !can then s else post s t (.resultArrival a (resultOf d v can ++ ownMark) fl 0)

/-- A delayed result with its flags (R306, R325): an enabled flag traps; with any enable set the strand issues nothing more until the
result is there; otherwise flags are set as it completes. `can` says whether the instruction can raise a flag at all; t counts the agent's
own cycles (R307). -/
def resultLater (s : State) (d : Option Nat) (v : Word) (fl : Flags) (can : Bool) (t : Nat) : Res :=
  if fl &&& enables (me s) ≠ 0 then arithTrap s fl
  else if enables (me s) ≠ 0 ∧ can then
    .done (parkAs (post (emptyDst s d) (mine s t) (.resultArrival s.cur (answerOf d v ++ ownMark) fl 0)) s.cur .answer)
  else .done (deliverFlags (emptyDst s d) s.cur d v fl can (mine s t))

/-- Whether one of the scalar operands is a subnormal that raises the assist (R238). -/
def needsAssist (s : State) (xs : List (FP × Nat)) : Bool := !ftz (me s) && xs.any fun x => x.1.subnormal x.2

/-- A scalar operand as a number: under FTZ a subnormal reads as a zero of its sign (R239). -/
def scalarNum (s : State) (f : FP) (c : Nat) : Num :=
  if ftz (me s) && f.subnormal c then .fin (c.testBit (f.eb + f.mb)) 0 0 else f.value c

/-- A scalar result: under FTZ a subnormal becomes a zero of its sign, with UF and NX (R239). -/
def scalarFlush (s : State) (f : FP) (r : Nat × Flags) : Nat × Flags :=
  if ftz (me s) && f.subnormal r.1 then (f.zeroCode (r.1.testBit (f.eb + f.mb)), r.2 ||| flagUF ||| flagNX) else r

/-- A scalar floating instruction: assist, then the result in format t with its flags. -/
def scalarOp (s : State) (ty : FTy) (d : Option Nat) (cs : List Nat) (t : Nat) (f : List Num → Nat × Flags) : Res :=
  let p := (Fmt.fp ty.fmt).getD fpD
  if needsAssist s (cs.map fun c => (p, c)) then .trap s { code := 9 }
  else
    let r := scalarFlush s p (f (cs.map (scalarNum s p)))
    resultLater s d (word r.1) r.2 true t

/-! ## Vector arithmetic (R240, R359) -/

/-- Whether the WVU flushes subnormals of the format: binary32 and bfloat16 (R240). -/
def flushes (t : LTy) : Bool := t == .f || t == .bf

/-- A lane as a number, with the WVU's flush of operands. -/
def laneNum (t : LTy) (c : Nat) : Num :=
  if t.fmt.isInt then t.fmt.value c
  else if flushes t && t.fp.subnormal c then .fin (c.testBit (t.fp.eb + t.fp.mb)) 0 0 else t.fp.value c

/-- A lane's result, with the WVU's flush of results. -/
def laneFlush (t : LTy) (r : Nat × Flags) : Nat × Flags :=
  if flushes t && t.fp.subnormal r.1 then (t.fp.zeroCode (r.1.testBit (t.fp.eb + t.fp.mb)), r.2 ||| flagUF ||| flagNX) else r

/-- Flags of a long-vector or stack-vector instruction go to STR.VFLAGS (R360). -/
def raiseV (s : State) (fl : Flags) : State :=
  modStrand s s.cur fun r => { r with str := { r.str with vflags := r.str.vflags ||| fl.setWidth 64 } }

/-- The union of the flags of lanes. -/
def flagsOf (rs : List (Nat × Flags)) : Flags := rs.foldl (fun g r => g ||| r.2) 0

end Sys2Proof.Machine
end

