-- ==== Sys2Proof/Machine/Int.lean ====
section
/-! DEFINITION. Integer, immediate and packed instructions (R309 to R317). -/

namespace Sys2Proof.Machine

/-! ## Shared forms -/

/-- The registers that a two-operand instruction names. -/
def uses3 (s : State) (d : GDst) (a b : Src) : List Use := gdstUse s d ++ srcUse s a ++ srcUse s b

/-- `OP d, a, b` whose result is written before the strand can next issue (R305, R306). -/
def alu (f : Word → Word → Word) (d : GDst) (a b : Src) (s : State) : Host.Outcome State Fault Refusal :=
  finish 4 (issue s false (uses3 s d a b) fun s => .done (putDst s (dstOf s d) (f (srcVal s a) (srcVal s b))))

/-- `OP d, a`. -/
def alu1 (f : Word → Word) (d : GDst) (a : Src) (s : State) : Host.Outcome State Fault Refusal :=
  finish 4 (issue s false (gdstUse s d ++ srcUse s a) fun s => .done (putDst s (dstOf s d) (f (srcVal s a))))

/-- `OP d, a, b` that reads D too (R314). -/
def alu3 (f : Word → Word → Word → Word) (d : GDst) (a b : Src) (s : State) : Host.Outcome State Fault Refusal :=
  finish 4 (issue s false (uses3 s d a b) fun s => .done (putDst s (dstOf s d) (f (gdstVal s d) (srcVal s a) (srcVal s b))))

/-- A multiply or divide: a delayed result, with the flags that the operands raise (R306, R307, R311). -/
def muldiv (f : Word → Word → Word × Flags) (can : Bool) (t : Nat) (d : GDst) (a b : Src) (s : State) : Host.Outcome State Fault Refusal :=
  finish 4 (issue s false (uses3 s d a b) fun s =>
    resultLater s (dstOf s d) (f (srcVal s a) (srcVal s b)).1 (f (srcVal s a) (srcVal s b)).2 can t)

/-- A saturating instruction: the clamped result, and IS when it clamps (R312, R317). -/
def satOp (f : Word → Word → Word × Bool) (d : GDst) (a b : Src) (s : State) : Host.Outcome State Fault Refusal :=
  finish 4 (issue s false (uses3 s d a b) fun s =>
    resultNow s (dstOf s d) (f (srcVal s a) (srcVal s b)).1 (flagIf flagIS (f (srcVal s a) (srcVal s b)).2))

/-- `OP d, imm`: D is also the first operand where the function takes it (R315). -/
def aluImm (f : Word → Word) (d : GDst) (s : State) : Host.Outcome State Fault Refusal :=
  finish 4 (issue s false (gdstUse s d) fun s => .done (putDst s (dstOf s d) (f (gdstVal s d))))

/-- 1 or 0 in all 64 bits. -/
def boolWord (b : Bool) : Word := if b then 1 else 0

/-! ## Two operands (R309, R310) -/

/-- ADD (R309). -/
def execAdd (d : GDst) (a b : Src) (s : State) := alu (fun x y => x + y) d a b s
/-- SUB (R309). -/
def execSub (d : GDst) (a b : Src) (s : State) := alu (fun x y => x - y) d a b s
/-- AND (R309). -/
def execAnd (d : GDst) (a b : Src) (s : State) := alu (fun x y => x &&& y) d a b s
/-- OR (R309). -/
def execOr (d : GDst) (a b : Src) (s : State) := alu (fun x y => x ||| y) d a b s
/-- XOR (R309). -/
def execXor (d : GDst) (a b : Src) (s : State) := alu (fun x y => x ^^^ y) d a b s
/-- ANDN (R309). -/
def execAndn (d : GDst) (a b : Src) (s : State) := alu (fun x y => x &&& ~~~y) d a b s
/-- SHL (R310): the count is b[5:0]. -/
def execShl (d : GDst) (a b : Src) (s : State) := alu (fun x y => x <<< (fld y 5 0)) d a b s
/-- SHR (R310). -/
def execShr (d : GDst) (a b : Src) (s : State) := alu (fun x y => x >>> (fld y 5 0)) d a b s
/-- SAR (R310). -/
def execSar (d : GDst) (a b : Src) (s : State) := alu (fun x y => x.sshiftRight (fld y 5 0)) d a b s
/-- ROR (R310). -/
def execRor (d : GDst) (a b : Src) (s : State) := alu (fun x y => x.rotateRight (fld y 5 0)) d a b s
/-- MIN (R309). -/
def execMin (d : GDst) (a b : Src) (s : State) := alu (fun x y => if x.sle y then x else y) d a b s
/-- MAX (R309). -/
def execMax (d : GDst) (a b : Src) (s : State) := alu (fun x y => if y.sle x then x else y) d a b s
/-- MINU (R309). -/
def execMinu (d : GDst) (a b : Src) (s : State) := alu (fun x y => if x ≤ y then x else y) d a b s
/-- MAXU (R309). -/
def execMaxu (d : GDst) (a b : Src) (s : State) := alu (fun x y => if y ≤ x then x else y) d a b s
/-- SEQ (R309). -/
def execSeq (d : GDst) (a b : Src) (s : State) := alu (fun x y => boolWord (x == y)) d a b s
/-- SLT (R309). -/
def execSlt (d : GDst) (a b : Src) (s : State) := alu (fun x y => boolWord (x.slt y)) d a b s
/-- SLTU (R309). -/
def execSltu (d : GDst) (a b : Src) (s : State) := alu (fun x y => boolWord (decide (x < y))) d a b s

/-! ## Multiplies and divisions (R309, R311) -/

/-- MUL (R309). -/
def execMul (d : GDst) (a b : Src) (s : State) := muldiv (fun x y => (x * y, 0)) false 6 d a b s
/-- MULH (R311). -/
def execMulh (d : GDst) (a b : Src) (s : State) := muldiv (fun x y => (wordOfInt (x.toInt * y.toInt / 2 ^ 64), 0)) false 6 d a b s
/-- MULHU (R311). -/
def execMulhu (d : GDst) (a b : Src) (s : State) := muldiv (fun x y => (word (x.toNat * y.toNat / 2 ^ 64), 0)) false 6 d a b s

/-- DIV's result (R311): truncated; by zero all ones and DZ. -/
def divResult (x y : Word) : Word × Flags := if y = 0 then (BitVec.allOnes 64, flagDZ) else (wordOfInt (x.toInt.tdiv y.toInt), 0)
/-- DIVU's result. -/
def divuResult (x y : Word) : Word × Flags := if y = 0 then (BitVec.allOnes 64, flagDZ) else (word (x.toNat / y.toNat), 0)
/-- REM's result: the sign of a; by zero a and DZ. -/
def remResult (x y : Word) : Word × Flags := if y = 0 then (x, flagDZ) else (wordOfInt (x.toInt.tmod y.toInt), 0)
/-- REMU's result. -/
def remuResult (x y : Word) : Word × Flags := if y = 0 then (x, flagDZ) else (word (x.toNat % y.toNat), 0)

/-- DIV (R311). -/
def execDiv (d : GDst) (a b : Src) (s : State) := muldiv divResult true 36 d a b s
/-- DIVU (R311). -/
def execDivu (d : GDst) (a b : Src) (s : State) := muldiv divuResult true 36 d a b s
/-- REM (R311). -/
def execRem (d : GDst) (a b : Src) (s : State) := muldiv remResult true 36 d a b s
/-- REMU (R311). -/
def execRemu (d : GDst) (a b : Src) (s : State) := muldiv remuResult true 36 d a b s

/-! ## Saturating instructions (R312) -/

/-- An exact value clamped to lo…hi, and whether it lay outside. -/
def clamp (lo hi v : Int) : Int × Bool := if v < lo then (lo, true) else if hi < v then (hi, true) else (v, false)

/-- A clamped value of 64 bits. -/
def clampWord (lo hi v : Int) : Word × Bool := (wordOfInt (clamp lo hi v).1, (clamp lo hi v).2)

/-- ADDS (R312). -/
def execAdds (d : GDst) (a b : Src) (s : State) := satOp (fun x y => clampWord (-2 ^ 63) (2 ^ 63 - 1) (x.toInt + y.toInt)) d a b s
/-- SUBS (R312). -/
def execSubs (d : GDst) (a b : Src) (s : State) := satOp (fun x y => clampWord (-2 ^ 63) (2 ^ 63 - 1) (x.toInt - y.toInt)) d a b s
/-- ADDSU (R312). -/
def execAddsu (d : GDst) (a b : Src) (s : State) := satOp (fun x y => clampWord 0 (2 ^ 64 - 1) ((x.toNat : Int) + y.toNat)) d a b s
/-- SUBSU (R312). -/
def execSubsu (d : GDst) (a b : Src) (s : State) := satOp (fun x y => clampWord 0 (2 ^ 64 - 1) ((x.toNat : Int) - y.toNat)) d a b s

/-! ## Bit instructions (R313, R314) -/

/-- Leading zeros. -/
def clz (x : Word) : Nat := if x = 0 then 64 else 63 - x.toNat.log2
/-- Trailing zeros. -/
def ctz (x : Word) : Nat := (firstIdx 64 fun i => bit x i).getD 64
/-- The bits reversed. -/
def brev (x : Word) : Word := word ((positions 64 fun i => bit x i).foldl (fun n i => n + 2 ^ (63 - i)) 0)

/-- CLZ (R313). -/
def execClz (d : GDst) (a : Src) (s : State) := alu1 (fun x => word (clz x)) d a s
/-- CTZ (R313). -/
def execCtz (d : GDst) (a : Src) (s : State) := alu1 (fun x => word (ctz x)) d a s
/-- POPC (R313). -/
def execPopc (d : GDst) (a : Src) (s : State) := alu1 (fun x => word (popNat 64 x.toNat)) d a s
/-- BREV (R313). -/
def execBrev (d : GDst) (a : Src) (s : State) := alu1 brev d a s

/-- Position and length of a bitfield control (R314). -/
def fieldOf (c : Word) : Nat × Nat := (fld c 5 0, min (fld c 14 8) (64 - fld c 5 0))
/-- The extracted field. -/
def bfx (a c : Word) : Word := word (a.toNat / 2 ^ (fieldOf c).1 % 2 ^ (fieldOf c).2)
/-- The word with the field inserted. -/
def bfi (d a c : Word) : Word :=
  let (p, n) := fieldOf c
  word (d.toNat - d.toNat / 2 ^ p % 2 ^ n * 2 ^ p + a.toNat % 2 ^ n * 2 ^ p)

/-- SEL (R314). -/
def execSel (d : GDst) (a b : Src) (s : State) := alu3 (fun z x y => if z ≠ 0 then x else y) d a b s
/-- BFX (R314). -/
def execBfx (d : GDst) (a b : Src) (s : State) := alu bfx d a b s
/-- BFI (R314). -/
def execBfi (d : GDst) (a b : Src) (s : State) := alu3 bfi d a b s

/-! ## Immediates and NOP (R315, R316) -/

/-- LI (R315). -/
def execLi (d : GDst) (i : BitVec 16) (s : State) := aluImm (fun _ => i.signExtend 64) d s
/-- LIZ (R315). -/
def execLiz (d : GDst) (i : BitVec 16) (s : State) := aluImm (fun _ => i.setWidth 64) d s
/-- LSI (R315). -/
def execLsi (d : GDst) (i : BitVec 16) (s : State) := aluImm (fun x => x <<< 16 ||| i.setWidth 64) d s
/-- ADDI (R315). -/
def execAddi (d : GDst) (i : BitVec 16) (s : State) := aluImm (fun x => x + i.signExtend 64) d s
/-- ANDI (R315). -/
def execAndi (d : GDst) (i : BitVec 16) (s : State) := aluImm (fun x => x &&& i.setWidth 64) d s
/-- ORI (R315). -/
def execOri (d : GDst) (i : BitVec 16) (s : State) := aluImm (fun x => x ||| i.setWidth 64) d s
/-- XORI (R315). -/
def execXori (d : GDst) (i : BitVec 16) (s : State) := aluImm (fun x => x ^^^ i.setWidth 64) d s
/-- SHLI (R315). -/
def execShli (d : GDst) (i : BitVec 6) (s : State) := aluImm (fun x => x <<< i.toNat) d s
/-- SHRI (R315). -/
def execShri (d : GDst) (i : BitVec 6) (s : State) := aluImm (fun x => x >>> i.toNat) d s
/-- SARI (R315). -/
def execSari (d : GDst) (i : BitVec 6) (s : State) := aluImm (fun x => x.sshiftRight i.toNat) d s
/-- SLTI (R315). -/
def execSlti (d : GDst) (i : BitVec 16) (s : State) := aluImm (fun x => boolWord (x.slt (i.signExtend 64))) d s
/-- NOP (R316): no effect. -/
def execNop (s : State) : Host.Outcome State Fault Refusal := finish 4 (issue s false [] fun s => .done s)

/-! ## Packed instructions (R317) -/

/-- Lane i of width w as a signed number. -/
def slane (w : Nat) (x : Word) (i : Nat) : Int := signedOf w (laneOf x w i)

/-- Lanes computed modulo 2^w. -/
def packed (w : Nat) (f : Int → Int → Int) (x y : Word) : Word :=
  ofLanes 64 w ((List.range (64 / w)).map fun i => wrap w (f (laneOf x w i) (laneOf y w i)))

/-- Lanes clamped to the signed range, and whether any was. -/
def packedSat (w : Nat) (f : Int → Int → Int) (x y : Word) : Word × Bool :=
  let rs := (List.range (64 / w)).map fun i => clamp (-2 ^ (w - 1)) (2 ^ (w - 1) - 1) (f (slane w x i) (slane w y i))
  (ofLanes 64 w (rs.map fun r => wrap w r.1), rs.any (·.2))

/-- PADD.i8 (R317). -/
def execPaddI8 (d : GDst) (a b : Src) (s : State) := alu (packed 8 (· + ·)) d a b s
/-- PADD.i16. -/
def execPaddI16 (d : GDst) (a b : Src) (s : State) := alu (packed 16 (· + ·)) d a b s
/-- PADD.i32. -/
def execPaddI32 (d : GDst) (a b : Src) (s : State) := alu (packed 32 (· + ·)) d a b s
/-- PSUB.i8. -/
def execPsubI8 (d : GDst) (a b : Src) (s : State) := alu (packed 8 (· - ·)) d a b s
/-- PSUB.i16. -/
def execPsubI16 (d : GDst) (a b : Src) (s : State) := alu (packed 16 (· - ·)) d a b s
/-- PSUB.i32. -/
def execPsubI32 (d : GDst) (a b : Src) (s : State) := alu (packed 32 (· - ·)) d a b s
/-- PADDS.i8. -/
def execPaddsI8 (d : GDst) (a b : Src) (s : State) := satOp (packedSat 8 (· + ·)) d a b s
/-- PADDS.i16. -/
def execPaddsI16 (d : GDst) (a b : Src) (s : State) := satOp (packedSat 16 (· + ·)) d a b s
/-- PADDS.i32. -/
def execPaddsI32 (d : GDst) (a b : Src) (s : State) := satOp (packedSat 32 (· + ·)) d a b s
/-- PSUBS.i8. -/
def execPsubsI8 (d : GDst) (a b : Src) (s : State) := satOp (packedSat 8 (· - ·)) d a b s
/-- PSUBS.i16. -/
def execPsubsI16 (d : GDst) (a b : Src) (s : State) := satOp (packedSat 16 (· - ·)) d a b s
/-- PSUBS.i32. -/
def execPsubsI32 (d : GDst) (a b : Src) (s : State) := satOp (packedSat 32 (· - ·)) d a b s

end Sys2Proof.Machine
end

