-- ==== Sys2Proof/Machine/Control.lean ====
section
/-! DEFINITION. Control flow (R326 to R330, R174): branches, CALL, JR, REP. -/

namespace Sys2Proof.Machine

/-- The target of a branch: PC + 4 × SignExt(OFF, 64) (R326). -/
def branchTarget (pc : Word) (o : BitVec 16) : Word := pc + BitVec.ofInt 64 (4 * o.toInt)

/-- A conditional branch (R326); inside a repetition body it is illegal (R174). -/
def branchOp (c : Word → Bool) (a : Src) (o : BitVec 16) (s : State) : Host.Outcome State Fault Refusal :=
  finish 4 (issue s (inBody s) (srcUse s a) fun s => if c (srcVal s a) then .goto s (branchTarget (me s).pc o) else .done s)

/-- BEZ (R326). -/
def execBez (a : Src) (o : BitVec 16) (s : State) := branchOp (fun v => v == 0) a o s
/-- BNZ. -/
def execBnz (a : Src) (o : BitVec 16) (s : State) := branchOp (fun v => v != 0) a o s
/-- BLTZ. -/
def execBltz (a : Src) (o : BitVec 16) (s : State) := branchOp (fun v => v.slt 0) a o s
/-- BGEZ. -/
def execBgez (a : Src) (o : BitVec 16) (s : State) := branchOp (fun v => !v.slt 0) a o s
/-- BGTZ. -/
def execBgtz (a : Src) (o : BitVec 16) (s : State) := branchOp (fun v => (0 : Word).slt v) a o s
/-- BLEZ. -/
def execBlez (a : Src) (o : BitVec 16) (s : State) := branchOp (fun v => !(0 : Word).slt v) a o s

/-- CALL (R327): the link receives the address of the next instruction. -/
def execCall (d : GDst) (o : BitVec 16) (s : State) : Host.Outcome State Fault Refusal :=
  finish 4 (issue s (inBody s) (gdstUse s d) fun s => .goto (putDst s (dstOf s d) ((me s).pc + 4)) (branchTarget (me s).pc o))

/-- JR (R328): the target is read before the link is written; a target that is not word-aligned traps with no effect. -/
def execJr (d : GDst) (a : Src) (s : State) : Host.Outcome State Fault Refusal :=
  finish 4 (issue s (inBody s) (gdstUse s d ++ srcUse s a) fun s =>
    let t := srcVal s a
    if fld t 1 0 ≠ 0 then .trap s { code := 4, va := t }
    else .goto (putDst s (dstOf s d) ((me s).pc + 4)) t)

/-- STR.REP as REP sets it (R330). -/
def repWord (nm1 : BitVec 4) (km1 : BitVec 12) (st : BitVec 7) : Word :=
  word (2 ^ 63 + nm1.toNat * 2 ^ 52 + km1.toNat * 2 ^ 28 + st.toNat)

/-- REP (R330): the repetition begins behind it. -/
def execRep (nm1 : BitVec 4) (km1 : BitVec 12) (st : BitVec 7) (s : State) : Host.Outcome State Fault Refusal :=
  finish 4 (issue s (inBody s) [] fun s =>
    .hold (modStrand s s.cur fun r =>
      { r with pc := r.pc + 4, clauseOk := false, walkFault := none, repBuf := []
               str := { r.str with rep := repWord nm1 km1 st, reppc := r.pc + 4 } }))

end Sys2Proof.Machine
end

