-- ==== Sys2Proof/Machine/Fp.lean ====
section
/-! DEFINITION. Scalar floating point (R318 to R325). -/

namespace Sys2Proof.Machine

/-- The format of a floating type. -/
def FTy.fp (t : FTy) : FP := (Fmt.fp t.fmt).getD fpD

/-- A latency of R307: the binary32 and the binary64 column. -/
def fpLat (t : FTy) (f d : Nat) : Nat := match t with | .d => d | .f => f

/-- The registers that a floating instruction with two sources names. -/
def fuses (s : State) (d : GReg) (a b : Src) : List Use := [.g (gregOf s d)] ++ srcUse s a ++ srcUse s b

/-- A two-operand floating instruction (R319, R320). -/
def fp2 (t : FTy) (lat : Nat) (f : FP → Num → Num → Nat × Flags) (d : GReg) (a b : Src) (s : State) : Host.Outcome State Fault Refusal :=
  finish 4 (issue s false (fuses s d a b) fun s =>
    scalarOp s t (some (gregOf s d)) [srcCode s (FTy.fp t) a, srcCode s (FTy.fp t) b] lat fun xs =>
      f (FTy.fp t) (xs.getD 0 (.fin false 0 0)) (xs.getD 1 (.fin false 0 0)))

/-- FADD (R319). -/
def execFadd (r : Rm) (t : FTy) (d : GReg) (a b : Src) (s : State) := fp2 t (fpLat t 6 8) (fun p x y => p.add r x y) d a b s
/-- FSUB (R319): a NaN operand keeps its sign. -/
def execFsub (r : Rm) (t : FTy) (d : GReg) (a b : Src) (s : State) :=
  fp2 t (fpLat t 6 8) (fun p x y => p.add r x (if y.isNan then y else y.neg)) d a b s
/-- FMUL (R319). -/
def execFmul (r : Rm) (t : FTy) (d : GReg) (a b : Src) (s : State) := fp2 t (fpLat t 6 8) (fun p x y => p.mul r x y) d a b s
/-- FDIV (R319). -/
def execFdiv (r : Rm) (t : FTy) (d : GReg) (a b : Src) (s : State) := fp2 t (fpLat t 20 36) (fun p x y => p.div r x y) d a b s

/-- FMA (R319): D is the addend; one rounding. -/
def execFma (r : Rm) (t : FTy) (d : GReg) (a b : Src) (s : State) : Host.Outcome State Fault Refusal :=
  finish 4 (issue s false (fuses s d a b) fun s =>
    scalarOp s t (some (gregOf s d)) [srcCode s (FTy.fp t) a, srcCode s (FTy.fp t) b, ((me s).reg (gregOf s d)).toNat % 2 ^ (FTy.fp t).width]
      (fpLat t 6 8) fun xs => (FTy.fp t).fma r (xs.getD 0 (.fin false 0 0)) (xs.getD 1 (.fin false 0 0)) (xs.getD 2 (.fin false 0 0)))

/-- FSQRT (R319). -/
def execFsqrt (r : Rm) (t : FTy) (d : GReg) (a : Src) (s : State) : Host.Outcome State Fault Refusal :=
  finish 4 (issue s false ([.g (gregOf s d)] ++ srcUse s a) fun s =>
    scalarOp s t (some (gregOf s d)) [srcCode s (FTy.fp t) a] (fpLat t 20 36) fun xs => (FTy.fp t).sqrt r (xs.getD 0 (.fin false 0 0)))

/-- A minimum or maximum: the code of one operand (R320); under FTZ a subnormal operand is a zero of its sign. -/
def fpMinMax (mx : Bool) (t : FTy) (d : GReg) (a b : Src) (s : State) : Host.Outcome State Fault Refusal :=
  finish 4 (issue s false (fuses s d a b) fun s =>
    let p := FTy.fp t
    let flush (c : Nat) : Nat := if ftz (me s) && p.subnormal c then p.zeroCode (c.testBit (p.eb + p.mb)) else c
    scalarOp s t (some (gregOf s d)) [srcCode s p a, srcCode s p b] (fpLat t 6 8) fun xs =>
      p.minmax mx (flush (srcCode s p a)) (flush (srcCode s p b)) (xs.getD 0 (.fin false 0 0)) (xs.getD 1 (.fin false 0 0)))

/-- FMIN (R320). -/
def execFmin (t : FTy) (d : GReg) (a b : Src) (s : State) := fpMinMax false t d a b s
/-- FMAX (R320). -/
def execFmax (t : FTy) (d : GReg) (a b : Src) (s : State) := fpMinMax true t d a b s

/-- The flag of a comparison: only a signalling NaN raises NV (R321). -/
def cmpFlags (p : FP) (x y : Num) : Flags := match p.nanOf [x, y] with | some (_, fl) => fl | none => 0

/-- FCMP (R321): an integer mask, which no flush touches. -/
def execFcmp (t : FTy) (d : GReg) (a b : Src) (s : State) : Host.Outcome State Fault Refusal :=
  finish 4 (issue s false (fuses s d a b) fun s =>
    let p := FTy.fp t
    let ca := srcCode s p a
    let cb := srcCode s p b
    if needsAssist s [(p, ca), (p, cb)] then .trap s { code := 9 }
    else
      let x := scalarNum s p ca
      let y := scalarNum s p cb
      resultLater s (some (gregOf s d)) (word (cmpMask x y)) (cmpFlags p x y) true (fpLat t 6 8))

/-- A conversion's source as a number: a floating subnormal reads as zero under FTZ in the formats that have the assist (R239, R322). -/
def cvtNum (s : State) (f : Fmt) (c : Nat) : Num :=
  match Fmt.fp f with
  | some p => if f.assists then scalarNum s p c else f.value c
  | none => f.value c

/-- A conversion's result, flushed under FTZ in those formats. -/
def cvtFlush (s : State) (t : Fmt) (r : Nat × Flags) : Nat × Flags :=
  match Fmt.fp t with
  | some p => if t.assists then scalarFlush s p r else r
  | none => r

/-- The code that a source field gives a conversion's source. -/
def cvtCode (s : State) (f : Fmt) (a : Src) : Nat :=
  match Fmt.fp f with
  | some p => srcCode s p a
  | none => (srcVal s a).toNat % 2 ^ f.width

/-- FCVT (R322, R233). -/
def execFcvt (r : Rm) (d : GReg) (a : Src) (x t : Fmt) (s : State) : Host.Outcome State Fault Refusal :=
  finish 4 (issue s false ([.g (gregOf s d)] ++ srcUse s a) fun s =>
    let c := cvtCode s x a
    let sub := match Fmt.fp x with | some p => x.assists && p.subnormal c | none => false
    if sub && !ftz (me s) then .trap s { code := 9 }
    else
      let v := cvtFlush s t (convert x t r (cvtNum s x c))
      resultLater s (some (gregOf s d)) (t.toReg v.1) v.2 true (if x == .d || t == .d then 8 else 6))

/-- FUN (R323, R324). Codes 0 to 2 raise no flag and no assist. -/
def execFfun (t : FTy) (d : GReg) (a : Src) (r : Rm) (fn : BitVec 6) (s : State) : Host.Outcome State Fault Refusal :=
  finish 4 (issue s false ([.g (gregOf s d)] ++ srcUse s a) fun s =>
    let p := FTy.fp t
    let c := srcCode s p a
    let sign := 2 ^ (p.eb + p.mb)
    let n := fn.toNat
    if n = 0 then resultLater s (some (gregOf s d)) (word (if c.testBit (p.eb + p.mb) then c - sign else c + sign)) 0 false (fpLat t 6 8)
    else if n = 1 then resultLater s (some (gregOf s d)) (word (c % sign)) 0 false (fpLat t 6 8)
    else if n = 2 then resultLater s (some (gregOf s d)) (word (p.classMask c)) 0 false (fpLat t 6 8)
    else
      let lat := if n = 3 then fpLat t 6 8 else if n ≤ 5 then fpLat t 20 36 else fpLat t 28 48
      scalarOp s t (some (gregOf s d)) [c] lat fun xs =>
        if n = 3 then p.rint r (xs.getD 0 (.fin false 0 0)) else p.func r n (xs.getD 0 (.fin false 0 0)))

end Sys2Proof.Machine
end

