-- ==== Sys2Proof/Machine/Kick.lean ====
section
/-! DEFINITION. Kicks (R184, R389, R390, R394): the checks, the capture of the argument block, the kick instructions. -/

namespace Sys2Proof.Machine

/-- Depth of a kick queue (R184). -/
def kickDepth : Nat := 8

/-- The routines that the spec gives an engine's class (R390, R458, R459): copies, the stencil decomposition, the fabric token request of
collective and link engines, the link message of link engines. -/
def classRoutine (e routine : Nat) : Bool :=
  if e < 90 then (if e % 5 = 4 then decide (routine = 3) else decide (routine < 3))
  else if e < 98 then decide (routine = 16) else decide (routine = 16) || decide (routine = 17)

/-- Whether a routine is in an engine's microcode store (R184, R392; log entry 40). -/
def hasRoutine (s : State) (e routine : Nat) : Bool := classRoutine e routine && !(engineOf s e).absent.contains routine

/-- The operation in progress takes its first step, or goes on at its next one: a retired engine's ends as R428 sets out, one whose routine
is not in the store as R392 does. -/
def runOp (s : State) (e : Nat) : State :=
  match (engineOf s e).op with
  | none => s
  | some k =>
    if (engineOf s e).retired then post s 1 (.endOp e 7 (2 ^ 56 - 1))
    else match hasRoutine s e (fld k.word 63 58), routineEvent e (fld k.word 63 58) with
      | true, some i => post s 1 i
      | _, _ => post s 1 (.noroutine e)

/-- An idle engine takes the kick at the head of its queue: registers, line buffers and work store are cleared, and the operation's
event follows (R184, R392, R399); a strand parked on the full queue may enter it. A retired engine ends every kick as R428 sets out. -/
def startEngine (s : State) (e : Nat) : State :=
  let x := engineOf s e
  match x.op, x.queue with
  | none, k :: r =>
    let s := modEngine s e fun x =>
      { x with op := some k, queue := r, ending := none, returns := [], filled := false, progress := 0, elem := none, gathered := [], walking := none, lost := false,
               lbs := [], work := {} }
    let s := modStrand s ⟨.engine, e, 0⟩ fun h =>
      { h with regs := [], empties := [], run := .free, walked := [], walkFault := none, party := engineParty e, partition := k.partition }
    runOp (if s.strands.any fun y => y.2.run == .parked (.kickFull e) then post s 1 (.kickAccept e) else s) e
  | _, _ => s

/-- The dirty L1 lines whose recorded holder is the executing strand go to their homes. -/
def cleanMine (s : State) : State := cleanOwn s s.cur

/-- A kick of a slot with a kick word, its window access checked already: the argument block's checks, the order after every earlier
event, the place in the queue, the capture; then `k` (R390). -/
def kickWith (s : State) (dev : Bool) (t slot : Nat) (kw : Word) (k : State → Res) : Res :=
  let e := slotEngine dev t slot
  withAccess s .load (word (fld kw 57 8 * 64)) 64 1 fun ps => orderGate s <|
    if (engineOf s e).queue.length ≥ kickDepth then parkMe s (.kickFull e)
    else consume s ps <|
      let r := readParts (cleanMine s) (myself s) ps
      let block := (List.range 8).map fun i => word (leNat (bytesBy (fun j => r.1.getD j 0) (8 * i) 8))
      let kick : Kick := ⟨kw, block, ((myself s).asid, (myself s).party), (myself s).asid, (me s).partition⟩
      k (startEngine (modEngine r.2.2 e fun x => { x with queue := x.queue ++ [kick] }) e)

/-- The slot register's window address. -/
def kickVa (dev : Bool) (slot : Nat) : Word := word (winBase + (if dev then 0x9000000000 else 2 ^ 32) + slot * 64)

/-- A kick instruction (R394): the wait clause, the check of its slot as an `ST.64`, the kick; D receives 0 at the acceptance, and the
signal is sent then. -/
def kickInstr (d : GDst) (us : State → List Use) (c : Clauses) (aligned : State → Bool) (va : State → Word) (dev : State → Bool)
    (slot : State → Nat) (kw : State → Word) (s : State) : Host.Outcome State Fault Refusal :=
  finish 8 (issue s (clauseIllegal s c) (gdstUse s d ++ us s) fun s => waitClause s c <| eventGate s <|
    if !aligned s then .trap s { code := 4, va := va s }
    else withAccess s .store (kickVa (dev s) (slot s)) 8 8 fun _ =>
      kickWith s (dev s) (myTile s) (slot s) (kw s) fun s => .done (sendSignal (later s (dstOf s d) 0 1) s.cur c.sig))

/-- The kick word of a copy or stencil kick. -/
def routineWord (routine : Nat) (a : Word) : Word := word (routine * 2 ^ 58 + fld a 55 6 * 2 ^ 8)

/-- A copy kick: the engine is quad × 2 + b[0]. -/
def copyKick (routine : Nat) (d : GDst) (a b : Src) (c : Clauses) (s : State) : Host.Outcome State Fault Refusal :=
  kickInstr d (fun s => srcUse s a ++ srcUse s b) c (fun s => (srcVal s a 8).toNat % 64 == 0) (fun s => srcVal s a 8) (fun _ => false)
    (fun s => s.cur.unit % 8 / 4 * 2 + fld (srcVal s b 8) 0 0) (fun s => routineWord routine (srcVal s a 8)) s

/-- CPY (R394). -/
def execCpy (d : GDst) (a b : Src) (c : Clauses) (s : State) := copyKick 0 d a b c s
/-- CPY2D (R394). -/
def execCpy2d (d : GDst) (a b : Src) (c : Clauses) (s : State) := copyKick 1 d a b c s
/-- CPYG (R394). -/
def execCpyg (d : GDst) (a b : Src) (c : Clauses) (s : State) := copyKick 2 d a b c s
/-- STDEC (R394). -/
def execStdec (d : GDst) (a : Src) (c : Clauses) (s : State) : Host.Outcome State Fault Refusal :=
  kickInstr d (fun s => srcUse s a) c (fun s => (srcVal s a 8).toNat % 64 == 0) (fun s => srcVal s a 8) (fun _ => false) (fun _ => 4)
    (fun s => routineWord 3 (srcVal s a 8)) s
/-- KICK (R394): the slot is b[5:0] of the tile window, or of the device window when b[8] = 1. -/
def execKick (d : GDst) (a b : Src) (c : Clauses) (s : State) : Host.Outcome State Fault Refusal :=
  kickInstr d (fun s => srcUse s a ++ srcUse s b) c (fun _ => true) (fun _ => 0) (fun s => bit (srcVal s b 8) 8)
    (fun s => fld (srcVal s b 8) 5 0) (fun s => srcVal s a 8) s

end Sys2Proof.Machine
end

