-- ==== Sys2Proof/Machine/Memory.lean ====
section
/-! DEFINITION. Loads and stores, synchronisation-word instructions, atomics (R331 to R341). -/

namespace Sys2Proof.Machine

/-! ## Loads and stores (R333 to R336) -/

/-- A misaligned access in the accumulator, metadata and kick windows, which take aligned 8-byte accesses alone (R23, R335). -/
def windowMisaligned (s : State) (va : Word) (n : Nat) : Bool :=
  let o := va.toNat - winBase
  let strict := (decide (2 ^ 24 ≤ o) && decide (o < 2 ^ 24 + 3 * 2 ^ 20)) || (decide (0x1300000 ≤ o) && decide (o < 0x1300200))
    || (decide (2 ^ 32 ≤ o) && decide (o < 2 ^ 32 + 4096)) || (decide (0x9000000000 ≤ o) && decide (o < 0x9000001000))
  decide (s.cur.kind ≠ .mgmt) && decide (winBase ≤ va.toNat) && decide (va.toNat < 2 ^ 56) && strict && (decide (n ≠ 8) || decide (va.toNat % 8 ≠ 0))

/-- The value of a load: zero- or sign-extended (R334). -/
def extended (sx : Bool) (n : Nat) (bs : List Byte) : Word := if sx then wordOfInt (signedOf (8 * n) (leNat bs)) else word (leNat bs)

/-- A load of n bytes (R334). -/
def loadOp (n : Nat) (sx : Bool) (d : GReg) (a : Src) (o : BitVec 8) (s : State) : Host.Outcome State Fault Refusal :=
  finish 4 (issue s false ([.g (gregOf s d)] ++ srcUse s a) fun s => eventGate s <|
    let va := effAddr (srcVal s a) o n
    if windowMisaligned s va n then .trap s { code := 4, va := va }
    else withAccess s .load va n 1 fun ps => consume s ps <|
      let r := readParts s (myself s) ps
      .done (later r.2.2 (some (gregOf s d)) (extended sx n r.1) r.2.1))

/-- A store of n bytes (R334); to a kick window it is a kick (R390). -/
def storeOp (n : Nat) (d a : Src) (o : BitVec 8) (s : State) : Host.Outcome State Fault Refusal :=
  finish 4 (issue s false (srcUse s d ++ srcUse s a) fun s => eventGate s <|
    let va := effAddr (srcVal s a) o 8
    if windowMisaligned s va n then .trap s { code := 4, va := va }
    else withAccess s .store va n 1 fun ps =>
      match ps.head?.map (·.place) with
      | some (Place.kick dev t slot) => kickWith s dev t slot (srcVal s d) fun s => .done s
      | _ => .done (writeParts s (myself s) ps (leBytes n (srcVal s d).toNat)))

/-- LD.n8, LD.i8 (R333). -/
def execLd8 (sx : Bool) (d : GReg) (a : Src) (o : BitVec 8) (s : State) := loadOp 1 sx d a o s
/-- LD.n16, LD.i16. -/
def execLd16 (sx : Bool) (d : GReg) (a : Src) (o : BitVec 8) (s : State) := loadOp 2 sx d a o s
/-- LD.n32, LD.i32. -/
def execLd32 (sx : Bool) (d : GReg) (a : Src) (o : BitVec 8) (s : State) := loadOp 4 sx d a o s
/-- LD.i64. -/
def execLd64 (d : GReg) (a : Src) (o : BitVec 8) (s : State) := loadOp 8 false d a o s
/-- ST.8. -/
def execSt8 (d a : Src) (o : BitVec 8) (s : State) := storeOp 1 d a o s
/-- ST.16. -/
def execSt16 (d a : Src) (o : BitVec 8) (s : State) := storeOp 2 d a o s
/-- ST.32. -/
def execSt32 (d a : Src) (o : BitVec 8) (s : State) := storeOp 4 d a o s
/-- ST.64. -/
def execSt64 (d a : Src) (o : BitVec 8) (s : State) := storeOp 8 d a o s

/-! ## Requests to a home (R337 to R339) -/

/-- The requests that a strand may have waiting at once (R339). -/
def requestLimit : Nat := 4

/-- The least spacing of a retry after BUSY: GAP × 4 of its own cycles for a strand, 16 for an engine hart (R141, R143). -/
def retryGap (s : State) : Nat := if s.cur.kind = .engine then 16 else mine s (4 * max 1 (fld (me s).str.syncretry 15 8))

/-- A BUSY answer: a retry, counted; when the count has reached LIMIT the request goes to the overflow list (R141). -/
def busyAnswer (s : State) (q : SyncReq) (placed : State → Res) : Res :=
  if s.cur.kind ≠ .engine ∧ fld (me s).str.syncretry 7 0 ≤ (me s).busy then
    placed (modStrand { s with overflow := s.overflow ++ [{ q with listed := true }] } s.cur fun r => { r with busy := 0 })
  else retryMe (modStrand s s.cur fun r => { r with busy := r.busy + 1 }) (retryGap s)

/-- A synchronisation-word instruction or atomic on the word at va (R337, R338, R340). -/
def syncOp (kind : SyncKind) (dst : Option Nat) (v v2 : Word) (va : Word) (s : State) : Res :=
  eventGate s <| withAccess s (if kind = .peek then .peek else .sync) va 8 8 fun ps =>
    let l := partLoc ps
    if requestLimit ≤ (waitingOf s s.cur).length then parkMe s .requests
    else
      let old := match dst with | some n => (me s).reg n | none => 0
      let q : SyncReq := { requestAt s (.agent s.cur) kind l (partNa ps) va (myself s).asid v with v2 := v2, dst := dst, old := old }
      let s := noteParts s (myself s) ps
      let s := if l < 2 ^ 52 then touchSlice s s.cur l else s
      match arrive s q with
      | (.performed, t) => .done (emptyDst (modStrand t t.cur fun r => { r with busy := 0 }) dst)
      | (.waiting, t) => .done (emptyDst (modStrand t t.cur fun r => { r with busy := 0 }) dst)
      | (.busy, t) => busyAnswer t q fun t => .done (emptyDst t dst)

/-- LDS (R337). -/
def execLds (d : GDst) (a : Src) (o : BitVec 8) (s : State) : Host.Outcome State Fault Refusal :=
  finish 4 (issue s false (gdstUse s d ++ srcUse s a) fun s => syncOp .take (dstOf s d) 0 0 (effAddr (srcVal s a) o 8) s)
/-- STF (R337). -/
def execStf (d : Src) (a : Src) (o : BitVec 8) (s : State) : Host.Outcome State Fault Refusal :=
  finish 4 (issue s false (srcUse s d ++ srcUse s a) fun s => syncOp .fill none (srcVal s d) 0 (effAddr (srcVal s a) o 8) s)
/-- LDP (R337). -/
def execLdp (d : GDst) (a : Src) (o : BitVec 8) (s : State) : Host.Outcome State Fault Refusal :=
  finish 4 (issue s false (gdstUse s d ++ srcUse s a) fun s => syncOp .peek (dstOf s d) 0 0 (effAddr (srcVal s a) o 8) s)
/-- STE (R337). -/
def execSte (a : Src) (o : BitVec 8) (s : State) : Host.Outcome State Fault Refusal :=
  finish 4 (issue s false (srcUse s a) fun s => syncOp .empty none 0 0 (effAddr (srcVal s a) o 8) s)

/-! ## Atomics (R340, R341) -/

/-- An atomic: D is read as the operand and written with the old value. -/
def atomicOp (kind : SyncKind) (d : GDst) (a : Src) (o : BitVec 8) (s : State) : Host.Outcome State Fault Refusal :=
  finish 4 (issue s false (gdstUse s d ++ srcUse s a) fun s => syncOp kind (dstOf s d) (gdstVal s d) 0 (effAddr (srcVal s a) o 8) s)

/-- AADD (R340). -/
def execAadd (d : GDst) (a : Src) (o : BitVec 8) (s : State) := atomicOp .aadd d a o s
/-- AAND. -/
def execAand (d : GDst) (a : Src) (o : BitVec 8) (s : State) := atomicOp .aand d a o s
/-- AOR. -/
def execAor (d : GDst) (a : Src) (o : BitVec 8) (s : State) := atomicOp .aor d a o s
/-- AMIN. -/
def execAmin (d : GDst) (a : Src) (o : BitVec 8) (s : State) := atomicOp .amin d a o s
/-- AMAX. -/
def execAmax (d : GDst) (a : Src) (o : BitVec 8) (s : State) := atomicOp .amax d a o s
/-- AXCH. -/
def execAxch (d : GDst) (a : Src) (o : BitVec 8) (s : State) := atomicOp .axch d a o s

/-- The register after D. -/
def nextUse (d : Option Nat) : List Use := match d with | some n => [.g (n + 1)] | none => []

/-- The value of the register after D. -/
def nextVal (s : State) (d : Option Nat) : Word := match d with | some n => (me s).reg (n + 1) | none => 0

/-- ACAS (R340): g(N+1) is the new value; it is read and never written. -/
def execAcas (d : GDst) (a : Src) (o : BitVec 8) (s : State) : Host.Outcome State Fault Refusal :=
  finish 4 (issue s false (gdstUse s d ++ srcUse s a ++ nextUse (dstOf s d)) fun s =>
    syncOp .acas (dstOf s d) (gdstVal s d) (nextVal s (dstOf s d)) (effAddr (srcVal s a) o 8) s)

end Sys2Proof.Machine
end

