-- ==== Sys2Proof/Machine/Order.lean ====
section
/-! DEFINITION. Fences (R124 to R127, R342, R343), monitors and their waits (R148 to R151, R344, R345), tile semaphores (R152, R153,
R346). -/

namespace Sys2Proof.Machine

/-! ## Fences -/

/-- Whether a home lies in a fence's scope for an agent (R121): the own quad's banks, the own tile's mailbox, the LLC slices. -/
def inScope (a : Agent) (scope home : Nat) : Bool :=
  if 2000 ≤ home then decide (1 ≤ scope)
  else if 1000 ≤ home then decide (quadOfAgent a = some (home - 1000)) || decide (1 ≤ scope)
  else decide (2 ≤ scope)

/-- The strand of an agent as kicks and fabric writes record it: its ASID and party. -/
def identOf (s : State) (a : Agent) : Nat × Party := ((actorOf s a).asid, (actorOf s a).party)

/-- Engine operations that a strand kicked and that have not filled their mailbox (R124). -/
def kickedBy (s : State) (a : Agent) : Bool :=
  s.engines.any fun x => (x.2.op.any fun k => k.by_ == identOf s a) && !x.2.filled || x.2.queue.any fun k => k.by_ == identOf s a

/-- Fabric writes queued for a strand, its own and those of engine operations that it kicked (R126); for an engine hart those that its
operation has issued (R127). -/
def fabricOf (s : State) (a : Agent) : Bool :=
  (s.fabric.unacked ++ s.fabric.backlog).any fun u => if a.kind = .engine then u.engine == some a.unit else u.by_ == some (identOf s a)

/-- Whether a fence's waits are over. -/
def fenceOver (s : State) (a : Agent) (f : FenceRec) : Bool :=
  decide (f.slices = []) && decide (f.ready ≤ s.cycle)
    && !((waitingOf s a).any fun q => inScope a f.scope q.home)
    && !(s.reserved.any fun r => r.2.agent == a && inScope a f.scope r.2.home)
    && !meshWaits s a && !stagingWaits s a
    && (decide (f.scope = 0) || !signalPending s a)
    && (decide (f.scope < 3) || (!kickedBy s a && !fabricOf s a))

/-- The fence completes: masks clear for scopes d and s, the destination receives the status (R124). -/
def completeFence (s : State) (a : Agent) (f : FenceRec) : State :=
  let s := modStrand s a fun r =>
    let r := { r with fence := none, str := if 2 ≤ f.scope then { r.str with tsm0 := 0, tsm1 := 0, tsm2 := 0 } else r.str }
    match f.dst with | some n => r.setReg n (if f.lost then 12 else 0) | none => r
  match (strandOf s a).run with
  | .parked .fence => makeReady s a
  | _ => s

/-- Completes an agent's fence where its waits are over. -/
def pollFence (s : State) (a : Agent) : State :=
  match (strandOf s a).fence with
  | some f => if fenceOver s a f then completeFence s a f else s
  | none => s

/-- A fence of a scope issues: dirty lines are written back, probes are sent, the destination is empty until the last step. -/
def fenceOp (scope : Nat) (d : GDst) (s : State) : Host.Outcome State Fault Refusal :=
  finish 4 (issue s false (gdstUse s d) fun s => eventGate s <|
    let a := s.cur
    let t := sweepTime s (ownLine s a)
    let s := cleanMine s
    let ps := if a.kind = .compute ∧ 2 ≤ scope then touchedSlices (me s).str else []
    let s := ps.foldl (fun s p => post s (t + (if sameDie s a p then Config.lat.llcNear else Config.lat.llcFar)) (.fenceEcho a p)) s
    let s := modStrand s a fun r => { r with fence := some ⟨scope, dstOf s d, ps, s.cycle + t + 1, false⟩ }
    .done (emptyDst s (dstOf s d)))

/-- FENCE.q (R342). -/
def execFenceQ (d : GDst) (s : State) := fenceOp 0 d s
/-- FENCE.t. -/
def execFenceT (d : GDst) (s : State) := fenceOp 1 d s
/-- FENCE.d. -/
def execFenceD (d : GDst) (s : State) := fenceOp 2 d s
/-- FENCE.s. -/
def execFenceS (d : GDst) (s : State) := fenceOp 3 d s

/-- A slice's echo: the slice has performed every request sent before the probe; one that still waits in its list holds the echo back
(R125). The last echo lets the fence complete. -/
def execFenceEcho (a : Agent) (slice : Nat) (s : State) : Host.Outcome State Fault Refusal :=
  if (waitingOf s a).any fun q => q.home = slice then .next (post s 1 (.fenceEcho a slice))
  else
    .next (pollFence (modStrand s a fun r => { r with fence := r.fence.map fun f => { f with slices := f.slices.filter (· ≠ slice) } }) a)

/-! ## Monitors (R148, R149) -/

/-- Monitor entries of a home (R135). -/
def monitorEntries (home : Nat) : Nat := if home < 1000 then 256 else 64

/-- The slot's entry at its home is freed. -/
def dropMonitor (s : State) (a : Agent) (slot : Nat) : State :=
  { s with monitors := s.monitors.filter fun m => !(m.agent == a && m.slot == slot) }

/-- Whether a home has a free monitor entry. -/
def monitorFree (s : State) (home : Nat) : Bool := decide ((s.monitors.filter fun m => m.home = home).length < monitorEntries home)

/-- Arms a slot at the home of a location for the line of an address. -/
def armSlot (s : State) (a : Agent) (slot l : Nat) (va : Word) (hit : Bool) : State :=
  let s := { s with monitors := s.monitors ++ [⟨a, slot, l / 64, homeOf s l⟩] }
  modStrand s a fun r => { r with str := r.str.setMon slot (word (2 ^ 63 + (if hit then 2 ^ 62 else 0)) ||| (va &&& maskOf 55 6)) }

/-- MARM (R344, R148): the slot's earlier entry is freed first; status 1 when the home has no free entry. -/
def execMarm (d : GDst) (a : Src) (slot : Fin 4) (s : State) : Host.Outcome State Fault Refusal :=
  finish 4 (issue s (decide (s.cur.kind = .engine)) (gdstUse s d ++ srcUse s a) fun s =>
    let va := srcVal s a
    withAccess s .marm va 1 1 fun ps =>
      let l := partLoc ps
      let s := dropMonitor (noteParts s (myself s) ps) s.cur slot.val
      let s := modStrand s s.cur fun r => { r with str := r.str.disarm slot.val }
      if monitorFree s (homeOf s l) then .done (putDst (armSlot s s.cur slot.val l va false) (dstOf s d) 0)
      else .done (putDst s (dstOf s d) 1))

/-- MARM.dis (R344, R149). -/
def execMarmDis (d : GDst) (slot : Fin 4) (s : State) : Host.Outcome State Fault Refusal :=
  finish 4 (issue s (decide (s.cur.kind = .engine)) (gdstUse s d) fun s =>
    let s := dropMonitor s s.cur slot.val
    .done (putDst (modStrand s s.cur fun r => { r with str := r.str.disarm slot.val }) (dstOf s d) 0))

/-- The slots whose HIT is 1 (R150). -/
def hitSlots (r : StrRegs) : Nat :=
  ((positions 4 fun i => bit (r.mon i) 63 && bit (r.mon i) 62).map (2 ^ ·)).foldl (· + ·) 0

/-- Every HIT bit cleared. -/
def clearHits (r : StrRegs) : StrRegs :=
  { r with mon0 := setFld r.mon0 62 62 0, mon1 := setFld r.mon1 62 62 0, mon2 := setFld r.mon2 62 62 0, mon3 := setFld r.mon3 62 62 0 }

/-- Whether an asynchronous trap is pending that can be taken (R150, R419). -/
def canTakeAsync (r : Strand) : Bool :=
  (r.pending.timer || r.pending.preempt || r.pending.meshAlarm.isSome || r.pending.fabricLoss.isSome) && !inTrap r

/-- The result word of MWAIT (R150). -/
def mwaitWord (hits : Nat) (timeout interrupt resumed : Bool) : Word :=
  word (hits + (if timeout then 16 else 0) + (if interrupt then 32 else 0) + (if resumed then 64 else 0))

/-- Whether a waiting MWAIT returns without its timeout. -/
def mwaitReady (r : Strand) (resumed : Bool) : Bool := decide (hitSlots r.str ≠ 0) || canTakeAsync r || resumed

/-- MWAIT returns: the result word, HIT bits cleared, the strand READY. -/
def mwaitReturn (s : State) (a : Agent) (dst : Option Nat) (timeout resumed : Bool) : State :=
  let r := strandOf s a
  let w := mwaitWord (hitSlots r.str) timeout (canTakeAsync r) resumed
  let s := { s with sched := s.sched.filter fun e => match e.2 with | .mwaitTimeout b _ => b ≠ a | _ => true }
  let s := modStrand s a fun r => let r := { r with str := clearHits r.str }; match dst with | some n => r.setReg n w | none => r
  makeReady s a

/-- A slot that a halt left without an entry tries again (R151); its address is translated anew, by a walk that takes no time of its own (log
entry 33). -/
def rearm (s : State) (slot : Nat) : State :=
  let w := (me s).str.mon slot
  if bit w 63 && !(s.monitors.any fun m => m.agent == s.cur && m.slot == slot) then
    match access s (myself s) none .marm (fld w 55 6 * 64) 1 with
    | .ok ps => if monitorFree s (homeOf s (partLoc ps)) then armSlot s s.cur slot (partLoc ps) w (bit w 62) else s
    | .error _ => s
  else s

/-- MWAIT (R345, R150), its timeout counted in the strand's own cycles (R9): returns at once where its condition holds; else the strand leaves the rotation. -/
def execMwait (d : GDst) (a : Src) (s : State) : Host.Outcome State Fault Refusal :=
  finish 4 (issue s (decide (s.cur.kind = .engine)) (gdstUse s d ++ srcUse s a) fun s =>
    let t := mine s (srcVal s a).toNat
    let s := [0, 1, 2, 3].foldl rearm s
    let r := me s
    if mwaitReady r false then
      let w := mwaitWord (hitSlots r.str) false (canTakeAsync r) false
      .done (putDst (modStrand s s.cur fun r => { r with str := clearHits r.str }) (dstOf s d) w)
    else
      let s := parkAs (emptyDst s (dstOf s d)) s.cur .answer
      let s := modStrand s s.cur fun r => { r with run := .mwait (dstOf s d) false }
      .done (if t = 0 then s else post s t (.mwaitTimeout s.cur (s.cycle + t))))

/-- MWAIT's timeout (R150). -/
def execMwaitTimeout (a : Agent) (due : Nat) (s : State) : Host.Outcome State Fault Refusal :=
  match (strandOf s a).run with
  | .mwait dst resumed => .next (if due ≤ s.cycle then mwaitReturn s a dst true resumed else post s (due - s.cycle) (.mwaitTimeout a due))
  | _ => .next s

/-! ## Semaphores (R346) -/

/-- The index of a semaphore operand. -/
def semIndex (s : State) (a : Src) : Nat := fld (srcVal s a) 7 0

/-- SEMW (R346): parks until the count meets the threshold; D receives the value word. -/
def execSemw (d : GDst) (a b : Src) (s : State) : Host.Outcome State Fault Refusal :=
  finish 4 (issue s (onStack s) (gdstUse s d ++ srcUse s a ++ srcUse s b) fun s => eventGate s <|
    let i := semIndex s a
    let thr := fld (srcVal s b) 15 0
    if thr ≤ semCount s (semTile s) i then .done (later s (dstOf s d) (semOf s (semTile s) i) Config.lat.semRelease)
    else parkMe s (.sem (semTile s) i thr (some (dstOf s d))))

/-- SEMSIG (R346): D receives the value word after the change. -/
def execSemsig (d : GDst) (a b : Src) (s : State) : Host.Outcome State Fault Refusal :=
  finish 4 (issue s (onStack s) (gdstUse s d ++ srcUse s a ++ srcUse s b) fun s => eventGate s <|
    let i := semIndex s a
    let s := semSignal s (semTile s) i (fld (srcVal s b) 15 0)
    .done (later s (dstOf s d) (semOf s (semTile s) i) Config.lat.semRelease))

/-- SEMRD (R346). -/
def execSemrd (d : GDst) (a : Src) (s : State) : Host.Outcome State Fault Refusal :=
  finish 4 (issue s (onStack s) (gdstUse s d ++ srcUse s a) fun s => eventGate s <|
    .done (later s (dstOf s d) (semOf s (semTile s) (semIndex s a)) Config.lat.semRelease))

/-- SEMSET (R346): D receives the value word before the change. -/
def execSemset (d : GDst) (a b : Src) (s : State) : Host.Outcome State Fault Refusal :=
  finish 4 (issue s (onStack s) (gdstUse s d ++ srcUse s a ++ srcUse s b) fun s => eventGate s <|
    let i := semIndex s a
    let old := semOf s (semTile s) i
    .done (later (semPut s (semTile s) i (word (fld (srcVal s b) 15 0))) (dstOf s d) old Config.lat.semRelease))

end Sys2Proof.Machine
end

