-- ==== Sys2Proof/Machine/Strands.lean ====
section
/-! DEFINITION. The strand page: spawns, ends, bindings, ready queues, groups, traps and waits (R154 to R159, R200, R347, R404 to R412). -/

namespace Sys2Proof.Machine

/-! ## Spawn, end, yield (R405 to R407) -/

/-- SPAWN (R405): one launch is committed to the TDU's queue; a full queue parks the strand. -/
def execSpawn (d : GDst) (a b : Src) (s : State) : Host.Outcome State Fault Refusal :=
  finish 4 (issue s false (gdstUse s d ++ srcUse s a ++ srcUse s b) fun s =>
    if spawnCapacity ≤ s.tdu.spawns.length then parkMe s .spawnFull
    else
      let sp : Spawn := ⟨srcVal s a, srcVal s b, (myself s).asid, privOf s.cur (me s), none, 0, 0, s.cycle⟩
      .done (putDst (post { s with tdu := { s.tdu with spawns := s.tdu.spawns ++ [sp] } } Config.lat.tdu .placement) (dstOf s d) 0))

/-- Whether the waits of EXIT are over: no request waiting, the dispatch and mesh queues drained of the strand's instructions (R406). -/
def exitReady (s : State) (a : Agent) : Bool :=
  let c := coreOf s (coreKey a)
  decide (waitingOf s a = []) && !(c.dispatch.any fun v => v.by_ == a) && !(c.flying.any fun v => v.by_ == a) && !meshWaits s a

/-- EXIT (R406). -/
def execExit (a : Src) (s : State) : Host.Outcome State Fault Refusal :=
  finish 4 (issue s (inBody s) (srcUse s a) fun s => eventGate s <|
    if exitReady s s.cur then .hold (endStrand s s.cur 0 (srcVal s a).toNat .ends) else parkMe s .exitWait)

/-- YIELD (R407). -/
def execYield (s : State) : Host.Outcome State Fault Refusal :=
  finish 4 (issue s false [] fun s => .done (modCore s (coreKey s.cur) fun c =>
    { c with turns := c.turns.filter (· ≠ s.cur.ctx), yielded := sadd c.yielded s.cur.ctx }))

/-! ## Bindings (R157, R159, R408) -/

/-- Binding entries of the TDU (R157). -/
def bindingEntries : Nat := 16384

/-- TBIND (R408): makes or replaces a binding; a word already full and unbound is consumed at once (R159). -/
def execTbind (d : GDst) (a b : Src) (s : State) : Host.Outcome State Fault Refusal :=
  finish 4 (issue s false (gdstUse s d ++ srcUse s a ++ srcUse s b) fun s => eventGate s <|
    withAccess s .sync (srcVal s a) 8 8 fun ps =>
      let l := partLoc ps
      let rec_ := srcVal s b
      let bd : Binding := ⟨srcVal s a, (myself s).asid, rec_ &&& maskOf 63 6, bit rec_ 0, privOf s.cur (me s)⟩
      let bound := (mfind s.tdu.bindings l).isSome
      if !bound && decide (bindingEntries ≤ s.tdu.bindings.length) then .done (later s (dstOf s d) 4 Config.lat.tdu)
      else
        let s := { s with tdu := { s.tdu with bindings := mset s.tdu.bindings l bd } }
        let s := if !bound && isFull s l && !spawnPending s l then commitBound s l (homeWord s l) else s
        .done (later s (dstOf s d) 0 Config.lat.tdu))

/-- The binding of a word's address for the executing strand: by its location in a window, by VA and ASID elsewhere. -/
def bindingAt (s : State) (va : Word) : Option (Nat × Binding) :=
  match tableOf (some s.cur) va.toNat with
  | some none => s.tdu.bindings.find? fun x => decide (x.1 < 2 ^ 52) && x.2.va == va && decide (x.2.asid = (myself s).asid)
  | some (some q) => let l := scratchLoc q (va.toNat - winBase); (mfind s.tdu.bindings l).map fun b => (l, b)
  | none =>
    let o := va.toNat - winBase
    if 2 ^ 33 ≤ o ∧ o < 2 ^ 33 + 2 ^ 16 then let l := mailLoc (myTile s) (o - 2 ^ 33); (mfind s.tdu.bindings l).map fun b => (l, b) else none

/-- The location of the word that TBIND or TUNB names: in a window by its place, elsewhere by the spawn pending for its VA and ASID. -/
def pendingAt (s : State) (va : Word) : Option Nat :=
  (match tableOf (some s.cur) va.toNat with
    | some none => ((s.tdu.spawns ++ s.tdu.boundFull.filterMap fun (x : Nat × Option Spawn) => x.2).find? fun (p : Spawn) => p.at_ == va && decide (p.asid = (myself s).asid) && p.bound.any fun l => decide (l < 2 ^ 52)).bind (·.bound)
    | some (some q) => some (scratchLoc q (va.toNat - winBase))
    | none =>
      let o := va.toNat - winBase
      if 2 ^ 33 ≤ o ∧ o < 2 ^ 33 + 2 ^ 16 then some (mailLoc (myTile s) (o - 2 ^ 33)) else none).filter (spawnPending s)

/-- TUNB (R159, R408): completes after any pending spawn of the word has been placed, that of a ONCE binding gone at its commit too. -/
def execTunb (d : GDst) (a : Src) (s : State) : Host.Outcome State Fault Refusal :=
  finish 4 (issue s false (gdstUse s d ++ srcUse s a) fun s => eventGate s <|
    let va := srcVal s a
    if va.toNat % 8 ≠ 0 then .trap s { code := 4, va := va }
    else match pendingAt s va, bindingAt s va with
      | some l, _ => parkMe s (.binding l)
      | none, none => .done (later s (dstOf s d) 6 Config.lat.tdu)
      | none, some (l, _) => .done (later (serve { s with tdu := { s.tdu with bindings := mdel s.tdu.bindings l } } l) (dstOf s d) 0 Config.lat.tdu))

/-! ## Ready queues (R200, R409) -/

/-- Entries of one FIFO (R200). -/
def fifoDepth : Nat := 64

/-- The entries of a priority. -/
def fifoCount (c : Core) (p : Nat) : Nat := (c.rq.filter fun e => e.1 = p).length

/-- The entry that a take returns: the head of the highest non-empty FIFO, and the queues without it. -/
def rqHead (c : Core) : Option ((Nat × Word) × List (Nat × Word)) :=
  [3, 2, 1, 0].findSome? fun p => takeFirst (fun e : Nat × Word => e.1 == p) c.rq

/-- Two results that arrive together. -/
def deliverPair (s : State) (a : Agent) (n : Nat) (v w : Word) (t : Nat) : State :=
  post (modStrand s a fun r => (r.markEmpty n).markEmpty (n + 1)) t (.resultArrival a [(n, v), (n + 1, w)] 0 0)

/-- The first parked taker of a core takes the head of its queues; its instruction is done (R200). -/
def serveTaker (s : State) (core : Nat) : State :=
  let c := coreOf s core
  match c.takers, rqHead c with
  | (ctx, n) :: r, some ((p, v), q) =>
    let a : Agent := ⟨.compute, core, ctx⟩
    let s := modCore s core fun c => { c with takers := r, rq := q }
    makeReady (modStrand s a fun r => advanced ((r.setReg n v).setReg (n + 1) (word p)) 4) a
  | _, _ => s

/-- A put into a core's ready queue: status 0, or 1 when the FIFO is full, 2 when the core is not enabled (R409). -/
def rqPut (s : State) (core p : Nat) (v : Word) : Nat × State :=
  let c := coreOf s core
  if c.regcap = 0 then (2, s)
  else if fifoDepth ≤ fifoCount c p then (1, s)
  else (0, rouse (serveTaker (modCore s core fun c => { c with rq := c.rq ++ [(p, v)] }) core) ⟨.compute, core, 0⟩)

/-- RQPUT (R409). -/
def execRqput (d : GDst) (a b : Src) (s : State) : Host.Outcome State Fault Refusal :=
  finish 4 (issue s (onStack s) (gdstUse s d ++ srcUse s a ++ srcUse s b) fun s => eventGate s <|
    let w := srcVal s b
    let r := rqPut s (myTile s * 8 + fld w 2 0) (fld w 9 8) (srcVal s a)
    .done (later r.2 (dstOf s d) (word r.1) Config.lat.semRelease))

/-- A take: gN and g(N+1) are filled together (R409). -/
def rqTakeOp (wait : Bool) (d : GDst) (s : State) : Host.Outcome State Fault Refusal :=
  finish 4 (issue s (onStack s) (gdstUse s d ++ nextUse (dstOf s d)) fun s => eventGate s <|
    let core := coreKey s.cur
    let n := (dstOf s d).getD 0
    match rqHead (coreOf s core) with
    | some ((p, v), q) => .done (deliverPair (modCore s core fun c => { c with rq := q }) s.cur n v (word p) Config.lat.semRelease)
    | none =>
      if wait then parkMe (modCore s core fun c => { c with takers := c.takers ++ [(s.cur.ctx, n)] }) .rqtake
      else .done (deliverPair s s.cur n 0 0x100 Config.lat.semRelease))

/-- RQTAKE (R409). -/
def execRqtake (d : GDst) (s : State) := rqTakeOp false d s
/-- RQTAKE.w (R409). -/
def execRqtakeW (d : GDst) (s : State) := rqTakeOp true d s

/-! ## Groups (R154 to R156, R347) -/

/-- Groups of the device, memberships of an agent, members of a group (R154). -/
def groupEntries : Nat := 4096
/-- Memberships of one agent. -/
def membershipLimit : Nat := 4
/-- Members of one group. -/
def memberLimit : Nat := 65535

/-- JOIN (R347, R155): in a phase that has an arrival the new member counts from the next phase. DESIGN CHOICE (log entry 76): an id of 2^28 or
more, which names no group, is BADID here, in LEAVE and in GBAR, also where another code's condition would hold for it. -/
def execJoin (d : GDst) (a : Src) (s : State) : Host.Outcome State Fault Refusal :=
  finish 4 (issue s false (gdstUse s d ++ srcUse s a) fun s => eventGate s <|
    let id := (srcVal s a).toNat
    let k := groupKey (myself s).asid id
    let g := groupOf s k
    let ms := (g.map (·.members)).getD []
    let c := if 2 ^ 28 ≤ id then 5
      else lowestCode [(2, ms.any fun m => m.party == (me s).party),
        (3, decide (membershipLimit ≤ (groupsOf s (myself s).asid (me s).party).length) || decide (memberLimit ≤ ms.length)),
        (4, g.isNone && decide (groupEntries ≤ s.tdu.groups.length))]
    if c ≠ 0 then answerLater s (dstOf s d) (groupWord 0 c) Config.lat.tdu
    else
      let required := !(ms.any (·.arrived)) && decide ((g.map (·.gone)).getD 0 = 0)
      let m : Member := ⟨(me s).party, false, required, false, none, none⟩
      let g' : Group := { phase := (g.map (·.phase)).getD 0, members := ms ++ [m], gone := (g.map (·.gone)).getD 0 }
      answerLater (putGroup s k g') (dstOf s d) (groupWord 0 0) Config.lat.tdu)

/-- LEAVE (R347, R155). -/
def execLeave (d : GDst) (a : Src) (s : State) : Host.Outcome State Fault Refusal :=
  finish 4 (issue s false (gdstUse s d ++ srcUse s a) fun s => eventGate s <|
    let id := (srcVal s a).toNat
    let k := groupKey (myself s).asid id
    if 2 ^ 28 ≤ id then answerLater s (dstOf s d) (groupWord 0 5) Config.lat.tdu
    else if !isMember s (myself s).asid id (me s).party then answerLater s (dstOf s d) (groupWord 0 1) Config.lat.tdu
    else answerLater (leaveGroup s k (me s).party) (dstOf s d) (groupWord 0 0) Config.lat.tdu)

/-- A member's arrival: counted in the phase, or held for the next one (R156). -/
def arriveMember (s : State) (k : Nat) (p : Party) (dst : Option Nat) : State :=
  match groupOf s k with
  | none => s
  | some g =>
    let ms := g.members.map fun m =>
      if m.party = p then
        if m.required && !m.arrived then { m with arrived := true, dst := dst } else { m with held := true, heldDst := dst }
      else m
    putGroup s k { g with members := ms }

/-- GBAR (R347, R156): a member performs its implied FENCE.d, counts its arrival and parks until the phase completes. -/
def execGbar (d : GDst) (a : Src) (s : State) : Host.Outcome State Fault Refusal :=
  finish 4 (issue s false (gdstUse s d ++ srcUse s a) fun s => eventGate s <|
    let id := (srcVal s a).toNat
    let k := groupKey (myself s).asid id
    if 2 ^ 28 ≤ id then .done (later s (dstOf s d) (groupWord 0 5) Config.lat.tdu)
    else if !isMember s (myself s).asid id (me s).party then .done (later s (dstOf s d) (groupWord 0 1) Config.lat.tdu)
    else orderGate s <|
      let dst := dstOf s d
      let s := modStrand (emptyDst (fenceNow s s.cur) dst) s.cur fun r => advanced r 4
      let s := parkAs (arriveMember s k (me s).party dst) s.cur (.gbar k)
      .hold (runPhase 3 s k))

/-! ## Traps, returns, waits (R411, R412, R420) -/

/-- TRAP (R411): the software trap, with a[47:0] in INFO; the return PC is the next instruction. -/
def execTrap (a : Src) (s : State) : Host.Outcome State Fault Refusal :=
  finish 4 (issue s false (srcUse s a) fun s => .trap s { code := 11, info := fld (srcVal s a) 47 0, next := true })

/-- RFT (R411, R420): illegal at U, inside a body, and with a saved privilege above S outside the management core. -/
def execRft (s : State) : Host.Outcome State Fault Refusal :=
  finish 4 (issue s (decide (privOf s.cur (me s) = 0) || inBody s) [] fun s =>
    if s.cur.kind ≠ .mgmt ∧ 1 < fld (me s).str.txstat 9 8 then .trap s { code := 1 }
    else .hold (modStrand s s.cur (trapReturned s.cur)))

/-- HALT (R412): a management strand stops until it is restarted at the next instruction. -/
def execHalt (s : State) : Host.Outcome State Fault Refusal :=
  finish 4 (issue s (decide (privOf s.cur (me s) ≠ 2)) [] fun s =>
    let s := parkAs s s.cur .answer
    .done (modStrand s s.cur fun r => { r with run := .halted none }))

/-- WAIT (R412): leaves the rotation until an asynchronous trap can be taken or the timeout, in its own cycles (R9), expires. -/
def execWait (a : Src) (s : State) : Host.Outcome State Fault Refusal :=
  finish 4 (issue s false (srcUse s a) fun s =>
    let t := mine s (srcVal s a).toNat
    if canTakeAsync (me s) then .done s
    else
      let s := modStrand (parkAs s s.cur .answer) s.cur fun r => { r with run := .wait }
      .done (if t = 0 then s else post s t (.waitTimeout s.cur (s.cycle + t))))

/-- WAIT ends: its timeout goes with it. -/
def waitReturn (s : State) (a : Agent) : State :=
  makeReady { s with sched := s.sched.filter fun e => match e.2 with | .waitTimeout b _ => b ≠ a | _ => true } a

/-- WAIT's timeout (R412). -/
def execWaitTimeout (a : Agent) (due : Nat) (s : State) : Host.Outcome State Fault Refusal :=
  match (strandOf s a).run with
  | .wait => .next (if due ≤ s.cycle then waitReturn s a else post s (due - s.cycle) (.waitTimeout a due))
  | _ => .next s

end Sys2Proof.Machine
end

