-- ==== Sys2Proof/Machine/TokenOps.lean ====
section
/-! DEFINITION. Token instructions (R92 to R97, R348 to R354) and the completion of a transfer (R98). -/

namespace Sys2Proof.Machine

/-- Addresses of a token instruction: one with bits above 55 faults NONCANON, A before B (R348). -/
def canonical (s : State) : List Word → Res → Res
  | [], k => k
  | v :: r, k => if 2 ^ 56 ≤ v.toNat then .trap s { code := 5, va := v, xlate := some (xlateWord 1 0 0 v.toNat) } else canonical s r k

/-- What a token instruction checks before it is sent (R348): clauses, order after every earlier event, canonical addresses. -/
def tokenIssue (len : Nat) (d : GDst) (us : State → List Use) (c : Clauses) (vas : State → List Word) (k : State → Res) (s : State) :
    Host.Outcome State Fault Refusal :=
  finish len (issue s (clauseIllegal s c) (gdstUse s d ++ us s) fun s => waitClause s c <| orderGate s <| canonical s (vas s) (k s))

/-- The region of an address for the executing agent. -/
def myRegion (s : State) (va : Word) : Option (Nat × Entry) := regionFor s (myself s) va.toNat

/-! ## Operations at the home (R92) -/

/-- What an operation comes to at its entry's home: a transfer begins, or it is done and answered with a word. -/
inductive TokenResult where
  | transfer (key : Nat) (t : Transfer)
  | answer (s : State) (w : Word)

/-- An actor's operation on the region of an address (R94 to R97, R350 to R353). ENTRY of the status word is the entry operated on; for a
SPLIT that succeeds, the new upper entry; 0 where an address lies in no region. -/
def tokenAt (s : State) (x : Actor) (op : TokenOp) (va : Word) : TokenResult :=
  let r := regionFor s x va.toNat
  let key := r.map (·.1)
  let transferOr : Nat × Option Transfer → TokenResult
    | (_, some t) => .transfer (key.getD 0) t
    | (st, none) => .answer s (tokenWord key st)
  match op with
  | .lend b give => transferOr (lendStatus s x r b give)
  | .tret => transferOr (tretStatus s x r)
  | .share b => .answer (shareOp s x r b).2 (tokenWord key (shareOp s x r b).1)
  | .unshr n => .answer (unshrOp s x r n).2 (tokenWord key (unshrOp s x r n).1)
  | .split cut => .answer (splitOp s x r cut).2.2 (tokenWord (r.map fun _ => (splitOp s x r cut).2.1) (splitOp s x r cut).1)
  | .merge upper =>
    let r2 := regionFor s x upper.toNat
    .answer (mergeOp s x r r2).2 (tokenWord (if r2.isSome then key else none) (mergeOp s x r r2).1)
  | .tqry => .answer s (queryWord s x r)

/-- The entries that an operation names, a MERGE's two in increasing order. -/
def tokenKeys (s : State) (x : Actor) (op : TokenOp) (va : Word) : List Nat :=
  let k (v : Word) : List Nat := ((regionFor s x v.toNat).map (·.1)).toList
  match op with
  | .merge upper => let a := k va; let b := k upper; if a.headD 0 ≤ b.headD 0 then a ++ b else b ++ a
  | _ => k va

/-- Whether an operation on entries must wait: behind a transfer in progress, or behind an operation that reached the home before (R92). -/
def mustWait (s : State) (before : List (List Nat × TokenWait)) (keys : List Nat) : Bool :=
  keys.any fun k => (entryOf s k).transit || before.any fun q => q.1.contains k

/-- An operation joins those that wait. -/
def waitToken (s : State) (keys : List Nat) (w : TokenWait) : State := { s with tokenQueue := s.tokenQueue ++ [(keys, w)] }

/-- Whether a context still holds the strand of an ASID and party; a hart always does. -/
def holds (s : State) (a : Agent) (who : Nat × Party) : Bool :=
  decide (a.kind = .engine) || (decide ((strandOf s a).run ≠ .free) && decide ((strandOf s a).str.asid.toNat = who.1) && (strandOf s a).party == who.2)

/-- Where the strand that sent an operation is now: in its context, in another one, or in none. -/
def whereIs (s : State) (a : Agent) (who : Nat × Party) : Option Agent := if holds s a who then some a else contextOf s who.1 who.2

/-- A strand parked until an answer, or for a command's end, goes on. -/
def unparkAnswer (s : State) (a : Agent) : State := wakeIf s a fun p => p == .answer

/-- A signal for a partition whose live state is in shadow storage changes the saved count (R204). -/
def shadowSignal (s : State) (part t : Nat) (sig : Option (BitVec 8 × BitVec 4)) : State :=
  match sig, mfind s.tdu.shadows part with
  | some (j, k), some x =>
    let v := mget 0 (mget [] x.sems t) j.toNat
    let c := fld v 15 0 + k.toNat
    let w := if 65535 < c then word (65535 + 65536) else word (c + fld v 16 16 * 65536)
    { s with tdu := { s.tdu with shadows := mset s.tdu.shadows part { x with sems := mset x.sems t (mput 0 (mget [] x.sems t) j.toNat w) } } }
  | _, _ => s

/-- The strand of an operation that a halt took off its core gets the word where it is kept, and its signal is sent there (R204, R354); one
that has gone gets nothing (R133). -/
def answerAway (s : State) (a : Agent) (who : Nat × Party) (d : Option Nat) (v : Word) (sig : Option (BitVec 8 × BitVec 4)) : State :=
  match (s.tdu.shadows.find? fun x => x.2.strands.any fun y => y.2.party == who.2 && decide (y.2.str.asid.toNat = who.1)) with
  | none => s
  | some (part, _) =>
    let s := modParty s who.1 who.2 fun r =>
      let r := match d with | some n => r.setReg n v | none => r
      match r.run with | .halted (some .answer) => { r with run := .halted none } | _ => r
    shadowSignal s part ((tileOfAgent a).getD 18) sig

/-- The answer to a strand's operation, at once. -/
def answerNow (s : State) (a : Agent) (who : Nat × Party) (d : Option Nat) (v : Word) (sig : Option (BitVec 8 × BitVec 4)) : State :=
  match whereIs s a who with
  | some b => unparkAnswer (modStrand (sendSignal s b sig) b fun r => match d with | some n => r.setReg n v | none => r) b
  | none => answerAway s a who d v sig

/-- The answer to a strand's operation that is done at its home: it and the signal arrive when the operation is complete (R101, R349). -/
def answerToken (s : State) (a : Agent) (who : Nat × Party) (d : Option Nat) (v : Word) (sig : Option (BitVec 8 × BitVec 4)) : State :=
  match whereIs s a who with
  | some b => post s Config.lat.tokenOp (.resultArrival b (answerOf d v ++ signalOf sig) 0 0)
  | none => answerAway s a who d v sig

/-- A strand's operation is carried out at its entry's home. -/
def performToken (s : State) (a : Agent) (x : Actor) (op : TokenOp) (va : Word) (d : Option Nat) (sig : Option (BitVec 8 × BitVec 4)) : State :=
  match tokenAt s x op va with
  | .transfer key t => beginTransfer s key { t with who := some a, dst := d, sig := sig }
  | .answer s w => answerToken s a (x.asid, x.party) d w sig

/-- A strand's operation reaches its entry's home: it is carried out, or waits in order of arrival. -/
def sendToken (s : State) (a : Agent) (x : Actor) (op : TokenOp) (va : Word) (d : Option Nat) (sig : Option (BitVec 8 × BitVec 4)) : State :=
  if mustWait s s.tokenQueue (tokenKeys s x op va) then waitToken s (tokenKeys s x op va) (.strand a x op va d sig) else performToken s a x op va d sig

/-! ## The instructions -/

/-- No clauses. -/
def noClauses : Clauses := ⟨none, none⟩

/-- A token instruction (R348): its checks, then its operation is sent with the operands captured; the strand parks until the answer. -/
def tokenInstr (len : Nat) (d : GDst) (us : State → List Use) (c : Clauses) (vas : State → List Word) (op : State → TokenOp) (s : State) :
    Host.Outcome State Fault Refusal :=
  tokenIssue len d us c vas (fun s =>
    .done (parkAs (sendToken (emptyDst s (dstOf s d)) s.cur (myself s) (op s) ((vas s).headD 0) (dstOf s d) c.sig) s.cur .answer)) s

/-- LEND (R349). -/
def execLend (d : GDst) (a b : Src) (c : Clauses) (s : State) : Host.Outcome State Fault Refusal :=
  tokenInstr 8 d (fun s => srcUse s a ++ srcUse s b) c (fun s => [srcVal s a 8]) (fun s => .lend (srcVal s b 8) false) s
/-- LEND.give (R349). -/
def execLendGive (d : GDst) (a b : Src) (c : Clauses) (s : State) : Host.Outcome State Fault Refusal :=
  tokenInstr 8 d (fun s => srcUse s a ++ srcUse s b) c (fun s => [srcVal s a 8]) (fun s => .lend (srcVal s b 8) true) s
/-- TRET (R350). -/
def execTret (d : GDst) (a : Src) (s : State) : Host.Outcome State Fault Refusal :=
  tokenInstr 4 d (fun s => srcUse s a) noClauses (fun s => [srcVal s a]) (fun _ => .tret) s
/-- SHARE (R351). -/
def execShare (d : GDst) (a b : Src) (c : Clauses) (s : State) : Host.Outcome State Fault Refusal :=
  tokenInstr 8 d (fun s => srcUse s a ++ srcUse s b) c (fun s => [srcVal s a 8]) (fun s => .share (srcVal s b 8)) s
/-- UNSHR (R351). -/
def execUnshr (d : GDst) (a b : Src) (s : State) : Host.Outcome State Fault Refusal :=
  tokenInstr 4 d (fun s => srcUse s a ++ srcUse s b) noClauses (fun s => [srcVal s a]) (fun s => .unshr (fld (srcVal s b) 7 0)) s
/-- SPLIT (R352). -/
def execSplit (d : GDst) (a b : Src) (c : Clauses) (s : State) : Host.Outcome State Fault Refusal :=
  tokenInstr 8 d (fun s => srcUse s a ++ srcUse s b) c (fun s => [srcVal s a 8, srcVal s b 8]) (fun s => .split (srcVal s b 8)) s
/-- MERGE (R352). -/
def execMerge (d : GDst) (a b : Src) (c : Clauses) (s : State) : Host.Outcome State Fault Refusal :=
  tokenInstr 8 d (fun s => srcUse s a ++ srcUse s b) c (fun s => [srcVal s a 8, srcVal s b 8]) (fun s => .merge (srcVal s b 8)) s
/-- TQRY (R353). -/
def execTqry (d : GDst) (a : Src) (s : State) : Host.Outcome State Fault Refusal :=
  tokenInstr 4 d (fun s => srcUse s a) noClauses (fun s => [srcVal s a]) (fun _ => .tqry) s

/-- The status of a transfer reaches the strand that issued it, with its signal. -/
def reportTransfer (s : State) (key : Nat) (t : Transfer) : State :=
  match t.who with
  | none => s
  | some a => answerNow s a t.whose t.dst (tokenWord (some key) 0) t.sig

end Sys2Proof.Machine
end

