-- ==== Sys2Proof/Machine/System.lean ====
section
/-! DEFINITION. System registers: their numbers, access codes and privileges, and the writes that act (R10, R292, R293, R413 to R415,
and the rules named at each register). -/

namespace Sys2Proof.Machine

/-! ## Numbers (R292, R293) -/

/-- A system register of an owner by its index; a LINK register by its port. -/
inductive SysReg where
  | str (i : Nat) | core (i : Nat) | quad (i : Nat) | mesh (i : Nat) | dev (i : Nat) | link (p i : Nat)
deriving DecidableEq, Repr

/-- The register that a number names; none for a reserved owner, an unassigned index or a port above 47. -/
def sysRegOf (n : Nat) : Option SysReg :=
  let i := n % 4096
  match n / 4096 with
  | 0 => if i ≤ 0x1B ∨ i = 0x20 ∨ i = 0x21 then some (.str i) else none
  | 1 => if i ≤ 2 ∨ i = 0x40 ∨ i = 0x41 then some (.core i) else none
  | 2 => if 0x40 ≤ i ∧ i ≤ 0x43 then some (.quad i) else none
  | 4 => if i ≤ 5 then some (.mesh i) else none
  | 5 =>
    if i ≤ 4 ∨ (0x10 ≤ i ∧ i ≤ 0x17) ∨ (0x20 ≤ i ∧ i ≤ 0x2F) ∨ (0x40 ≤ i ∧ i ≤ 0x7F) ∨ (0x100 ≤ i ∧ i ≤ 0x107) ∨ (0x110 ≤ i ∧ i ≤ 0x115)
      ∨ (0x140 ≤ i ∧ i ≤ 0x17F) then some (.dev i) else none
  | 6 => if i / 64 ≤ 47 ∧ i % 64 ≤ 2 then some (.link (i / 64) (i % 64)) else none
  | _ => none

/-- The context whose unit's registers the owners STR to MESH name: the strand itself, or the selection of a management strand's own
STR.USEL (R413); none where the unit selected does not exist or is not enabled (R2). -/
def selectedUnit (s : State) : Option Agent :=
  if s.cur.kind = .mgmt then
    let u := (me s).str.usel
    let unit := fld u 23 16
    let core := fld u 15 8
    let ctx := fld u 5 0
    if unit < 18 ∧ core < 8 ∧ bit s.caps.tilemask unit then some ⟨.compute, unit * 8 + core, ctx⟩
    else if 0x80 ≤ unit ∧ unit < 0x80 + 12 ∧ core < 16 ∧ ctx < 16 ∧ bit s.caps.stack (unit - 0x80) then some ⟨.stack, (unit - 0x80) * 16 + core, ctx⟩
    else none
  else some s.cur

/-- The context whose registers an access reaches: STR.USEL and STR.TVEC are always the strand's own; a stack core has no quad, tile
or mesh (R292, R413). -/
def accessUnit (s : State) (r : SysReg) : Option Agent :=
  match r with
  | .str 0x21 | .str 3 | .dev _ | .link _ _ => some s.cur
  | .str _ | .core _ => selectedUnit s
  | .quad _ | .mesh _ => match selectedUnit s with
    | some a => if a.kind = .compute then some a else none
    | none => none

/-- Reads allowed at U (R414). -/
def readableAtU : SysReg → Bool
  | .dev i => decide (i ≤ 4)
  | .link _ _ => false
  | _ => true

/-- Writes allowed at U (R414): FPCTL, VFLAGS, SYNCRETRY, TIMER. -/
def writableAtU : SysReg → Bool
  | .str i => decide (i = 6) || decide (i = 7) || decide (i = 8) || decide (i = 0x20)
  | _ => false

/-! ## Reads -/

/-- The value of an STR register (R162: SCHED.LEASE shows the core's lease). -/
def strRead (s : State) (a : Agent) (i : Nat) : Word :=
  let r := (strandOf s a).str
  match i with
  | 0 => r.part
  | 1 => setFld r.sched 7 7 (if a.kind = .compute ∧ (coreOf s (coreKey a)).lease = some a.ctx then 1 else 0)
  | 2 => r.asid.setWidth 64 | 3 => r.tvec | 4 => r.xlate | 5 => r.holdf | 6 => r.fpctl | 7 => r.syncretry | 8 => r.timer | 9 => r.rep
  | 0xA => r.reppc | 0xB => r.mon0 | 0xC => r.mon1 | 0xD => r.mon2 | 0xE => r.mon3 | 0xF => r.hta | 0x10 => r.htb | 0x11 => 0
  | 0x12 => r.htr | 0x13 => r.tsm0 | 0x14 => r.tsm1 | 0x15 => r.tsm2 | 0x16 => r.tcause | 0x17 => r.txpc | 0x18 => r.txva
  | 0x19 => r.txrep | 0x1A => r.txreppc | 0x1B => r.txstat | 0x20 => r.vflags | _ => r.usel

/-- CORE.RQSTAT (R201). -/
def rqstatWord (c : Core) : Word :=
  word (fifoCount c 3 * 2 ^ 24 + fifoCount c 2 * 2 ^ 16 + fifoCount c 1 * 2 ^ 8 + fifoCount c 0)

/-- CORE.PQ (R463). -/
def pqWord (c : Core) : Word := word (c.sleepep * 2 ^ 48 + c.grant * 2 ^ 32 + c.level)

/-- QUAD.VF (R464). -/
def vfWord (q : Quad) : Word := word (q.mv * 2 ^ 32 + q.deepdly * 2 ^ 16 + q.gate * 2 ^ 8 + q.pt)

/-- QUAD.THROTTLE (R465). -/
def throttleWord (q : Quad) : Word := word (q.blocked * 2 ^ 16 + q.levelNew)

/-- QUAD.AGE (R469). -/
def ageWord (q : Quad) : Word := word ((if q.eol then 2 ^ 63 else 0) + q.gband * 2 ^ 40 + q.margin * 2 ^ 32 + q.drift)

/-- QUAD.TJ (R487). -/
def tjWord (q : Quad) : Word := word ((if q.hit then 2 ^ 63 else 0) + q.trip.toNat * 2 ^ 32 + q.temp.toNat)

/-- A flag as a field at a bit. -/
def bitAt (b : Bool) (n : Nat) : Nat := if b then 2 ^ n else 0

/-- The active bank of a mesh. -/
def activeBank (m : Mesh) : Bank := if m.active % 2 = 0 then m.bank0 else m.bank1

/-- MESH.STAT (R272). -/
def meshStatWord (m : Mesh) : Word :=
  word (bitAt m.retired 63 + bitAt m.recal 62 + m.active % 2 * 2 ^ 61 + bitAt m.bank1.valid 60 + bitAt m.bank0.valid 59 + m.spares % 8 * 2 ^ 56
    + (activeBank m).gen.toNat * 2 ^ 16)

/-- MESH.EBITS (R265). -/
def ebitsWord (m : Mesh) : Word := word (0x78 * 2 ^ 32 + 0x68 * 2 ^ 24 + m.diff * 2 ^ 8 + m.single)

/-- Trim columns on probes alone (R269). -/
def aloneCols (m : Mesh) : List Nat := positions 68 fun c => (mget {} m.trims c).excl == 3

/-- MESH.TSENS_DEGRADED (R269). -/
def degradedWord (m : Mesh) : Word :=
  word (bitAt (decide (aloneCols m ≠ [])) 63 + (aloneCols m).length * 2 ^ 56 + (aloneCols m).headD 0)

/-- MESH.SENSEDAT (R269). -/
def sensedatWord (m : Mesh) : Word :=
  let t := mget {} m.trims m.sensesel
  word (t.excl.toNat * 2 ^ 48 + t.tb.toNat * 2 ^ 16 + t.ta.toNat)

/-- Resident strands of a partition in a long wait, a pair as two, saturated (R190, R199, R432). -/
def waitersOf (s : State) (p : Nat) : Nat :=
  let rs := s.strands.filter fun (_, r) => decide (r.run ≠ .free) && decide (r.partition = p) && r.boost && decide (r.party ≠ 0) && (match r.run with | .parked _ => true | _ => false)
  min 255 (rs.length + (rs.filter fun x => x.2.pair.isSome).length)

/-- CARRIED of a port (R449): its own active channels less those lent out, and those lent in, by the lending in force (`lentOut` is
LENDTO × 16 + LENDN as of the last bring-up or retraining). -/
def carriedOf (s : State) (p : Nat) : Nat :=
  let port (i : Nat) : Port := mget {} s.fabric.ports i
  let inward := (positions 8 fun i => let q := p / 8 * 8 + i
    decide (q ≠ p) && decide ((port q).lentOut % 16 ≠ 0) && decide ((port q).lentOut / 16 = p % 8) && decide ((port q).state = 4)).map fun i =>
      (port (p / 8 * 8 + i)).lentOut % 16
  if (port p).state = 4 then popNat 10 (port p).active.toNat - (port p).lentOut % 16 + inward.foldl (· + ·) 0 else 0

/-- LINKp.STAT (R449). -/
def linkStatWord (s : State) (p : Nat) : Word :=
  let x := mget {} s.fabric.ports p
  word (x.state * 2 ^ 61 + x.locked.toNat * 2 ^ 48 + x.eyeok.toNat * 2 ^ 32 + x.active.toNat * 2 ^ 16 + min 16 (carriedOf s p))

/-- DEV.FSTAT (R430). -/
def fstatWord (f : FaultSide) : Word := word (f.fstate * 2 ^ 62 + f.cause * 2 ^ 40 + f.epoch.toNat * 2 ^ 16 + (if f.dumpok then 1 else 0))

/-- The value of a DEV register. -/
def devRead (s : State) (i : Nat) : Word :=
  if i ≤ 4 then [s.caps.tilemask, s.caps.llc, s.caps.core, s.caps.stack, s.caps.engine].getD i 0
  else if 0x20 ≤ i ∧ i ≤ 0x2F then mget 0 (if i % 2 = 0 then s.host.winVa else s.host.winCfg) ((i - 0x20) / 2)
  else if 0x40 ≤ i ∧ i ≤ 0x7F then setFld (mget 0 s.tdu.parts (i - 0x40)) 31 24 (waitersOf s (i - 0x40))
  else if 0x140 ≤ i then mget 0 s.fabric.fabmap (i - 0x140)
  else match i with
    | 0x10 => s.caps.memsplit | 0x11 => s.caps.asidtab | 0x15 => s.tdu.stat | 0x16 => s.tdu.arg | 0x17 => s.tdu.boost
    | 0x100 => s.faults.tvecdef | 0x101 => s.faults.pairctl | 0x102 => s.faults.flogbase | 0x103 => word s.faults.head
    | 0x104 => word s.faults.tail | 0x105 => word s.faults.lost | 0x106 => fstatWord s.faults | 0x107 => s.faults.note
    | 0x110 => s.fabric.chipid.setWidth 64 | 0x111 => word (s.fabric.tvprev * 16 + s.fabric.tv) | 0x112 => s.fabric.rtsel
    | 0x113 => let t := if bit s.fabric.rtsel 12 then s.fabric.shadow else s.fabric.routes
        (mget 0 t (fld s.fabric.rtsel 11 0)).setWidth 64
    | 0x114 => word s.fabric.fabdrop | 0x115 => s.host.p2pcfg
    | _ => 0

/-- The value of a system register of the unit that a context belongs to. -/
def sysRead (s : State) (a : Agent) (r : SysReg) : Word :=
  match r with
  | .str i => strRead s a i
  | .core i =>
    let c := coreOf s (coreKey a)
    match i with | 0 => c.regcap | 1 => c.qweight | 2 => rqstatWord c | 0x40 => pqWord c | _ => word c.vfreq
  | .quad i =>
    let q := quadOf s (a.unit / 4)
    match i with | 0x40 => vfWord q | 0x41 => throttleWord q | 0x42 => ageWord q | _ => tjWord q
  | .mesh i =>
    let m := (tileOf s (a.unit / 8)).mesh
    match i with
    | 0 => meshStatWord m | 1 => ebitsWord m | 2 => word m.ckcnt | 3 => degradedWord m | 4 => word m.sensesel | _ => sensedatWord m
  | .dev i => devRead s i
  | .link p i =>
    let x := mget {} s.fabric.ports p
    match i with
    | 0 => x.cfg | 1 => linkStatWord s p | _ => word (x.droptv * 2 ^ 48 + x.droptype * 2 ^ 32 + x.replay)

/-- The fields that a read clears (access code RC). -/
def clearRead (s : State) (a : Agent) (r : SysReg) : State :=
  match r with
  | .core 0x40 => modCore s (coreKey a) fun c => { c with sleepep := 0 }
  | .quad 0x41 => modQuad s (a.unit / 4) fun q => { q with blocked := 0 }
  | .mesh 2 => modMesh s (a.unit / 8) fun m => { m with ckcnt := 0 }
  | .dev 0x105 => { s with faults := { s.faults with lost := 0 } }
  | .dev 0x114 => { s with fabric := { s.fabric with fabdrop := 0 } }
  | .link p 2 =>
    { s with fabric := { s.fabric with ports := mset s.fabric.ports p { mget {} s.fabric.ports p with droptv := 0, droptype := 0, replay := 0 } } }
  | _ => s

/-- Whether a read waits: FPCTL until every earlier instruction that can raise a flag has completed (R237), VFLAGS until the strand's long-vector instructions have
completed (R360). -/
def readWaits (s : State) (r : SysReg) : Bool :=
  match r with
  | .str 6 => s.sched.any fun e => match e.2 with | .resultArrival b ds _ _ => b == s.cur && ds.any (fun x => x.1 == 194) | _ => false
  | .str 0x20 => let c := coreOf s (coreKey s.cur); (c.dispatch ++ c.flying).any fun v => v.by_ == s.cur
  | _ => false

/-- Whether a register number is one of R292's illegal ones for the executing agent: a reserved OWNER, an unassigned INDEX, a port above 47,
or a quad, tile or mesh register on a stack core. -/
def sysIllegal (s : State) (n : Nat) : Bool :=
  (sysRegOf n).isNone || (decide (s.cur.kind = .stack) && (n / 4096 == 2 || n / 4096 == 3 || n / 4096 == 4))

/-- SRR (R413): the result is written at once, in program order (R415). -/
def execSrr (d : GDst) (n : BitVec 16) (s : State) : Host.Outcome State Fault Refusal :=
  finish 4 (issue s (sysIllegal s n.toNat) (gdstUse s d) fun s =>
    match sysRegOf n.toNat with
    | none => .trap s { code := 1 }
    | some r =>
      match accessUnit s r with
      | none => .trap s { code := 1 }
      | some a =>
        if privOf s.cur (me s) = 0 ∧ !readableAtU r then .trap s { code := 1 }
        else if readWaits s r then retryMe s 1
        else .done (putDst (clearRead s a r) (dstOf s d) (sysRead s a r)))

/-! ## The host is lost (R446) -/

/-- The host is declared lost: its tokens are settled, its windows disabled, busy slots complete with PEERLOST. -/
def hostLost (s : State) : State :=
  let s := settle s none hostParty .lost
  { s with tokenQueue := (s.tokenQueue.filter fun q => match q.2 with | .slot .. => false | _ => true), host := { s.host with
      lost := true
      winCfg := s.host.winCfg.map fun (k, w) => (k, setFld w 63 63 0)
      liveCfg := s.host.liveCfg.map fun (k, w) => (k, setFld w 63 63 0)
      slots := s.host.slots.map fun (k, x) => (k, if x.done then x else { x with done := true, result := tokenWord none 12 }) } }

/-- Whether the host holds a region. -/
def hostHolds (s : State) : Bool := s.entries.any fun (_, e) => decide (e.state ≠ 0) && e.holder == hostParty

/-! ## Writes -/

/-- The fields of an STR register that a write at S or F may change, with those at F alone; other fields stay (R10, R414). -/
def strWritable (a : Agent) (f : Bool) (i : Nat) : Word :=
  match i with
  | 1 => maskOf 2 0 | 3 => maskOf 55 6 | 6 => maskOf 20 20 ||| maskOf 13 8 ||| maskOf 5 0 | 7 => maskOf 15 0 | 8 => maskOf 63 0
  | 0xF => maskOf 55 8 | 0x10 => maskOf 39 0 | 0x16 => maskOf 63 56 ||| maskOf 53 0 | 0x17 => maskOf 55 2 | 0x18 => maskOf 55 0
  | 0x19 => maskOf 63 63 ||| maskOf 59 28 ||| maskOf 6 0 | 0x1A => maskOf 55 2 | 0x1B => maskOf 63 63 ||| maskOf 9 8 | 0x20 => maskOf 5 0
  | 0x21 => if f ∧ a.kind = .mgmt then maskOf 23 8 ||| maskOf 5 0 else 0
  | _ => 0

/-- The STR registers with a register's writable fields set. -/
def strWritten (r : StrRegs) (i : Nat) (m v : Word) : StrRegs :=
  match i with
  | 1 => { r with sched := maskWord m r.sched v } | 3 => { r with tvec := maskWord m r.tvec v } | 6 => { r with fpctl := maskWord m r.fpctl v }
  | 7 => { r with syncretry := maskWord m r.syncretry v } | 8 => { r with timer := maskWord m r.timer v }
  | 0xF => { r with hta := maskWord m r.hta v } | 0x10 => { r with htb := maskWord m r.htb v }
  | 0x16 => { r with tcause := maskWord m r.tcause v } | 0x17 => { r with txpc := maskWord m r.txpc v }
  | 0x18 => { r with txva := maskWord m r.txva v } | 0x19 => { r with txrep := maskWord m r.txrep v }
  | 0x1A => { r with txreppc := maskWord m r.txreppc v } | 0x1B => { r with txstat := maskWord m r.txstat v }
  | 0x20 => { r with vflags := maskWord m r.vflags v } | 0x21 => { r with usel := maskWord m r.usel v }
  | _ => r

/-- Whether a timer write is an expiry at once: EN = 1 with COUNT = 0 (R202). -/
def timerAtOnce (v : Word) : Bool := bit v 63 && decide (fld v 31 0 = 0)

/-- The highest point that the cores of a quad request (R464); a quad whose guard band is exhausted stays at 4 at most (R470). -/
def requestedPoint (s : State) (q : Nat) : Nat :=
  let p := ([0, 1, 2, 3].map fun i => (coreOf s (q * 4 + i)).vfreq).foldl max 1
  if (quadOf s q).eol then min 4 p else p

/-- The voltage of a point with a guard band, in mV, halves dropped (log entry 38). -/
def pointVoltage (pt gband : Nat) : Nat := [550, 600, 650, 720, 800].getD (pt - 1) 800 + gband * 5 / 2

/-- The cycle in which something due at a cycle of a clock of f comes where the clock switches to g now: its own cycles still to come are the
same (R464). -/
def rescaled (f g now at_ : Nat) : Nat := if at_ ≤ now then at_ else now + ((at_ - now) * f + g - 1) / g

/-- What is scheduled in cycles of a quad's own, with the cycle in which it comes after the switch: timeouts, latencies of its cores and WVU. -/
def ownTimed (q : Nat) (at_ : Nat → Nat) (e : Nat × Instr) : Option (Nat × Instr) :=
  let on (a : Agent) : Bool := decide (a.kind = .compute) && decide (a.unit / 4 = q)
  match e.2 with
  | .mwaitTimeout a due => if on a then some (at_ e.1, .mwaitTimeout a (at_ due)) else none
  | .waitTimeout a due => if on a then some (at_ e.1, .waitTimeout a (at_ due)) else none
  | .resultArrival a ds _ _ => if on a && ds.any fun d => d.1 == 195 then some (at_ e.1, e.2) else none
  | .wvuComplete k => if k / 4 = q then some (at_ e.1, e.2) else none
  | _ => none

/-- The events with those of the quad's own cycles in their new places. -/
def retimed (q : Nat) (at_ : Nat → Nat) (sched : List (Nat × Instr)) : List (Nat × Instr) :=
  (sched.filterMap (ownTimed q at_)).foldl (fun l e => insertEvent l e.1 e.2) (sched.filter fun e => (ownTimed q at_ e).isNone)

/-- A quad's clock switches (R464): what counts in the quad's own cycles goes on in those of the new clock; its cycles since reset go on
counting (R465). -/
def switchClock (s : State) (q p : Nat) : State :=
  if (quadOf s q).pt = p then s
  else
    let a : Agent := ⟨.compute, 4 * q, 0⟩
    let t := modQuad s q fun x => { x with pt := p, clockAt := s.cycle, clockBase := ownIndex s a }
    let at_ := rescaled (clockOf s a) (clockOf t a) s.cycle
    let on (k : Nat) : Bool := decide ((agentOfKey k).kind = .compute) && decide ((agentOfKey k).unit / 4 = q)
    let t := modQuad t q fun x => { x with mmaFree := at_ x.mmaFree }
    { t with
      sched := retimed q at_ s.sched
      cores := t.cores.map fun x => (x.1, if x.1 / 4 = q then { x.2 with flying := x.2.flying.map fun v => { v with due := at_ v.due } } else x.2)
      strands := t.strands.map fun x => (x.1, if on x.1 then
        { x.2 with retryAt := at_ x.2.retryAt, fence := x.2.fence.map fun f => { f with ready := at_ f.ready } } else x.2) }

/-- The supply voltage of the point that a quad runs at (R464, R469). -/
def setVoltage (s : State) (q p : Nat) : State := modQuad s q fun x => { x with mv := pointVoltage p x.gband }

/-- The quad runs at a point, with its voltage. -/
def setPoint (s : State) (q p : Nat) : State := setVoltage (switchClock (modQuad s q fun x => { x with aim := p }) q p) q p

/-- A request that changes the highest point requested (R464): for a rise the voltage rises first and the clock switches 12 µs later, for a fall
the clock switches 1 µs later (log entry 4). -/
def requestPoint (s : State) (q : Nat) : State :=
  let p := requestedPoint s q
  if p = (quadOf s q).aim then s
  else
    let s := modQuad { s with sched := s.sched.filter fun e => e.2 != .opPointSwitch q } q fun x => { x with aim := p }
    if (quadOf s q).pt < p then post (setVoltage s q p) 30000 (.opPointSwitch q) else post s 2500 (.opPointSwitch q)

/-- A write to a CORE register. -/
def coreWrite (s : State) (a : Agent) (f : Bool) (i : Nat) (v : Word) : State :=
  match i with
  | 1 => modCore s (coreKey a) fun c => { c with qweight := maskWord (maskOf 31 0) c.qweight v }
  | 0x40 => if f then modCore s (coreKey a) fun c => { c with grant := min 4096 (fld v 47 32) } else s
  | 0x41 =>
    let p := fld v 2 0
    let s := modCore s (coreKey a) fun c => { c with vfreq := if p = 0 then 1 else min 5 p }
    if a.kind = .compute then requestPoint s (a.unit / 4) else s
  | _ => s

/-- A write to a QUAD register. -/
def quadWrite (s : State) (q : Nat) (f : Bool) (i : Nat) (v : Word) : State :=
  match i with
  | 0x40 => modQuad s q fun x => { x with deepdly := fld v 23 16 }
  | 0x41 => if f then modQuad s q fun x => { x with levelNew := min 6 (fld v 2 0) } else s
  | 0x43 => modQuad s q fun x =>
      { x with hit := x.hit && !bit v 63, trip := if f then BitVec.ofNat 16 (fld v 47 32) else x.trip }
  | _ => s

/-- The sum of channels that any port of a group would carry under its CFG registers (R450). -/
def groupFits (s : State) (p : Nat) (cfg : Word) : Bool :=
  let c (i : Nat) : Word := if i = p then cfg else (mget {} s.fabric.ports i).cfg
  (List.range 8).all fun i =>
    let q := p / 8 * 8 + i
    let own := popNat 10 (fld (c q) 9 0) - fld (c q) 50 47
    let inward := ((positions 8 fun j => decide (j ≠ i) && decide (fld (c (p / 8 * 8 + j)) 53 51 = i)).map fun j =>
      fld (c (p / 8 * 8 + j)) 50 47).foldl (· + ·) 0
    decide (own + inward ≤ 16)

/-- The ports that must train before a lending is in force (R450): the lender and the port lent to. -/
def lendPorts (p : Nat) (cfg : Word) : List Nat := sadd [p] (p / 8 * 8 + fld cfg 53 51)

/-- A write to LINKp.CFG (R449, R450): firmware's fields; a reserved LENDN or a group that would carry too much leaves the register as it was
(R11); a change of the lending waits for both ports concerned; the change of EN and a RETRAIN act by their events. A port that is not UP has
nothing to retrain: its bring-up goes on. -/
def linkWrite (s : State) (p : Nat) (f : Bool) (v : Word) : State :=
  let x := mget {} s.fabric.ports p
  let cfg := if f then maskWord (maskOf 63 63 ||| maskOf 53 47 ||| maskOf 21 12 ||| maskOf 9 0) x.cfg v else x.cfg
  if 8 < fld v 50 47 ∨ !groupFits s p cfg then s
  else
    let was := bit x.cfg 63
    let now := bit cfg 63
    let step := if now && !was then 1 else if was && !now then 2 else if bit v 62 && x.state == 4 then 3 else 0
    let wait := if fld cfg 53 47 = fld x.cfg 53 47 then x.lendWait else lendPorts p cfg
    let x := { x with cfg := cfg, lendWait := wait, step := if step = 0 then x.step else step, due := s.cycle }
    let s := { s with fabric := { s.fabric with ports := mset s.fabric.ports p x } }
    match step with
    | 1 => post s 0 .linkEnable
    | 2 => post s 0 .linkDisable
    | 3 => post s 0 .retrain
    | _ => s

/-- A plain RW write to a DEV register. -/
def devWrite (s : State) (f : Bool) (i : Nat) (v : Word) : State :=
  if 0x20 ≤ i ∧ i ≤ 0x2F then
    let n := (i - 0x20) / 2
    if i % 2 = 0 then { s with host := { s.host with winVa := mput 0 s.host.winVa n (v &&& maskOf 55 26) } }
    else
      let size := min 16384 (fld v 19 0)
      let s := { s with host := { s.host with winCfg := mput 0 s.host.winCfg n ((v &&& (maskOf 63 63 ||| maskOf 43 32)) ||| word size) } }
      if !(s.host.winCfg.any fun x => bit x.2 63) && hostHolds s then hostLost s else s
  else if 0x40 ≤ i ∧ i ≤ 0x7F then
    let w := mget 0 s.tdu.parts (i - 0x40)
    if fld w 63 62 = 0 then
      { s with tdu := { s.tdu with parts := mput 0 s.tdu.parts (i - 0x40) (maskWord (maskOf 59 48 ||| maskOf 43 32 ||| maskOf 15 0) w v) } }
    else s
  else if 0x140 ≤ i then
    { s with fabric := { s.fabric with fabmap := mput 0 s.fabric.fabmap (i - 0x140) (v &&& (maskOf 63 62 ||| maskOf 59 48 ||| maskOf 43 32 ||| maskOf 11 0)) } }
  else match i with
    -- F writes LOCAL during boot; afterwards the register is read-only (R25; log entry 22)
    | 0x10 =>
      if f ∧ s.faults.fstate = 2 ∧ fld v 25 16 ≤ 768 then { s with caps := { s.caps with memsplit := setFld s.caps.memsplit 25 16 (fld v 25 16) } } else s
    | 0x11 => { s with caps := { s.caps with asidtab := v &&& maskOf 51 15 } }
    | 0x16 => { s with tdu := { s.tdu with arg := v &&& maskOf 55 8 } }
    | 0x17 => { s with tdu := { s.tdu with boost := v &&& maskOf 31 0 } }
    | 0x100 => { s with faults := { s.faults with tvecdef := v &&& maskOf 55 6 } }
    | 0x101 => { s with faults := { s.faults with pairctl := v } }
    | 0x102 =>
      let s := { s with faults := { s.faults with flogbase := (v &&& maskOf 51 12) ||| word (min 10 (fld v 3 0)) } }
      post s 0 .flogBaseWrite
    | 0x104 => { s with faults := { s.faults with tail := fld v 31 0 } }
    | 0x107 => { s with faults := { s.faults with note := v &&& maskOf 55 3 } }
    | 0x110 => if f then { s with fabric := { s.fabric with chipid := BitVec.ofNat 12 (fld v 11 0) } } else s
    | 0x111 => if bit v 63 then post s 0 .commit else s
    | 0x112 => if f then { s with fabric := { s.fabric with rtsel := v &&& maskOf 12 0 } } else s
    | 0x113 =>
      if f ∧ bit s.fabric.rtsel 12 then
        { s with fabric := { s.fabric with shadow := mput 0 s.fabric.shadow (fld s.fabric.rtsel 11 0) (BitVec.ofNat 7 (fld v 6 0)) } }
      else s
    | 0x115 => { s with host := { s.host with p2pcfg := v &&& (maskOf 63 63 ||| maskOf 2 0) } }
    | _ => s

/-- The event that carries out a TLBINV command (R40). -/
def tlbinvEvent (w : Word) : Instr :=
  match fld w 63 62 with | 0 => .tlbinvPage | 1 => .tlbinvAsid | 2 => .tlbinvNonglobal | _ => .tlbinvAll

/-- The event that carries out an ICINV command (R60). -/
def icinvEvent (w : Word) : Instr := if bit w 63 then .icinvAll else .icinvLine

/-- The event that carries out a runtime command (R103). -/
def htEvent (w : Word) : Instr :=
  match fld w 3 0 with | 1 => .create | 2 => .destroy | 3 => .reclaim | 4 => .seize | _ => .htBadop

/-- The event that carries out a TDU command (R191). -/
def tduEvent (w : Word) : Instr :=
  match fld w 63 60 with
  | 1 => .tduAdmit | 2 => .preempt | 3 => .resume | 4 => .save | 5 => .restore | 6 => .release | 7 => .sizeq | _ => .badcmd

/-- Requests that the invalidation sequencer holds (R42). -/
def sequencerDepth : Nat := 16

/-- A command queued for a sequencer that carries out one at a time: its event follows when it is the first. -/
def queueCommand (s : State) (first : Bool) (d : Nat) (i : Instr) : State := if first then post s d i else s

/-- The effect of SRW on a register (R415): STR, CORE, QUAD and MESH registers at once, the commands of R40, R60, R103 and R191 with
the strand parked until they are done. -/
def sysWrite (s : State) (a : Agent) (r : SysReg) (v : Word) : Res :=
  let f := decide (privOf s.cur (me s) = 2)
  match r with
  | .str 0x11 => orderGate s (.done (parkAs (post { s with htCmds := s.htCmds ++ [(s.cur, a, v)] } Config.lat.tokenOp (htEvent v)) s.cur .command))
  | .str i =>
    let s' := modStrand s a fun x => { x with str := strWritten x.str i (strWritable a f i) v }
    .done (if i = 8 ∧ timerAtOnce v then post s' 0 (.strandTimerExpiry a) else s')
  | .core i => .done (coreWrite s a f i v)
  | .quad i => .done (quadWrite s (a.unit / 4) f i v)
  | .mesh 4 => .done (modMesh s (a.unit / 8) fun m => { m with sensesel := min 67 (fld v 6 0) })
  | .mesh _ => .done s
  | .dev 0x12 => orderGate s <|
    if sequencerDepth ≤ s.invalidations.length then parkMe s .sequencer
    else
      let s := cleanMine s
      .done (parkAs (queueCommand { s with invalidations := s.invalidations ++ [(s.cur, v)] } (decide (s.invalidations = [])) 1 (tlbinvEvent v)) s.cur
        .invalidation)
  | .dev 0x13 => orderGate s <|
    let s := cleanMine s
    .done (parkAs (queueCommand { s with icInvs := s.icInvs ++ [(s.cur, v)] } (decide (s.icInvs = [])) 1 (icinvEvent v)) s.cur .command)
  | .dev 0x14 => orderGate s <|
    let s := cleanMine s
    .done (parkAs (queueCommand { s with tdu := { s.tdu with commands := s.tdu.commands ++ [⟨s.cur, v⟩] } } (decide (s.tdu.commands = []))
      Config.lat.tdu (tduEvent v)) s.cur .command)
  | .dev i => orderGate s (.done (devWrite (cleanMine s) f i v))
  | .link p 0 => orderGate s (.done (linkWrite (cleanMine s) p f v))
  | .link _ _ => orderGate s (.done (cleanMine s))

/-- SRW (R413 to R415). -/
def execSrw (d : Src) (n : BitVec 16) (s : State) : Host.Outcome State Fault Refusal :=
  finish 4 (issue s (sysIllegal s n.toNat) (srcUse s d) fun s =>
    match sysRegOf n.toNat with
    | none => .trap s { code := 1 }
    | some r =>
      match accessUnit s r with
      | none => .trap s { code := 1 }
      | some a =>
        if privOf s.cur (me s) = 0 ∧ !writableAtU r then .trap s { code := 1 }
        else sysWrite s a r (srcVal s d))

end Sys2Proof.Machine
end

