-- ==== Sys2Proof/Machine/Vector.lean ====
section
/-! DEFINITION. Long-vector instructions (R176 to R178, R356 to R376). Their effects are performed as they enter the dispatch queue, in
queue order (log entry 20); the WVU starts them from the queues' heads, and results for general registers and flags follow at completion. -/

namespace Sys2Proof.Machine

/-! ## Dispatch (R178, R358) -/

/-- Instructions that a core's dispatch queue holds (R178). -/
def dispatchDepth : Nat := 16

/-- Whether the executing strand holds its core's lease (R176). -/
def holdsLease (s : State) : Bool := decide (s.cur.kind = .compute) && decide ((coreOf s (coreKey s.cur)).lease = some s.cur.ctx)

/-- The checks of a long-vector instruction: the lease, the registers, a place in the dispatch queue. -/
def vissue (s : State) (us : List Use) (k : State → Res) : Res :=
  issue s (!holdsLease s) us fun s => eventGate s <|
    if dispatchDepth ≤ (coreOf s (coreKey s.cur)).dispatch.length then retryMe s 1 else k s

/-- The registers of the bank among operands. -/
def lvsOf (us : List Use) : List Nat := us.filterMap fun u => match u with | .lv n => some n | _ => none

/-- The instruction enters its core's dispatch queue: the registers that it reads and writes, its latency, what it fills and its flags; its
kind and rows (R178, R376). -/
def vdone (s : State) (reads : List Use) (writes : List Nat) (lat : Nat) (gs : List (Nat × Word)) (fl : Flags) (kind rows : Nat) : Res :=
  .done (modCore s (coreKey s.cur) fun c => { c with dispatch := c.dispatch ++ [⟨s.cur, kind, rows, lat, lvsOf reads, writes, gs, fl, 0⟩] })

/-- Whether a core has nothing queued and nothing that executes. -/
def vectorIdle (c : Core) : Bool := decide (c.dispatch = []) && decide (c.flying = [])

/-- Whether the WVU may start an instruction of a core now (R358, R376): no earlier one that executes writes a register it reads, and the
interval of its kind is over. -/
def vectorReady (s : State) (c : Core) (tile q : Nat) (v : VecOp) : Bool :=
  v.kind ≠ 0 && !(c.flying.any fun f => f.writes.any v.reads.contains)
  && (v.kind != 2 || decide ((quadOf s q).mmaFree ≤ s.cycle)) && (v.kind != 3 || decide ((tileOf s tile).accFree ≤ s.cycle))

/-- The cores of a quad in the order in which the WVU looks at them (R178). -/
def wvuTurns (s : State) (q : Nat) : List Nat := (List.range 4).map fun i => 4 * q + ((quadOf s q).wvuNext + i) % 4

/-- The first of a quad's queues whose head is ready. -/
def wvuChoice (s : State) (q : Nat) : Option (Nat × VecOp) :=
  (wvuTurns s q).findSome? fun k => match (coreOf s k).dispatch with
    | v :: _ => if vectorReady s (coreOf s k) (q / 2) q v then some (k, v) else none
    | [] => none

/-- The WVU starts the head of a core's queue: it leaves the queue, its results come after its latency in the quad's cycles (R178, R376). -/
def wvuBegin (s : State) (q k : Nat) (v : VecOp) : State :=
  let d := ownCycles s ⟨.compute, k, 0⟩
  let s := modCore s k fun c => { c with dispatch := c.dispatch.drop 1, flying := c.flying ++ [{ v with due := s.cycle + d v.lat }] }
  let x := quadOf s q
  let s := { s with quads := mput {} s.quads q { x with wvuNext := (k + 1) % 4, mmaFree := if v.kind = 2 then s.cycle + d 4 else x.mmaFree } }
  let s := if v.kind = 3 then modTile s (q / 2) fun t => { t with accFree := s.cycle + d v.rows } else s
  let s := if v.gs = [] ∧ v.flags = 0 then s else post s (d v.lat) (.resultArrival v.by_ (v.gs ++ ownMark) 0 v.flags)
  post s (d v.lat) (.wvuComplete k)

/-- Releases the lease of every VEXIT (kind 0) that has reached the head of a core's dispatch queue; with the queue empty and everything
taken from it completed, a waiting VENTER is granted (R361). -/
def vexitHeads (core : Nat) : Nat → State → State
  | 0, s => s
  | n + 1, s =>
    let c := coreOf s core
    match c.dispatch with
    | v :: r =>
      if v.kind = 0 then vexitHeads core n (modCore s core fun c => { c with dispatch := r, lease := if c.lease = some v.by_.ctx then none else c.lease })
      else s
    | [] => if c.lease.isNone ∧ c.leaseQueue ≠ [] ∧ c.flying = [] then post s 1 (.leaseGrant core) else s

/-- The heads of a queue with enough fuel. -/
def drainVexits (s : State) (core : Nat) : State := vexitHeads core ((coreOf s core).dispatch.length + 1) s

/-- The WVU of a quad in one of its cycles: it starts one instruction (R178). -/
def wvuCycle (s : State) (q : Nat) : State :=
  match wvuChoice s q with
  | some (k, v) => drainVexits (wvuBegin s q k v) k
  | none => s

/-- A long-vector instruction completes (R178). -/
def execWvuComplete (core : Nat) (s : State) : Host.Outcome State Fault Refusal :=
  .next (drainVexits (modCore s core fun c => { c with flying := c.flying.filter fun v => decide (s.cycle < v.due) }) core)

/-- The lease goes to a context: the bank is cleared (R361). -/
def grantLease (s : State) (core ctx : Nat) : State := modCore s core fun c => { c with lease := some ctx, lv := [] }

/-- VENTER (R361). -/
def execVenter (s : State) : Host.Outcome State Fault Refusal :=
  finish 4 (issue s (holdsLease s) [] fun s => eventGate s <|
    let c := coreOf s (coreKey s.cur)
    if c.lease.isNone ∧ c.leaseQueue = [] ∧ vectorIdle c then .done (grantLease s (coreKey s.cur) s.cur.ctx)
    else
      let s := modCore s (coreKey s.cur) fun c => { c with leaseQueue := c.leaseQueue ++ [s.cur.ctx] }
      parkMe s .lease)

/-- The first parked VENTER of a core is granted the lease; it is done (R361). -/
def execLeaseGrant (core : Nat) (s : State) : Host.Outcome State Fault Refusal :=
  let c := coreOf s core
  match c.leaseQueue with
  | ctx :: r =>
    if c.lease.isSome ∨ !vectorIdle c then .next s
    else
      let a : Agent := ⟨.compute, core, ctx⟩
      .next (makeReady (modStrand (grantLease (modCore s core fun c => { c with leaseQueue := r }) core ctx) a fun x => advanced x 4) a)
  | [] => .next s

/-- VEXIT (R361): queued; the lease goes when it reaches the head. -/
def execVexit (s : State) : Host.Outcome State Fault Refusal :=
  finish 4 (vissue s [] fun s =>
    .done (drainVexits (modCore s (coreKey s.cur) fun c => { c with dispatch := c.dispatch ++ [⟨s.cur, 0, 0, 0, [], [], [], 0, 0⟩] }) (coreKey s.cur)))

/-! ## Loads and stores (R362) -/

/-- An operand that must lie in the own-quad scratchpad window: alignment, window (R332, R362, R380, R382). -/
def inScratch (s : State) (m : Mode) (va : Word) (n align : Nat) (k : Res) : Res :=
  if va.toNat % align ≠ 0 then .trap s { code := 4, va := va }
  else if 2 ^ 56 ≤ va.toNat then onBad s (xlateBad m (1, 0) va.toNat)
  else if va.toNat < winBase ∨ winBase + 2 ^ 23 ≤ va.toNat then onBad s (xlateBad m (9, 0) va.toNat)
  else if winBase + 2 ^ 23 < va.toNat + n then onBad s (xlateBad m (8, 0) (winBase + 2 ^ 23))
  else k

/-- An operand in the own-quad scratchpad, checked whole; a VST that the staging of an accepted pass holds back is retried (R363). -/
def withScratch (s : State) (m : Mode) (va : Word) (n align : Nat) (k : List Part → Res) : Res :=
  inScratch s m va n align <| match access s (myself s) (myTlb s) m va.toNat n with
    | .error b => onBad s b
    | .ok ps => if m = .store ∧ stagingHeld s ps then retryMe s 1 else k ps

/-- VLD (R362). -/
def execVld (d : LReg) (a : Src) (o : BitVec 8) (s : State) : Host.Outcome State Fault Refusal :=
  finish 4 (vissue s ([.lv (lregOf s d)] ++ srcUse s a) fun s =>
    withScratch s .load (effAddr (srcVal s a) o 512) 512 64 fun ps => consume s ps <|
      let r := readParts s (myself s) ps
      vdone (putLv r.2.2 (lregOf s d) (BitVec.ofNat 4096 (leNat r.1))) [] [lregOf s d] 14 [] 0 1 0)

/-- VST (R362). -/
def execVst (d : LReg) (a : Src) (o : BitVec 8) (s : State) : Host.Outcome State Fault Refusal :=
  finish 4 (vissue s ([.lv (lregOf s d)] ++ srcUse s a) fun s =>
    withScratch s .store (effAddr (srcVal s a) o 512) 512 64 fun ps =>
      vdone (writeParts s (myself s) ps (leBytes 512 (lvVal s (lregOf s d)).toNat)) [.lv (lregOf s d)] [] 14 [] 0 1 0)

/-! ## Element-wise instructions (R364 to R366) -/

/-- Lanes of a long-vector register as type t. -/
def lvLanes (s : State) (t : LTy) (n : Nat) : List Nat := let v := lvVal s n; (List.range t.lanes).map fun i => laneOf v t.width i

/-- A register of lanes. -/
def lvOf (t : LTy) (ls : List Nat) : BitVec 4096 := ofLanes 4096 t.width ls

/-- Writes lanes with flags and completes after the latency. -/
def vresult (s : State) (t : LTy) (reads : List Use) (d : Nat) (rs : List (Nat × Flags)) (lat : Nat) (kind : Nat := 1) : Res :=
  vdone (putLv s d (lvOf t (rs.map (·.1)))) reads [d] lat [] (flagsOf rs) kind 0

/-- Two lists element by element. -/
def zip2 {α β γ} (f : α → β → γ) : List α → List β → List γ
  | x :: xs, y :: ys => f x y :: zip2 f xs ys
  | _, _ => []

/-- The uses of an instruction with two lvsrc fields. -/
def vuses (s : State) (d : LReg) (a b : LSrc) : List Use := [.lv (lregOf s d)] ++ lsrcUse s a ++ lsrcUse s b

/-- An element-wise instruction. -/
def velem (f : Nat → Nat → Nat × Flags) (lat : Nat) (t : LTy) (d : LReg) (a b : LSrc) (s : State) : Host.Outcome State Fault Refusal :=
  finish 4 (vissue s (vuses s d a b) fun s => vresult s t (lsrcUse s a ++ lsrcUse s b) (lregOf s d) (zip2 f (lsrcLanes s t a) (lsrcLanes s t b)) lat)

/-- The integer that a lane of an integer type holds. -/
def laneInt (t : LTy) (c : Nat) : Int := signedOf t.width c

/-- A lane operation: on integers modulo 2^w, on floating point with the WVU's flush (R240, R359). -/
def laneOp (t : LTy) (fi : Int → Int → Int) (ff : FP → Num → Num → Nat × Flags) (x y : Nat) : Nat × Flags :=
  if t.fmt.isInt then (wrap t.width (fi (laneInt t x) (laneInt t y)), 0) else laneFlush t (ff t.fp (laneNum t x) (laneNum t y))

/-- A lane's code with the WVU's flush of operands. -/
def laneCode (t : LTy) (c : Nat) : Nat := if flushes t && t.fp.subnormal c then t.fp.zeroCode (c.testBit (t.fp.eb + t.fp.mb)) else c

/-- A lane's sum. -/
def laneAdd (t : LTy) (x y : Nat) : Nat × Flags := laneOp t (· + ·) (fun p u v => p.add .rn u v) x y

/-- A lane's minimum or maximum (R320). -/
def laneMinMax (mx : Bool) (t : LTy) (x y : Nat) : Nat × Flags :=
  if t.fmt.isInt then (wrap t.width (if mx then max (laneInt t x) (laneInt t y) else min (laneInt t x) (laneInt t y)), 0)
  else t.fp.minmax mx (laneCode t x) (laneCode t y) (laneNum t x) (laneNum t y)

/-- VADD (R364). -/
def execVadd (t : LTy) (d : LReg) (a b : LSrc) (s : State) := velem (laneAdd t) 6 t d a b s
/-- VSUB. -/
def execVsub (t : LTy) (d : LReg) (a b : LSrc) (s : State) :=
  velem (laneOp t (· - ·) fun p u v => p.add .rn u (if v.isNan then v else v.neg)) 6 t d a b s
/-- VMUL. -/
def execVmul (t : LTy) (d : LReg) (a b : LSrc) (s : State) := velem (laneOp t (· * ·) fun p u v => p.mul .rn u v) 6 t d a b s
/-- VMIN. -/
def execVmin (t : LTy) (d : LReg) (a b : LSrc) (s : State) := velem (laneMinMax false t) 6 t d a b s
/-- VMAX. -/
def execVmax (t : LTy) (d : LReg) (a b : LSrc) (s : State) := velem (laneMinMax true t) 6 t d a b s

/-- A lane of VFMA. -/
def laneFma (t : LTy) (x y z : Nat) : Nat × Flags :=
  if t.fmt.isInt then (wrap t.width (laneInt t x * laneInt t y + laneInt t z), 0)
  else laneFlush t (t.fp.fma .rn (laneNum t x) (laneNum t y) (laneNum t z))

/-- VFMA (R364). -/
def execVfma (t : LTy) (d : LReg) (a b : LSrc) (s : State) : Host.Outcome State Fault Refusal :=
  finish 4 (vissue s (vuses s d a b) fun s =>
    vresult s t (vuses s d a b) (lregOf s d)
      (zip2 (fun f z => f z) (zip2 (fun x y => laneFma t x y) (lsrcLanes s t a) (lsrcLanes s t b)) (lvLanes s t (lregOf s d))) 8)

/-- VCMP (R365). -/
def execVcmp (t : LTy) (d : LReg) (a b : LSrc) (s : State) :=
  velem (fun x y => (cmpMask (laneNum t x) (laneNum t y), if t.fmt.isInt then 0 else cmpFlags t.fp (laneNum t x) (laneNum t y))) 6 t d a b s

/-- VSEL (R365). -/
def execVsel (t : LTy) (d : LReg) (a b : LSrc) (s : State) : Host.Outcome State Fault Refusal :=
  finish 4 (vissue s (vuses s d a b) fun s =>
    let ls := zip2 (fun f z => f z) (zip2 (fun x y z => if z = 0 then y else x) (lsrcLanes s t a) (lsrcLanes s t b)) (lvLanes s t (lregOf s d))
    vdone (putLv s (lregOf s d) (lvOf t ls)) (vuses s d a b) [lregOf s d] 6 [] 0 1 0)

/-- VAND (R366). -/
def execVand (t : LTy) (d : LReg) (a b : LSrc) (s : State) := velem (fun x y => (x &&& y, 0)) 6 t d a b s
/-- VOR. -/
def execVor (t : LTy) (d : LReg) (a b : LSrc) (s : State) := velem (fun x y => (x ||| y, 0)) 6 t d a b s
/-- VXOR. -/
def execVxor (t : LTy) (d : LReg) (a b : LSrc) (s : State) := velem (fun x y => (x ^^^ y, 0)) 6 t d a b s

/-- A lane shifted by a signed count (R366). -/
def laneShift (t : LTy) (x c : Nat) : Nat :=
  let k := laneInt t c
  let w := t.width
  if 0 ≤ k then (if (w : Int) ≤ k then 0 else x * 2 ^ k.toNat % 2 ^ w) else wrap w (laneInt t x / (2 ^ (min w (-k).toNat) : Nat))

/-- VSHF (R366). -/
def execVshf (t : LTy) (d : LReg) (a b : LSrc) (s : State) := velem (fun x y => (laneShift t x y, 0)) 6 t d a b s

/-! ## Reductions, scans, permutation (R367, R368) -/

/-- identity(OP) of R367. -/
def scanIdentity (t : LTy) (op : ScanOp) : Nat :=
  if t.fmt.isInt then match op with | .add => 0 | .min => 2 ^ (t.width - 1) - 1 | .max => 2 ^ (t.width - 1)
  else match op with | .add => 0 | .min => t.fp.infCode false | .max => t.fp.infCode true

/-- Step(OP, r, a) of R367. -/
def scanStep (t : LTy) (op : ScanOp) (r x : Nat) : Nat × Flags :=
  match op with | .add => laneAdd t r x | .min => laneMinMax false t r x | .max => laneMinMax true t r x

/-- A group scanned from r: the outputs, the last value, the flags. -/
def scanGroup (t : LTy) (op : ScanOp) (ex : Bool) : List Nat → Nat → List Nat × Nat × Flags
  | [], r => ([], r, 0)
  | x :: xs, r =>
    let (r', f) := scanStep t op r x
    let (os, l, g) := scanGroup t op ex xs r'
    ((if ex then r else r') :: os, l, f ||| g)

/-- Groups of g lanes. -/
def groupsOfLanes (g : Nat) : Nat → List Nat → List (List Nat)
  | 0, _ => []
  | n + 1, ls => ls.take g :: groupsOfLanes g n (ls.drop g)

/-- The scan of every group. -/
def scanAll (t : LTy) (op : ScanOp) (ex : Bool) (g n : Nat) (ls : List Nat) : List (List Nat × Nat × Flags) :=
  (groupsOfLanes g n ls).map fun xs => scanGroup t op ex xs (scanIdentity t op)

/-- VRED (R367). -/
def execVred (t : LTy) (d : LReg) (a : LSrc) (lg : BitVec 4) (op : ScanOp) (s : State) : Host.Outcome State Fault Refusal :=
  finish 4 (vissue s ([.lv (lregOf s d)] ++ lsrcUse s a) fun s =>
    let g := 2 ^ lg.toNat
    let rs := scanAll t op false g (t.lanes / g) (lsrcLanes s t a)
    vdone (putLv s (lregOf s d) (lvOf t (rs.map fun r => r.2.1))) (lsrcUse s a) [lregOf s d] (4 + 2 * lg.toNat) [] (rs.foldl (fun f r => f ||| r.2.2) 0) 1 0)

/-- VSCAN (R367). -/
def execVscan (t : LTy) (d : LReg) (a : LSrc) (ex : Bool) (lg : BitVec 4) (op : ScanOp) (s : State) : Host.Outcome State Fault Refusal :=
  finish 4 (vissue s ([.lv (lregOf s d)] ++ lsrcUse s a) fun s =>
    let g := 2 ^ lg.toNat
    let rs := scanAll t op ex g (t.lanes / g) (lsrcLanes s t a)
    vdone (putLv s (lregOf s d) (lvOf t (rs.flatMap (·.1)))) (lsrcUse s a) [lregOf s d] (4 + 2 * lg.toNat) [] (rs.foldl (fun f r => f ||| r.2.2) 0) 1 0)

/-- VPERM (R368). -/
def execVperm (t : LTy) (d : LReg) (a b : LSrc) (s : State) : Host.Outcome State Fault Refusal :=
  finish 4 (vissue s (vuses s d a b) fun s =>
    let xs := (lsrcLanes s t a).toArray
    vdone (putLv s (lregOf s d) (lvOf t ((lsrcLanes s t b).map fun j => xs.getD j 0))) (lsrcUse s a ++ lsrcUse s b) [lregOf s d] 10 [] 0 1 0)

/-! ## Functions and conversions (R369 to R372) -/

/-- A lane of VSF. -/
def laneFun (t : LTy) (r : Rm) (n x : Nat) : Nat × Flags :=
  let p := t.fp
  let sign := 2 ^ (p.eb + p.mb)
  if n = 0 then (if x.testBit (p.eb + p.mb) then x - sign else x + sign, 0)
  else if n = 1 then (x % sign, 0)
  else if n = 2 then (p.classMask x, 0)
  else laneFlush t (if n = 3 then p.rint r (laneNum t x) else p.func r n (laneNum t x))

/-- VSF (R369). -/
def execVsf (t : LTy) (d : LReg) (a : LSrc) (r : Rm) (fn : BitVec 6) (s : State) : Host.Outcome State Fault Refusal :=
  finish 4 (vissue s ([.lv (lregOf s d)] ++ lsrcUse s a) fun s => vresult s t (lsrcUse s a) (lregOf s d) ((lsrcLanes s t a).map (laneFun t r fn.toNat)) 24)

/-- A lane converted (R370). -/
def laneCvt (x t : LTy) (r : Rm) (c : Nat) : Nat × Flags := laneFlush t (convert x.fmt t.fmt r (laneNum x c))

/-- The lanes lo to lo + n − 1 replaced. -/
def spliceLanes (old new : List Nat) (lo : Nat) : List Nat := old.take lo ++ new ++ old.drop (lo + new.length)

/-- VCVT (R370). -/
def execVcvt (t : LTy) (d : LReg) (a : LSrc) (x : LTy) (r : Rm) (part : BitVec 3) (s : State) : Host.Outcome State Fault Refusal :=
  finish 4 (vissue s ([.lv (lregOf s d)] ++ lsrcUse s a) fun s =>
    let src := lsrcLanes s x a
    let old := lvLanes s t (lregOf s d)
    if x.width < t.width then vresult s t (lsrcUse s a) (lregOf s d) (((src.drop (part.toNat * t.lanes)).take t.lanes).map (laneCvt x t r)) 12
    else
      let rs := src.map (laneCvt x t r)
      vdone (putLv s (lregOf s d) (lvOf t (spliceLanes old (rs.map (·.1)) (part.toNat * x.lanes)))) ([.lv (lregOf s d)] ++ lsrcUse s a) [lregOf s d] 12 [] (flagsOf rs) 1 0)

/-- The MX element format of an F field (R371). -/
def mxFmt (f : Fin 6) : Fmt := match f.val with | 0 => .e4m3 | 1 => .e5m2 | 2 => .e3m2 | 3 => .e2m3 | 4 => .e2m1 | _ => .mxi8

/-- Bytes of an element field of 32 elements (R225). -/
def mxBytes (f : Fmt) : Nat := f.width * 4

/-- Blocks of 32 lanes quantised. -/
def quantLanes (x : LTy) (f : Fmt) (r : Rm) (ls : List Nat) : List (Nat × List Nat × Flags) :=
  (groupsOfLanes 32 (x.lanes / 32) ls).map fun g => quantBlock x.fmt (g.map (laneNum x)) f r

/-- VQNT (R371). -/
def execVqnt (d : LReg) (a : LSrc) (x : LTy) (r : Rm) (f : Fin 6) (s : State) : Host.Outcome State Fault Refusal :=
  finish 4 (vissue s ([.lv (lregOf s d)] ++ lsrcUse s a) fun s =>
    let bs := quantLanes x (mxFmt f) r (lsrcLanes s x a)
    let w := (mxFmt f).width
    let fields := bs.foldr (fun b acc => b.2.1.foldr (fun c acc => c % 2 ^ w + acc * 2 ^ w) acc) 0
    let scales := bs.foldr (fun b acc => b.1 + acc * 256) 0
    vdone (putLv s (lregOf s d) (BitVec.ofNat 4096 (fields + scales * 2 ^ 3840))) (lsrcUse s a) [lregOf s d] 12 [] (bs.foldl (fun g b => g ||| b.2.2) 0) 1 0)

/-- The value of an MX element under a scale code (R224, R227). -/
def mxValue (f : Fmt) (scale c : Nat) : Num := if scale = 255 then .nan false (2 ^ 51) false else (f.value c).scale ((scale : Int) - 127)

/-- VDQ (R372). -/
def execVdq (t : LTy) (d : LReg) (a : LSrc) (r : Rm) (f : Fin 6) (s : State) : Host.Outcome State Fault Refusal :=
  finish 4 (vissue s ([.lv (lregOf s d)] ++ lsrcUse s a) fun s =>
    let v := lvOf t (lsrcLanes s t a)
    let w := (mxFmt f).width
    let rs := (List.range t.lanes).map fun i => laneFlush t (convert (mxFmt f) t.fmt r (mxValue (mxFmt f) (laneOf v 8 (480 + i / 32)) (laneOf v w i)))
    vresult s t (lsrcUse s a) (lregOf s d) rs 12)

/-! ## Dot products and the matrix multiply (R241, R373, R374) -/

/-- IDot of R241 at width 32. -/
def idot (sat : Bool) : List (Int × Int) → Int → Int × Flags
  | [], c => (c, 0)
  | (x, y) :: r, c =>
    let v := c + x * y
    if sat then
      let (u, o) := clamp (-2 ^ 31) (2 ^ 31 - 1) v
      let (w, f) := idot sat r u
      (w, f ||| flagIf flagIS o)
    else idot sat r (signedOf 32 (wrap 32 v))

/-- Products and an addend summed exactly and rounded once into binary32; ∞ and NaN as R373 says. -/
def fdot (c : Num) (ps : List (Num × Num)) : Nat × Flags :=
  let all := c :: ps.flatMap fun p => [p.1, p.2]
  let sig := all.any fun x => match x with | .nan _ _ g => g | _ => false
  let zeroInf := ps.any fun p => match p.1, p.2 with | .inf _, .fin _ 0 _ => true | .fin _ 0 _, .inf _ => true | _, _ => false
  let infs := (match c with | .inf s => [s] | _ => []) ++ ps.filterMap fun p => match p.1, p.2 with
    | .inf s, .inf t => some (s != t)
    | .inf s, .fin t m _ => if m = 0 then none else some (s != t)
    | .fin s m _, .inf t => if m = 0 then none else some (s != t)
    | _, _ => none
  let clash := infs.contains true && infs.contains false
  if all.any Num.isNan || zeroInf || clash then (fpF.defaultNan, flagIf flagNV (sig || zeroInf || clash))
  else match infs with
    | s :: _ => (fpF.infCode s, 0)
    | [] =>
      let terms := (match c with | .fin s m e => [(s, m, e)] | _ => []) ++ ps.map fun p => match p.1, p.2 with
        | .fin s m e, .fin t n f => (s != t, m * n, e + f)
        | _, _ => (false, 0, 0)
      let (v, e) := terms.foldl (fun (acc : Int × Int) (x : Bool × Nat × Int) =>
        addDyadic (decide (acc.1 < 0)) acc.1.natAbs acc.2 x.1 x.2.1 x.2.2) ((0 : Int), (0 : Int))
      if v = 0 then (fpF.zeroCode (terms.all fun x => x.2.1 = 0 && x.1), 0)
      else fpF.roundDyadic .rn false (decide (v < 0)) v.natAbs e

/-- VDOT (R373). -/
def execVdot (t : LTy) (d : LReg) (a : LReg) (x : LTy) (sat : Bool) (s : State) : Host.Outcome State Fault Refusal :=
  finish 4 (vissue s [.lv (lregOf s d), .lv (lregOf s a), .lv (lregOf s a + 1)] fun s =>
    let g := t.width / x.width
    let xs := groupsOfLanes g t.lanes (lvLanes s x (lregOf s a))
    let ys := groupsOfLanes g t.lanes (lvLanes s x (lregOf s a + 1))
    let ps := zip2 (fun u v => u.zip v) xs ys
    let rs := zip2 (fun c p =>
      if t.fmt.isInt then
        let r := idot sat (p.map fun q => (laneInt x q.1, laneInt x q.2)) (laneInt t c)
        (wrap 32 r.1, r.2)
      else laneFlush t (fdot (laneNum t c) (p.map fun q => (laneNum x q.1, laneNum x q.2)))) (lvLanes s t (lregOf s d)) ps
    vresult s t [.lv (lregOf s d), .lv (lregOf s a), .lv (lregOf s a + 1)] (lregOf s d) rs 12)

/-- The element types of a combination code of VMMA (R374). -/
def mmaTypes (c : Nat) : LTy × LTy :=
  match c with
  | 0 => (.bf, .bf) | 1 => (.e4m3, .e4m3) | 2 => (.e4m3, .e5m2) | 3 => (.e5m2, .e4m3) | 4 => (.e5m2, .e5m2) | _ => (.i8, .i8)

/-- VMMA (R374). -/
def execVmma (t : LTy) (d : LReg) (c : BitVec 3) (a b : LReg) (s : State) : Host.Outcome State Fault Refusal :=
  finish 4 (vissue s [.lv (lregOf s d), .lv (lregOf s a), .lv (lregOf s b), .lv (lregOf s b + 1)] fun s =>
    let (ta, tb) := mmaTypes c.toNat
    let k := 512 / ta.width
    let am := (lvLanes s ta (lregOf s a)).toArray
    let bm := (lvLanes s tb (lregOf s b) ++ lvLanes s tb (lregOf s b + 1)).toArray
    let dm := (lvLanes s t (lregOf s d)).toArray
    let rs := (List.range 128).map fun n =>
      let i := n / 16
      let j := n % 16
      if t.fmt.isInt then
        let r := idot (c.toNat == 6) ((List.range k).map fun x => (laneInt ta (am.getD (k * i + x) 0), laneInt tb (bm.getD (16 * x + j) 0)))
          (laneInt t (dm.getD n 0))
        (wrap 32 r.1, r.2)
      else laneFlush t (fdot (laneNum t (dm.getD n 0)) ((List.range k).map fun x =>
        (laneNum ta (am.getD (k * i + x) 0), laneNum tb (bm.getD (16 * x + j) 0))))
    vresult s t [.lv (lregOf s d), .lv (lregOf s a), .lv (lregOf s b), .lv (lregOf s b + 1)] (lregOf s d) rs 16 2)

/-! ## Moves (R375) -/

/-- VMOVG (R375). -/
def execVmovg (d : GDst) (a : LReg) (b : Src) (s : State) : Host.Outcome State Fault Refusal :=
  finish 4 (vissue s (gdstUse s d ++ [.lv (lregOf s a)] ++ srcUse s b) fun s =>
    let w := word (laneOf (lvVal s (lregOf s a)) 64 (fld (srcVal s b) 5 0))
    vdone (emptyDst s (dstOf s d)) [.lv (lregOf s a)] [] 8 (match dstOf s d with | some n => [(n, w)] | none => []) 0 1 0)

/-- VMOVV (R375). -/
def execVmovv (d : LReg) (a b : Src) (s : State) : Host.Outcome State Fault Refusal :=
  finish 4 (vissue s ([.lv (lregOf s d)] ++ srcUse s a ++ srcUse s b) fun s =>
    let v := lvVal s (lregOf s d)
    let k := fld (srcVal s b) 5 0
    let ls := (List.range 64).map fun i => if i = k then (srcVal s a).toNat else laneOf v 64 i
    vdone (putLv s (lregOf s d) (ofLanes 4096 64 ls)) [.lv (lregOf s d)] [lregOf s d] 6 [] 0 1 0)

end Sys2Proof.Machine
end

