-- ==== Sys2Proof/Machine/Stack.lean ====
section
/-! DEFINITION. The stack profile (R402, R403, R493). Results and flags follow at completion; a register waits for its result empty. -/

namespace Sys2Proof.Machine

/-! ## Shared forms -/

/-- The vector unit of a stack core takes an instruction: at once, or when the interval of the one before it is over; `gap` is its own
interval, in stack cycles. The device cycles that it waits, and the state (R493). -/
def svStart (s : State) (gap : Nat) : Nat × State :=
  let at_ := max s.cycle (coreOf s (coreKey s.cur)).svFree
  (at_ - s.cycle, modCore s (coreKey s.cur) fun c => { c with svFree := at_ + mine s gap })

/-- What an arrival brings for a stack-vector register: its sixteen words, under numbers from 512 on, and that it is full. -/
def svWords (n : Nat) (v : BitVec 1024) : List (Nat × Word) :=
  (List.range 16).map (fun i => (512 + 16 * n + i, word (laneOf v 64 i))) ++ [(svMark n, 0)]

/-- A result for a stack-vector register: empty at issue, written with its flags `lat` device cycles after the start (R402, R493). -/
def svLater (s : State) (d : Nat) (v : BitVec 1024) (fl : Flags) (gap lat : Nat) : Res :=
  let x := svStart (modStrand s s.cur fun r => r.markEmpty (svMark d)) gap
  .done (post x.2 (x.1 + lat) (.resultArrival s.cur (svWords d v) 0 fl))

/-- A stack-vector register of lanes. -/
def svOf (t : LTy) (ls : List Nat) : BitVec 1024 := ofLanes 1024 t.width ls

/-- An instruction that writes lanes with flags, its latency in stack cycles. -/
def svResult (s : State) (t : LTy) (d : Nat) (ls : List Nat) (fl : Flags) (lat : Nat) : Res := svLater s d (svOf t ls) fl 1 (mine s lat)

/-! ## Moves (R403) -/

/-- SVLD (R403): 128 bytes at an aligned address. -/
def execSvld (d : SvReg) (a : Src) (o : BitVec 8) (s : State) : Host.Outcome State Fault Refusal :=
  finish 4 (issue s false ([.sv (svregOf s d)] ++ srcUse s a) fun s => eventGate s <|
    withAccess s .load (effAddr (srcVal s a) o 128) 128 128 fun ps => consume s ps <|
      let r := readParts s (myself s) ps
      svLater r.2.2 (svregOf s d) (BitVec.ofNat 1024 (leNat r.1)) 0 1 (r.2.1 + mine s 2))

/-- SVST (R403). -/
def execSvst (d : SvReg) (a : Src) (o : BitVec 8) (s : State) : Host.Outcome State Fault Refusal :=
  finish 4 (issue s false ([.sv (svregOf s d)] ++ srcUse s a) fun s => eventGate s <|
    withAccess s .store (effAddr (srcVal s a) o 128) 128 128 fun ps =>
      .done (svStart (writeParts s (myself s) ps (leBytes 128 (svVal s (svregOf s d)).toNat)) 1).2)

/-- The addresses of a gather or scatter: a + 4 × S(lane i of the index register, `.i32`). -/
def laneVas (s : State) (base : Word) (i : Nat) : List Word :=
  (svLanesOf s .i32 i).map fun c => base + BitVec.ofInt 64 (4 * signedOf 32 c)

/-- Every lane's 4-byte access is checked, in lane order, before any is performed. -/
def laneParts (s : State) (m : Mode) : List Word → Except Bad (List (List Part))
  | [] => .ok []
  | va :: r =>
    match access s (myself s) (myTlb s) m va.toNat 4 with
    | .error b => .error b
    | .ok ps => match laneParts s m r with
      | .error b => .error b
      | .ok qs => .ok (ps :: qs)

/-- Loads of lanes in lane order: the lanes, the largest latency, the state. -/
def gatherLanes : List (List Part) → State → List Nat × Nat × State
  | [], s => ([], 0, s)
  | ps :: r, s =>
    let x := readParts s (myself s) ps
    let y := gatherLanes r x.2.2
    (leNat x.1 :: y.1, max x.2.1 y.2.1, y.2.2)

/-- Stores of lanes in lane order. -/
def scatterLanes : List (List Part) → List Nat → State → State
  | ps :: r, c :: cs, s => scatterLanes r cs (writeParts s (myself s) ps (leBytes 4 c))
  | _, _, s => s

/-- SGATH (R403). -/
def execSgath (t : LTy) (d : SvReg) (a : Src) (i : SvReg) (s : State) : Host.Outcome State Fault Refusal :=
  finish 4 (issue s false ([.sv (svregOf s d), .sv (svregOf s i)] ++ srcUse s a) fun s => eventGate s <|
    match laneParts s .load (laneVas s (srcVal s a) (svregOf s i)) with
    | .error b => onBad s b
    | .ok qs => consume s qs.flatten <|
      let r := gatherLanes qs s
      svLater r.2.2 (svregOf s d) (svOf t r.1) 0 32 (r.2.1 + mine s 32))

/-- SSCAT (R403): the highest lane wins where addresses repeat. -/
def execSscat (t : LTy) (d : SvReg) (a : Src) (i : SvReg) (s : State) : Host.Outcome State Fault Refusal :=
  finish 4 (issue s false ([.sv (svregOf s d), .sv (svregOf s i)] ++ srcUse s a) fun s => eventGate s <|
    match laneParts s .store (laneVas s (srcVal s a) (svregOf s i)) with
    | .error b => onBad s b
    | .ok qs => .done (svStart (scatterLanes qs (svLanesOf s t (svregOf s d)) s) 32).2)

/-! ## Scans, compression, arithmetic (R403) -/

/-- SSCAN (R403): the carry is taken from the low bits of a. -/
def execSscan (t : LTy) (d : SvReg) (a : Src) (ex : Bool) (op : ScanOp) (v : SvReg) (s : State) : Host.Outcome State Fault Refusal :=
  finish 4 (issue s false ([.sv (svregOf s d), .sv v.val] ++ srcUse s a) fun s =>
    let c := match a with | .k n => broadcast t (some n) 0 | a => (srcVal s a).toNat % 2 ^ t.width
    let r := scanGroup t op ex (svLanesOf s t v.val) c
    svResult s t (svregOf s d) r.1 r.2.2 (4 + Nat.log2 t.svLanes))

/-- SRED (R403): the inclusive scan of the last lane from the identity, written by R217. -/
def execSred (d : GDst) (a : SvReg) (t : LTy) (op : ScanOp) (s : State) : Host.Outcome State Fault Refusal :=
  finish 4 (issue s false (gdstUse s d ++ [.sv (svregOf s a)]) fun s =>
    let r := scanGroup t op false (svLanesOf s t (svregOf s a)) (scanIdentity t op)
    let gs := match dstOf s d with | some n => [(n, t.fmt.toReg r.2.1)] | none => []
    let x := svStart (emptyDst s (dstOf s d)) 1
    .done (if gs = [] ∧ r.2.2 = 0 then x.2 else post x.2 (x.1 + mine s (4 + Nat.log2 t.svLanes)) (.resultArrival s.cur gs 0 r.2.2)))

/-- Whether a lane, read as type t, is zero: subnormals of the flushed formats read as zeros (R240, R359). -/
def laneZero (t : LTy) (c : Nat) : Bool := match laneNum t c with | .fin _ 0 _ => true | _ => false

/-- SCMPR (R403): the selected lanes are packed from lane 0, the rest is zero. -/
def execScmpr (t : LTy) (d : SvReg) (a m : SvReg) (s : State) : Host.Outcome State Fault Refusal :=
  finish 4 (issue s false [.sv (svregOf s d), .sv (svregOf s a), .sv (svregOf s m)] fun s =>
    let ls := ((svLanesOf s t (svregOf s a)).zip (svLanesOf s t (svregOf s m))).filterMap fun x => if laneZero t x.2 then none else some x.1
    svResult s t (svregOf s d) ls 0 6)

/-- The lane operation of SVALU: exactly those of the long-vector instructions (R364, R366, R403). -/
def svLaneOp (t : LTy) (op : SvOp) (x y : Nat) : Nat × Flags :=
  match op with
  | .add => laneAdd t x y
  | .sub => laneOp t (· - ·) (fun p u v => p.add .rn u (if v.isNan then v else v.neg)) x y
  | .mul => laneOp t (· * ·) (fun p u v => p.mul .rn u v) x y
  | .min => laneMinMax false t x y
  | .max => laneMinMax true t x y
  | .and => (x &&& y, 0)
  | .or => (x ||| y, 0)
  | .xor => (x ^^^ y, 0)

/-- SVALU (R403). -/
def execSvalu (t : LTy) (op : SvOp) (d : SvReg) (a : SvReg) (b : SvSrc) (s : State) : Host.Outcome State Fault Refusal :=
  finish 4 (issue s false ([.sv (svregOf s d), .sv (svregOf s a)] ++ svsrcUse s b) fun s =>
    let rs := zip2 (svLaneOp t op) (svLanesOf s t (svregOf s a)) (svsrcLanes s t b)
    svResult s t (svregOf s d) (rs.map (·.1)) (flagsOf rs) (match op with | .mul => 6 | _ => 4))

/-! ## Histogram and sort (R403) -/

/-- The bins of SHIST: ⌊lane / 2^S⌋ mod 2^N, N at most 12. -/
def histBins (ls : List Nat) (b : Word) : List Nat := ls.map fun c => c / 2 ^ fld b 4 0 % 2 ^ min (fld b 11 8) 12

/-- Adds 1 to a 32-bit word of stack scratch modulo 2^32. -/
def bumpWord (k : Nat) (s : State) (o : Nat) : State :=
  homeStore s (stackLoc k o) (leBytes 4 (leNat (bytesBy (hbmByte s) (stackLoc k o) 4) + 1))

/-- SHIST (R403): a misaligned base, a bin outside stack scratch and a poisoned word are found before any increment. -/
def execShist (d : Src) (a : SvReg) (b : Src) (s : State) : Host.Outcome State Fault Refusal :=
  finish 4 (issue s false (srcUse s d ++ [.sv (svregOf s a)] ++ srcUse s b) fun s => eventGate s <|
    let base := srcVal s d
    let vas := (histBins (svLanesOf s .i32 (svregOf s a)) (srcVal s b)).map fun n => base + word (4 * n)
    if base.toNat % 4 ≠ 0 then .trap s { code := 4, va := base }
    else match vas.find? fun v => decide (v.toNat < winBase) || decide (winBase + 2 ^ 18 ≤ v.toNat) with
      | some v => onBad s (xlateBad .store (8, 0) v.toNat)
      | none =>
        match laneParts s .store vas with
        | .error b => onBad s b
        | .ok qs => consume s qs.flatten <| .done (svStart (vas.foldl (fun s v => bumpWord s.cur.unit s (v.toNat - winBase)) s) 32).2)

/-- The place of a lane in the total order of SSORT (R403): signed integers; −∞ < … < −0 < +0 < … < +∞ < NaN. -/
def sortKey (t : LTy) (c : Nat) : Int :=
  if t.fmt.isInt then laneInt t c
  else if (t.fp.value c).isNan then 2 ^ t.width
  else
    let m := c % 2 ^ (t.fp.eb + t.fp.mb)
    if c.testBit (t.fp.eb + t.fp.mb) then -(m : Int) - 1 else m

/-- Lane i after one comparison step of SSORT. -/
def sortLane (t : LTy) (xs : Array Nat) (k j : Nat) (desc : Bool) (i : Nat) : Nat :=
  let lo := if i.testBit j then i - 2 ^ j else i
  let x := xs.getD lo 0
  let y := xs.getD (lo + 2 ^ j) 0
  let swap := if lo.testBit k != desc then decide (sortKey t x < sortKey t y) else decide (sortKey t y < sortKey t x)
  if i.testBit j == swap then x else y

/-- SSORT (R403): one step of a bitonic sort; bits move unchanged. -/
def execSsort (t : LTy) (d : SvReg) (k : BitVec 8) (desc : Bool) (j : BitVec 4) (s : State) : Host.Outcome State Fault Refusal :=
  finish 4 (issue s false [.sv (svregOf s d)] fun s =>
    let xs := (svLanesOf s t (svregOf s d)).toArray
    svResult s t (svregOf s d) ((List.range t.svLanes).map (sortLane t xs k.toNat j.toNat desc)) 0 6)

end Sys2Proof.Machine
end

