-- ==== Sys2Proof/Machine/Arrivals.lean ====
section
/-! DEFINITION. Arrivals and completions of what strands have begun, and traps that arrive (R35, R98, R142 to R145, R165, R189, R199,
R202, R421, R426). -/

namespace Sys2Proof.Machine

/-! ## Walks and results -/

/-- What a walk brings a strand that waits for it: the translation, or its fault. -/
def walkBrought (unit asid vpage : Nat) (w : Except XErr (Word × Nat × List WalkEntry)) (r : Strand) : Strand :=
  match w with
  | .ok (leaf, size, _) => { r with walked := leafEntry unit asid (vpage * 2 ^ 16) leaf size :: r.walked, walkFault := none }
  | .error e => { r with walkFault := some (word vpage, xlateWord e.1 e.2 0 0) }

/-- The strands and harts that wait for a structure's walk of a page in an ASID (R34, R35). -/
def walkWaiters (s : State) (unit asid vpage : Nat) : List Agent :=
  (s.strands.filter fun (k, x) => let a := agentOfKey k
    decide (x.run = .parked (.walk vpage)) && decide (tlbUnit a = unit) && decide ((actorOf s a).asid = asid)).map fun x => agentOfKey x.1

/-- The engines whose operations wait for a structure's walk of a page in an ASID. -/
def walkEngines (s : State) (unit asid vpage : Nat) : List Nat :=
  (s.engines.filter fun (e, x) => decide (x.walking = some vpage) && decide (tlbUnit ⟨.engine, e, 0⟩ = unit) && x.op.any fun k => decide (k.asid = asid)).map (·.1)

/-- A walk returns (R33 to R35): its pointers enter the walk cache, and its translation, or its fault, reaches the strands and the engine
operations that wait for it; they attempt their accesses again, and an access that passes its checks is what
puts the translation into the TLBs. -/
def execWalkReturn (unit asid vpage : Nat) (s : State) : Host.Outcome State Fault Refusal :=
  let s := endWalk s unit asid vpage
  let w := walk s asid (vpage * 2 ^ 16)
  let s := match w with
    | .ok (_, _, ps) => cachePointers s ps
    | .error _ => s
  let s := (walkWaiters s unit asid vpage).foldl (fun s a => makeReady (modStrand s a (walkBrought unit asid vpage w)) a) s
  .next ((walkEngines s unit asid vpage).foldl (fun s e =>
    resumeRoutine (modEngine (modStrand s ⟨.engine, e, 0⟩ (walkBrought unit asid vpage w)) e fun x => { x with walking := none }) e 1) s)

/-- A strand with a word of a stack-vector register changed. -/
def Strand.setSvWord (r : Strand) (n i : Nat) (v : Word) : Strand :=
  let x : BitVec 1024 := mget 0 r.svs n
  { r with svs := mput 0 r.svs n (ofLanes 1024 64 (((List.range 16).map (laneOf x 64)).set i v.toNat)) }

/-- One thing that an arrival brings: a general register below number 192; from 512 on a word of a stack-vector register; from 256 on such
a register is full. -/
def arrival (r : Strand) (x : Nat × Word) : Strand :=
  if x.1 < 192 then r.setReg x.1 x.2
  else if x.1 < 256 then r
  else if x.1 < 512 then r.refill x.1
  else r.setSvWord ((x.1 - 512) / 16) ((x.1 - 512) % 16) x.2

/-- The registers and flags that an arrival brings. -/
def arrived (r : Strand) (ds : List (Nat × Word)) (fl vf : BitVec 6) : Strand :=
  let r := ds.foldl arrival r
  { r with str := { r.str with fpctl := r.str.fpctl ||| fl.setWidth 64, vflags := r.str.vflags ||| vf.setWidth 64 } }

/-- A delayed result arrives (R165): registers are written and full, flags are set (R306, R360), a signal that comes with it is sent, a
strand parked for it goes on. -/
def execResultArrival (a : Agent) (ds : List (Nat × Word)) (fl vf : BitVec 6) (s : State) : Host.Outcome State Fault Refusal :=
  let s := match ds.find? fun x => x.1 == 193 with
    | some (_, w) => sendSignal s a (some (BitVec.ofNat 8 (w.toNat / 16), BitVec.ofNat 4 w.toNat))
    | none => s
  let s := modStrand s a fun r => arrived r ds fl vf
  -- a result for a register of a deep-gated or spilling quad is a wake event (R468)
  let s := rouse s a
  .next (if ds.any fun x => x.1 == 192 then unparkAnswer s a else s)

/-- The answer to a peer's token request (R458): a TOKRSP that names the request's SEQ. -/
def answerPeer (s : State) (p : Packet) (w : Word) : State := queuePacket s p.src 1 4 p.asid (word p.seq) [w] none none

/-- A slot's operation is over (R445); one that the loss of the host has completed (R446) keeps its result. -/
def slotDone (s : State) (n : Nat) (w : Word) : State :=
  if (mget {} s.host.slots n : TokenSlot).done then s
  else { s with host := { s.host with slots := mset s.host.slots n { mget {} s.host.slots n with result := w, done := true } } }

/-- A transfer completes (R98): the entry is rewritten, TRANSIT clears, the status reaches its issuer; a SEIZE frees the share records
(R104) and its status goes to STR.HTR. -/
def execTransferComplete (key : Nat) (s : State) : Host.Outcome State Fault Refusal :=
  match mfind s.transfers key with
  | none => .next s
  | some t =>
    let s := applyTransfer s key t
    match t.runtime with
    | some ctx =>
      let s := modStrand (dropShares s key) ctx fun r => { r with str := { r.str with htr := tokenWord (some key) 0 } }
      .next (match t.who with | some a => wakeIf s a fun p => p == .command | none => s)
    | none =>
      let s := reportTransfer s key t
      .next (match t.via with
        | some (.peer p) => answerPeer s p (tokenWord (some key) 0)
        | some (.slot n) => slotDone s n (tokenWord (some key) 0)
        | none => s)

/-! ## Synchronisation -/

/-- The Fill of an atomic arrives at the word reserved for its agent (R145). -/
def execAtomicFill (a : Agent) (loc : Nat) (v : Word) (s : State) : Host.Outcome State Fault Refusal :=
  match mfind s.reserved loc with
  | some r => .next (if r.agent = a then finishAtomic s loc v else s)
  | none => .next s

/-- The TDU forwards the oldest listed request of a home (R142). -/
def execOverflowForward (home : Nat) (s : State) : Host.Outcome State Fault Refusal := .next (forwardOverflow s home)

/-- The TDU's own accesses in an ASID. -/
def tduActor (asid priv : Nat) : Actor := ⟨runtimeParty, asid, priv, .tdu, none⟩

/-- The TDU fills a report word (R189): a report that is misaligned, does not translate or fails its check is dropped, with a LAUNCH
record of reason 3; a BUSY answer is retried every 16 cycles (R143). -/
def execReportFill (asid : Nat) (va v : Word) (s : State) : Host.Outcome State Fault Refusal :=
  let dropped : State := record s 7 3 asid 0 0 va 3 0 0 0
  if va.toNat % 8 ≠ 0 then .next dropped
  else match access s (tduActor asid 1) none .sync va.toNat 8 with
    | .error _ => .next dropped
    | .ok ps =>
      match arrive s (requestAt s .tdu .fill (partLoc ps) (partNa ps) va asid v) with
      | (.busy, _) => .next (post s 16 (.reportFill asid va v))
      | (_, t) => .next t

/-! ## Timers, waits, traps -/

/-- STR.TIMER reaches 0 (R202): reload or stop, and the trap is pending. -/
def timerExpired (r : Strand) : Strand :=
  let w := r.str.timer
  { r with
    pending := { r.pending with timer := true }
    str := { r.str with timer := if bit w 62 then setFld w 31 0 (fld w 61 32) else setFld w 63 63 0 } }

/-- The strand timer expires (R202). -/
def execStrandTimerExpiry (a : Agent) (s : State) : Host.Outcome State Fault Refusal :=
  .next (if (strandOf s a).run = .free then s else modStrand s a timerExpired)

/-- Whether a park counts as a long wait (R199). -/
def longWaitPark (s : State) (a : Agent) : Park → Bool
  | .sem .. | .gbar _ | .requests => true
  | .regs ns => (waitingOf s a).any fun q => match q.dst with | some n => ns.contains n | none => false
  | _ => false

/-- A parked strand reaches THRESH cycles (R199). -/
def execLongWait (a : Agent) (s : State) : Host.Outcome State Fault Refusal :=
  match (strandOf s a).run with
  | .parked p => .next (if longWaitPark s a p then modStrand s a fun r => { r with boost := true } else s)
  | _ => .next s

/-- The pending asynchronous trap that is taken first (R421), and what stays pending. -/
def firstAsync (p : Pending) : Option (Trap × Pending) :=
  if p.preempt then some ({ code := 17 }, { p with preempt := false })
  else match p.fabricLoss with
  | some c => some ({ code := 19, info := c % 4096 }, { p with fabricLoss := none })
  | none => match p.meshAlarm with
    | some i => some ({ code := 18, info := i % 4 }, { p with meshAlarm := none })
    | none => if p.timer then some ({ code := 16 }, { p with timer := false }) else none

/-- Whether an atomic of an agent is between its Take and its Fill. -/
def betweenHalves (s : State) (a : Agent) : Bool := s.reserved.any fun x => x.2.agent == a

/-- Whether a park lets an asynchronous trap be taken (R421). -/
def parkYields : Park → Bool
  | .regs _ | .sem .. | .rqtake | .lease | .kickFull _ | .spawnFull | .exitWait | .gbar _ => true
  | _ => false

/-- A wait that holds its instruction at issue is withdrawn (R421): its place in the queue of takers or of the lease goes. -/
def withdrawWait (s : State) (a : Agent) : Park → State
  | .rqtake => modCore s (coreKey a) fun c => { c with takers := c.takers.filter fun t => t.1 ≠ a.ctx }
  | .lease => modCore s (coreKey a) fun c => { c with leaseQueue := c.leaseQueue.filter fun x => x ≠ a.ctx }
  | _ => s

/-- A pending asynchronous trap is taken (R419, R421), from the rotation or from a park that yields to it; it waits for the Fill of an
atomic whose Take has been performed (R145). -/
def execAsyncTrapEntry (a : Agent) (s : State) : Host.Outcome State Fault Refusal :=
  let r := strandOf s a
  match firstAsync r.pending with
  | none => .next s
  | some (t, rest) =>
    let go (s : State) : State := takeTrap (modStrand s a fun r => { r with pending := rest, clauseOk := false }) a t 0
    if inTrap r ∨ betweenHalves s a then .next s
    else match r.run with
      | .ready => .next (go s)
      | .parked p => .next (if parkYields p then go (makeReady (withdrawWait s a p) a) else s)
      | _ => .next s

/-! ## Errors (R426) -/

/-- A strand consumes an uncorrectable error: it is killed with cause 1 and the address consumed (R426, R427); with cause 5 where, as comes with
the event from outside, the WVU has met the error in one of its instructions after entry (R178). -/
def execErrorConsumed (a : Agent) (va : Word) (s : State) : Host.Outcome State Fault Refusal :=
  if (strandOf s a).run = .free then .next s
  else match s.inputs with
    | .figures [5] :: r => .next (killStrand { s with inputs := r } a 5 va)
    | _ => .next (killStrand s a 1 va)

end Sys2Proof.Machine
end

