-- ==== Sys2Proof/Machine/Hash.lean ====
section
/-! DEFINITION. The SM3 hash that stencils and images carry (R210, R245). The spec names the function; its steps are the published ones
(log entry 9). -/

namespace Sys2Proof.Machine

/-- A 32-bit word rotated left. -/
def rot32 (x : BitVec 32) (n : Nat) : BitVec 32 := x.rotateLeft (n % 32)

/-- The two permutations of SM3. -/
def smP0 (x : BitVec 32) : BitVec 32 := x ^^^ rot32 x 9 ^^^ rot32 x 17
/-- The second permutation. -/
def smP1 (x : BitVec 32) : BitVec 32 := x ^^^ rot32 x 15 ^^^ rot32 x 23

/-- The eight chaining words. -/
structure SmState where
  a : BitVec 32
  b : BitVec 32
  c : BitVec 32
  d : BitVec 32
  e : BitVec 32
  f : BitVec 32
  g : BitVec 32
  h : BitVec 32

/-- The initial value. -/
def smIv : SmState := ⟨0x7380166f, 0x4914b2b9, 0x172442d7, 0xda8a0600, 0xa96f30bc, 0x163138aa, 0xe38dee4d, 0xb0fb0e4e⟩

/-- One round. -/
def smRound (w : Array (BitVec 32)) (v : SmState) (j : Nat) : SmState :=
  let wj := w.getD j 0
  let wx := wj ^^^ w.getD (j + 4) 0
  let t : BitVec 32 := if j < 16 then 0x79cc4519 else 0x7a879d8a
  let s1 := rot32 (rot32 v.a 12 + v.e + rot32 t j) 7
  let s2 := s1 ^^^ rot32 v.a 12
  let ff := if j < 16 then v.a ^^^ v.b ^^^ v.c else (v.a &&& v.b) ||| (v.a &&& v.c) ||| (v.b &&& v.c)
  let gg := if j < 16 then v.e ^^^ v.f ^^^ v.g else (v.e &&& v.f) ||| (~~~v.e &&& v.g)
  ⟨ff + v.d + s2 + wx, v.a, rot32 v.b 9, v.c, smP0 (gg + v.h + s1 + wj), v.e, rot32 v.f 19, v.g⟩

/-- The words of a block are extended by n. -/
def smExpand : Nat → Array (BitVec 32) → Array (BitVec 32)
  | 0, w => w
  | n + 1, w =>
    let k := w.size
    let x (i : Nat) : BitVec 32 := w.getD (k - i) 0
    smExpand n (w.push (smP1 (x 16 ^^^ x 9 ^^^ rot32 (x 3) 15) ^^^ rot32 (x 13) 7 ^^^ x 6))

/-- One block of 64 bytes. -/
def smBlock (v : SmState) (bs : List Byte) : SmState :=
  let st := bs.toArray
  let be (i : Nat) : BitVec 32 := BitVec.ofNat 32 ((List.range 4).foldl (fun n k => n * 256 + (st.getD (4 * i + k) 0).toNat) 0)
  let w := smExpand 52 ((List.range 16).map be).toArray
  let r := (List.range 64).foldl (smRound w) v
  ⟨v.a ^^^ r.a, v.b ^^^ r.b, v.c ^^^ r.c, v.d ^^^ r.d, v.e ^^^ r.e, v.f ^^^ r.f, v.g ^^^ r.g, v.h ^^^ r.h⟩

/-- The blocks of a padded message. -/
def smBlocks : Nat → SmState → List Byte → SmState
  | 0, v, _ => v
  | n + 1, v, bs => smBlocks n (smBlock v (bs.take 64)) (bs.drop 64)

/-- The SM3 digest, as 32 bytes. -/
def sm3 (bs : List Byte) : List Byte :=
  let n := bs.length
  let len := (leBytes 8 (8 * n)).reverse
  let padded := bs ++ [0x80] ++ List.replicate ((119 - n % 64) % 64) 0 ++ len
  let v := smBlocks (padded.length / 64) smIv padded
  [v.a, v.b, v.c, v.d, v.e, v.f, v.g, v.h].flatMap fun x => (leBytes 4 x.toNat).reverse

end Sys2Proof.Machine
end

