-- ==== Sys2Proof/Machine/Optics.lean ====
section
/-! DEFINITION. What a stencil stands for and what the mesh computes with it (R228, R229, R231, R242 to R245, R254 to R257, R264):
the logical unitaries, the ideal ADC codes, the codes that the declared bound allows, input alignment, the accumulator update. -/

namespace Sys2Proof.Machine

/-! ## Stencil bytes (R244, R245) -/

/-- Sparse bytes from a key on, made dense. -/
def denseBytes : Nat → Nat → List (Nat × Byte) → List Byte
  | 0, _, _ => []
  | n + 1, k, [] => 0 :: denseBytes n (k + 1) []
  | n + 1, k, (j, b) :: r => if j = k then b :: denseBytes n (k + 1) r else 0 :: denseBytes n (k + 1) ((j, b) :: r)

/-- Dense bytes from a key on, made sparse. -/
def sparseBytes : Nat → List Byte → List (Nat × Byte)
  | _, [] => []
  | k, b :: r => if b = 0 then sparseBytes (k + 1) r else (k, b) :: sparseBytes (k + 1) r

/-- Bytes of a stencil. -/
def stencilSize : Nat := 16384

/-- A little-endian field of n bytes at an offset. -/
def fieldAt (st : Array Byte) (o n : Nat) : Nat := leNat ((List.range n).map fun i => st.getD (o + i) 0)

/-- The bytes that CHECK covers (R245). -/
def checkedBytes (bs : List Byte) : List Byte := bs.take 0x7C ++ bs.drop 0x80

/-- Validation of R247: 0, or the status of the first failing check. -/
def stencilStatus (bs : List Byte) : Nat :=
  let st := bs.toArray
  let bad := st.getD 0 0 != 1 || st.getD 1 0 != 64 || st.getD 3 0 != 0 || fieldAt st 0x0C 4 != 0 || fieldAt st 0x38 68 != 0
  let sw := fieldAt st 8 4
  if bad then 2
  else if crc32c (checkedBytes bs) ≠ fieldAt st 0x7C 4 then 3
  else if 2 ^ 31 ≤ sw ∨ sw / 2 ^ 23 = 255 then 4
  else 0

/-! ## Unitaries (R242, R243) -/

/-- Fraction bits of a cell's cosines and sines. -/
def cellBits : Nat := 48

/-- A cell: cosine and sine of θ and of φ, scaled by 2^48. -/
structure Cell where
  ct : Int
  st : Int
  cp : Int
  sp : Int

/-- Cosine and sine of 2π × P / 65,536, scaled. -/
def phaseOf (w : Nat) : Int × Int :=
  let k := (w + 8192) / 16384
  let x := piFix cellBits * ((w : Int) - 16384 * k) / 32768
  let c := cosFix cellBits x
  let d := sinFix cellBits x
  match k % 4 with
  | 0 => (c, d) | 1 => (-d, c) | 2 => (-c, -d) | _ => (d, -c)

/-- A cell from its phase words. -/
def cellOf (theta phi : Nat) : Cell := ⟨(phaseOf theta).1, (phaseOf theta).2, (phaseOf phi).1, (phaseOf phi).2⟩

/-- A complex amplitude, scaled by 2^32. -/
abbrev Amp := Int × Int

/-- A product with a scaled factor. -/
def scaled (c x : Int) : Int := c * x / (2 ^ cellBits : Nat)

/-- e^{iφ} times an amplitude. -/
def rotated (c : Cell) (x : Amp) : Amp := (scaled c.cp x.1 - scaled c.sp x.2, scaled c.sp x.1 + scaled c.cp x.2)

/-- A cell's outputs, or those of the transposed cell. -/
def cellPair (tr : Bool) (c : Cell) (x y : Amp) : Amp × Amp :=
  if tr then
    let r := rotated c (scaled c.ct x.1 + scaled c.st y.1, scaled c.ct x.2 + scaled c.st y.2)
    (r, (scaled c.ct y.1 - scaled c.st x.1, scaled c.ct y.2 - scaled c.st x.2))
  else
    let r := rotated c x
    ((scaled c.ct r.1 - scaled c.st y.1, scaled c.ct r.2 - scaled c.st y.2), (scaled c.st r.1 + scaled c.ct y.1, scaled c.st r.2 + scaled c.ct y.2))

/-- Cells on successive pairs of modes. -/
def cellPairs (tr : Bool) : List Cell → List Amp → List Amp
  | c :: cs, x :: y :: r => (cellPair tr c x y).1 :: (cellPair tr c x y).2 :: cellPairs tr cs r
  | _, r => r

/-- One column: an odd column starts at mode 1. -/
def columnStep (tr : Bool) (odd : Bool) (cs : List Cell) (v : List Amp) : List Amp :=
  match odd, v with
  | true, x :: r => x :: cellPairs tr cs r
  | _, v => cellPairs tr cs v

/-- The cells of each column, even ones 32 and odd ones 31. -/
def splitColumns : Nat → Bool → List Cell → List (Bool × List Cell)
  | 0, _, _ => []
  | n + 1, odd, cs => let k := if odd then 31 else 32; (odd, cs.take k) :: splitColumns n (!odd) (cs.drop k)

/-- What a bank stands for: the columns of V and U and s_k × SV_k. -/
structure Optic where
  v : List (Bool × List Cell)
  u : List (Bool × List Cell)
  sigma : List Int

/-- A section's cells from its offset. -/
def sectionCells (st : Array Byte) (o : Nat) : List Cell := (List.range 2016).map fun q => cellOf (fieldAt st (o + 4 * q) 2) (fieldAt st (o + 4 * q + 2) 2)

/-- The optics of a stencil. -/
def opticOf (bs : List Byte) : Optic :=
  let st := bs.toArray
  let sign := fieldAt st 0x10 8
  ⟨splitColumns 64 false (sectionCells st 0x80), splitColumns 64 false (sectionCells st 0x2000),
    (List.range 64).map fun k => (if sign.testBit k then -1 else 1) * (fieldAt st (0x3F80 + 2 * k) 2 : Nat)⟩

/-- A unitary applied, or its transpose. -/
def applyUnitary (tr : Bool) (cols : List (Bool × List Cell)) (v : List Amp) : List Amp :=
  (if tr then cols.reverse else cols).foldl (fun v c => columnStep tr c.1 c.2 v) v

/-- The ideal codes a*_j = 2 Re((M d)_j) or 2 Re((Mᵀ d)_j), scaled by 2^32. -/
def idealCodes (tr : Bool) (o : Optic) (d : List Int) : List Int :=
  let x := d.map fun k => (k * 2 ^ 32, (0 : Int))
  let y := applyUnitary tr (if tr then o.u else o.v) x
  let z := List.zipWith (fun (a : Amp) k => (a.1 * k / 65535, a.2 * k / 65535)) y o.sigma
  (applyUnitary tr (if tr then o.v else o.u) z).map fun a => 2 * a.1

/-! ## The declared bound (R264) -/

/-- ε(b) in ADC codes for b in sixteenths of a bit, scaled by 2^32 and rounded up. -/
def epsilon (b : Nat) : Int := (isqrt (isqrt (isqrt (isqrt (2032 ^ 16 * 2 ^ (512 - b))))) : Nat) + 1

/-- Margin for the rounding of the ideal codes: 2^-16 of a code, on the side of more behaviours. -/
def codeMargin : Int := 2 ^ 16

/-- The n-th choice between two bounds. -/
def chooseBetween (lo hi : Int) (n : Nat) : Int := if hi < lo then lo else lo + (n % ((hi - lo).toNat + 1) : Nat)

/-- Whole codes from x − e to x + e, both scaled by 2^32. -/
def codeRange (x e : Int) : Int × Int := (-((e + codeMargin - x) / 2 ^ 32), (x + e + codeMargin) / 2 ^ 32)

/-- A single-pass code within the bound, at most 12 bits wide (R229). -/
def adcCode (x e : Int) (n : Nat) : Int :=
  let r := codeRange x e
  chooseBetween (max (-2048) r.1) (min 2047 r.2) n

/-- The two codes of a differential pair: half their difference lies within the bound. -/
def adcPair (x e : Int) (n m : Nat) : Int × Int :=
  let r := codeRange (2 * x) (2 * e)
  let d := chooseBetween (max (-4095) r.1) (min 4095 r.2) n
  let a := chooseBetween (max (-2048) (d - 2048)) (min 2047 (d + 2047)) m
  (a, a - d)

/-- Whether a code is an end code (R257). -/
def isEndCode (a : Int) : Bool := decide (a = 2047) || decide (a = -2048)

/-! ## Input alignment (R254) -/

/-- A vector's DAC codes, aligned exponent, and the metadata flags CLIPIN and NANIN. -/
def alignVector (f : Fmt) (e0 e1 : Nat) (elems : List Nat) : List Int × Int × Nat :=
  let es := [e0, e1].filter (· ≠ 255)
  let big : Int := if es = [] then -127 else (es.foldl max 0 : Nat) - 127
  let x := max (-127) (min 127 (big + f.emax - 6))
  let one (p : Nat × Nat) : Int × Nat :=
    let e := if p.2 < 32 then e0 else e1
    if e = 255 then (0, 4)
    else match f.value p.1 with
      | .nan .. => (0, 4)
      | .inf s => (if s then -127 else 127, 8)
      | .fin s m k =>
        let k := k + e - 127
        let q := (roundInt .rn s m 1 (x - k)).1
        if 127 < q then (if s then -127 else 127, 8) else (if s then -(q : Int) else q, 0)
  let ds := (elems.zipIdx).map one
  (ds.map (·.1), x, ds.foldl (fun g d => g ||| d.2) 0)

/-! ## The accumulator (R230, R231) -/

/-- Largest accumulator magnitude that arithmetic leaves. -/
def accMax : Int := 2 ^ 95 - 1

/-- A sum clamped, and whether it saturated. -/
def accClamp (v : Int) : Int × Bool := if accMax < v then (accMax, true) else if v < -accMax then (-accMax, true) else (v, false)

/-- AccAdd (R231): code a (or a difference of codes, `half`), exponent x, stencil scale, tile exponent. -/
def accAdd (acc e a x : Int) (sw : Num) (half : Bool) : Int × Bool :=
  match sw with
  | .fin s m k =>
    let neg := decide (a < 0) != s
    let q := (roundInt .rn neg (a.natAbs * m) 1 (e - x - k + (if half then 1 else 0))).1
    accClamp (acc + (if neg then -(q : Int) else q))
  | _ => (acc, false)

end Sys2Proof.Machine
end

