-- ==== Sys2Proof/Machine/Stencil.lean ====
section
/-! DEFINITION. The arithmetic of the stencil engine (R242 to R245, R399, R400): binary32, each step rounded to nearest even, sums and
inner products formed exactly and rounded once. -/

namespace Sys2Proof.Machine

/-! ## Matrices of binary32 codes: element (r, c) at r × 64 + c -/

/-- A matrix of the work store as an array. -/
def matOf (m : List (Nat × BitVec 32)) : Array Nat := ((List.range 4096).map fun k => (mget 0 m k).toNat).toArray

/-- An array as a matrix of the work store. -/
def ofMat (a : Array Nat) : List (Nat × BitVec 32) :=
  (a.toList.zipIdx.filter fun x => x.1 % 2 ^ 32 ≠ 0).map fun x => (x.2, BitVec.ofNat 32 x.1)

/-- The identity. -/
def matId : Array Nat := ((List.range 4096).map fun k => if k / 64 = k % 64 then 0x3F800000 else 0).toArray

/-- The transpose. -/
def matT (a : Array Nat) : Array Nat := ((List.range 4096).map fun k => a.getD (k % 64 * 64 + k / 64) 0).toArray

/-- A binary32 code as a number. -/
def num32 (c : Nat) : Num := fpF.value c

/-- The arithmetic steps. -/
def add32 (a b : Nat) : Nat := (fpF.add .rn (num32 a) (num32 b)).1
/-- A difference. -/
def sub32 (a b : Nat) : Nat := (fpF.add .rn (num32 a) (num32 b).neg).1
/-- A product. -/
def mul32 (a b : Nat) : Nat := (fpF.mul .rn (num32 a) (num32 b)).1
/-- A quotient. -/
def div32 (a b : Nat) : Nat := (fpF.div .rn (num32 a) (num32 b)).1
/-- A square root. -/
def sqrt32 (a : Nat) : Nat := (fpF.sqrt .rn (num32 a)).1
/-- The magnitude. -/
def abs32 (a : Nat) : Nat := a % 2 ^ 31
/-- The negative. -/
def neg32 (a : Nat) : Nat := if a < 2 ^ 31 then a + 2 ^ 31 else a - 2 ^ 31
/-- An inner product, formed exactly and rounded once. -/
def dot32 (ps : List (Nat × Nat)) : Nat := (fdot (.fin false 0 0) (ps.map fun p => (num32 p.1, num32 p.2))).1
/-- 1.0. -/
def one32 : Nat := 0x3F800000
/-- Whether a code is a zero. -/
def zero32 (a : Nat) : Bool := decide (a % 2 ^ 31 = 0)

/-- Column k. -/
def colOf (a : Array Nat) (k : Nat) : List Nat := (List.range 64).map fun r => a.getD (r * 64 + k) 0

/-- Two columns replaced by combinations x·p + y·q of themselves. -/
def mixCols (a : Array Nat) (p q x y z w : Nat) : Array Nat :=
  (List.range 64).foldl (fun a r =>
    let u := a.getD (r * 64 + p) 0
    let v := a.getD (r * 64 + q) 0
    (a.setIfInBounds (r * 64 + p) (dot32 [(x, u), (y, v)])).setIfInBounds (r * 64 + q) (dot32 [(z, u), (w, v)])) a

/-! ## JROT (R400) -/

/-- The pairs of a round. -/
def jacobiPairs (r : Nat) : List (Nat × Nat) :=
  ((63, r) :: (List.range 31).map fun i => ((r + i + 1) % 63, (r + 62 - i) % 63)).map fun x => (min x.1 x.2, max x.1 x.2)

/-- One rotation of columns p and q of A and V; with the pair's measure μ. -/
def jacobiPair (a v : Array Nat) (p q : Nat) : Array Nat × Array Nat × Nat :=
  let cp := colOf a p
  let cq := colOf a q
  let al := dot32 (cp.zip cp)
  let be := dot32 (cq.zip cq)
  let ga := dot32 (cp.zip cq)
  let ab := mul32 al be
  let mu := if zero32 ab then 0 else div32 (abs32 ga) (sqrt32 ab)
  if zero32 ga then (a, v, mu)
  else
    let ze := div32 (sub32 be al) (mul32 0x40000000 ga)
    let t0 := div32 one32 (add32 (abs32 ze) (sqrt32 (dot32 [(one32, one32), (ze, ze)])))
    let t := if 2 ^ 31 < ze then neg32 t0 else t0
    let c := div32 one32 (sqrt32 (dot32 [(one32, one32), (t, t)]))
    let s := mul32 c t
    (mixCols a p q c (neg32 s) s c, mixCols v p q c (neg32 s) s c, mu)

/-- The greater of two non-negative codes. -/
def max32 (a b : Nat) : Nat := if a < b then b else a

/-- A round: A, V and the largest measure. -/
def jacobiRound (a v : Array Nat) (r : Nat) : Array Nat × Array Nat × Nat :=
  (jacobiPairs r).foldl (fun x pq =>
    let y := jacobiPair x.1 x.2.1 pq.1 pq.2
    (y.1, y.2.1, max32 x.2.2 y.2.2)) (a, v, 0)

/-- JROT on the work store. -/
def jrot (w : Work) (r : Nat) : Work × Nat :=
  let x := jacobiRound (matOf w.a) (matOf w.v) (r % 63)
  ({ w with a := ofMat x.1, v := ofMat x.2.1 }, x.2.2)

/-! ## SVNRM and PHQ (R400) -/

/-- Sets column k. -/
def setCol (u : Array Nat) (k : Nat) (c : List Nat) : Array Nat := (c.zipIdx).foldl (fun u x => u.setIfInBounds (x.2 * 64 + k) x.1) u

/-- e_k orthonormalised against columns (Gram–Schmidt). -/
def gramSchmidt (u : Array Nat) (done : List Nat) (k : Nat) : List Nat :=
  let v := (List.range 64).map fun r =>
    dot32 ((if r = k then one32 else 0, one32) :: done.map fun j => (neg32 (u.getD (k * 64 + j) 0), u.getD (r * 64 + j) 0))
  let n := sqrt32 (dot32 (v.zip v))
  v.map fun x => div32 x n

/-- U and the singular values. -/
def svNorm (a : Array Nat) : Array Nat × List Nat :=
  let sg := (List.range 64).map fun k => sqrt32 (dot32 ((colOf a k).zip (colOf a k)))
  let good := (List.range 64).filter fun k => !zero32 (sg.getD k 0)
  let u := good.foldl (fun u k => setCol u k ((colOf a k).map fun x => div32 x (sg.getD k 0))) a
  let r := (List.range 64).foldl (fun (x : Array Nat × List Nat) k =>
    if zero32 (sg.getD k 0) then (setCol x.1 k (gramSchmidt x.1 x.2 k), x.2 ++ [k]) else x) (u, good)
  (r.1, sg)

/-- The largest singular value. -/
def sigmaMax (w : Work) : Nat := (List.range 64).foldl (fun m k => max32 m (mget 0 w.sigma k).toNat) 0

/-- SVNRM on the work store. -/
def svnrm (w : Work) : Work × Nat :=
  let x := svNorm (matOf w.a)
  let w := { w with u := ofMat x.1, sigma := (x.2.zipIdx.filter fun y => y.1 ≠ 0).map fun y => (y.2, BitVec.ofNat 32 y.1) }
  (w, sigmaMax w)

/-- Bytes put into the stencil buffer. -/
def bufPut (w : Work) (o : Nat) (bs : List Byte) : Work :=
  { w with buffer := (bs.zipIdx).foldl (fun m x => mput 0 m (o + x.2) x.1) w.buffer }

/-- A quotient of magnitudes times n, rounded to nearest even. -/
def ratioOf (n a b : Nat) : Nat :=
  match num32 a, num32 b with
  | .fin _ m e, .fin _ k f =>
    if k = 0 then 0
    else let x := min e f; (roundInt .rn false (n * (m * 2 ^ (e - x).toNat)) (k * 2 ^ (f - x).toNat) 0).1
  | _, _ => 0

/-- PHQ on the work store: the phase sections, the singular-value words, SIGN and SW. -/
def phq (w : Work) : Work × Nat :=
  let mx := sigmaMax w
  let w := (List.range 2016).foldl (fun w q =>
    let w := bufPut w (0x80 + 4 * q) (leBytes 4 ((mget 0 w.phases (2 * q)).toNat + (mget 0 w.phases (2 * q + 1)).toNat * 65536))
    bufPut w (0x2000 + 4 * q) (leBytes 4 ((mget 0 w.phases (4032 + 2 * q)).toNat + (mget 0 w.phases (4032 + 2 * q + 1)).toNat * 65536))) w
  let w := (List.range 64).foldl (fun w k => bufPut w (0x3F80 + 2 * k) (leBytes 2 (ratioOf 65535 (mget 0 w.sigma k).toNat mx))) w
  let w := bufPut w 0x10 (wordBytes w.sign)
  (bufPut w 8 (leBytes 4 (mul32 mx 0x3F000000)), mx)

/-! ## GPHASE (R400) -/

/-- atan t × 2^p for 0 ≤ t ≤ 2^p, by the Taylor series after two halvings of the angle. -/
def atanLoop (p : Nat) (t2 : Int) : Nat → Int → Nat → Int → Int
  | 0, _, _, acc => acc
  | f + 1, t, k, acc => if t = 0 then acc else atanLoop p t2 f (-(t * t2 / (2 ^ p : Nat))) (k + 2) (acc + t / (k : Int))

/-- tan of half the angle, in fixed point. -/
def halfTan (p : Nat) (t : Int) : Int :=
  let one : Int := (2 ^ p : Nat)
  t * one / (one + (isqrt (one * one + t * t).toNat : Nat))

/-- atan of a fixed-point number in [0, 1]. -/
def atanFix (p : Nat) (t : Int) : Int :=
  let h := halfTan p (halfTan p t)
  4 * atanLoop p (h * h / (2 ^ p : Nat)) (p + 2) h 1 0

/-- atan (m / k) × 2^p for m, k not both zero. -/
def atanRatio (p m k : Nat) : Int :=
  if m ≤ k then atanFix p ((m * 2 ^ p / k : Nat) : Int) else piFix p / 2 - atanFix p ((k * 2 ^ p / m : Nat) : Int)

/-- atan2 (y, x) of binary32 codes, correctly rounded; 0 where both are zero; a NaN or infinity gives the default NaN. -/
def atan2F (y x : Nat) : Nat :=
  match num32 y, num32 x with
  | .fin sy my ey, .fin sx mx ex =>
    if my = 0 then (if sx ∧ mx ≠ 0 then (refine fpF .rn (fun p => (piFix p, 0)) 8 192).1 else 0) + (if sy then 2 ^ 31 else 0)
    else
      let e := min ey ex
      let a := my * 2 ^ (ey - e).toNat
      let b := mx * 2 ^ (ex - e).toNat
      (refine fpF .rn (fun p =>
        let t := atanRatio p a b
        let t := if sx then piFix p - t else t
        (if sy then -t else t, 0)) 8 768).1
  | _, _ => fpF.defaultNan

/-- The phase word of a binary32 angle: RoundNE(65,536 × angle / 2π) mod 65,536. -/
def phaseWord (th : Nat) : Nat :=
  match num32 th with
  | .fin s m e =>
    let p := 256
    let r := (roundInt .rn false ((fixOf p m e).natAbs * 32768) (piFix p).natAbs 0).1
    if s then (65536 - r % 65536) % 65536 else r % 65536
  | _ => 0

/-- The column and first mode of cell q (R242). -/
def cellMode (q : Nat) : Nat := let k := q % 63; if k < 32 then 2 * k else 2 * (k - 32) + 1

/-- The rotation of a pair of columns by a cell applied from the right (R242): f is +1 or −1. -/
def cellCols (x : Array Nat) (m c s : Nat) (neg : Bool) : Array Nat :=
  let f (v : Nat) : Nat := if neg then neg32 v else v
  mixCols x m (m + 1) (f c) (f s) (neg32 s) c

/-- The angle that makes the target element zero: of a, the element on mode m, and b, the one on mode m + 1 (R400). -/
def cellAngle (first : Bool) (a b : Nat) : Nat := if first then atan2F (neg32 a) b else atan2F b a

/-- A GPHASE step on a section's matrix: side 1 works on columns, side 0 on rows by the transpose. Answers the matrix, the angle and
the target element after. -/
def gphaseOn (x : Array Nat) (side : Bool) (m row col : Nat) (neg : Bool) (free : Nat) : Array Nat × Nat × Nat :=
  let y := if side then x else matT x
  let r := if side then row else col
  let c := if side then col else row
  let th := if c = m ∨ c = m + 1 then cellAngle (c == m) (y.getD (r * 64 + m) 0) (y.getD (r * 64 + m + 1) 0) else free
  let cs := (fpF.func .rn 9 (num32 th)).1
  let sn := (fpF.func .rn 8 (num32 th)).1
  let y := cellCols y m cs sn neg
  (if side then y else matT y, th, abs32 (y.getD (r * 64 + c) 0))

/-- GPHASE on the work store: the section's matrix is Vᵀ for section 0 and U for section 1; a target that the cell does not reach
leaves the angle open (`free`). -/
def gphase (w : Work) (q : Nat) (sec side neg : Bool) (row col free : Nat) : Work × Nat :=
  let x := if sec then matOf w.u else matT (matOf w.v)
  let r := gphaseOn x side (cellMode q) row col neg free
  let w := if sec then { w with u := ofMat r.1 } else { w with v := ofMat (matT r.1) }
  let k := (if sec then 4032 else 0) + 2 * q
  ({ w with phases := mput 0 (mput 0 w.phases k (BitVec.ofNat 16 (phaseWord r.2.1))) (k + 1) (if neg then 32768 else 0) }, r.2.2)

/-! ## The rectangular decomposition (R242, R401): its steps and the sign screen that it leaves -/

/-- The number of the cell of a column on mode m. -/
def cellAt (col m : Nat) : Nat := col / 2 * 63 + (if col % 2 = 0 then m / 2 else 32 + m / 2)

/-- The steps of the method in its order: (cell, side, target row, target column, φ = π). Odd diagonals are cleared by columns from
the light's first cells on, even ones by rows from its last cells back (log entry 10). -/
def clementsSteps : List (Nat × Bool × Nat × Nat × Bool) :=
  (List.range 63).flatMap fun d =>
    let i := d + 1
    if i % 2 = 1 then (List.range i).map fun j => (cellAt j (i - 1 - j), true, 63 - j, i - 1 - j, true)
    else (List.range i).map fun k => (cellAt (63 - k) (63 + k - i), false, 64 + k - i, k, false)

/-- A sign screen moved past one cell: the signs of its two modes change places, and unlike signs turn θ into π − θ. -/
def movePast (sec : Nat) (w : Work) (d : Array Bool) (q : Nat) : Work × Array Bool :=
  let m := cellMode q
  let a := d.getD m false
  let b := d.getD (m + 1) false
  let k := sec * 4032 + 2 * q
  let w := if a == b then w else { w with phases := mput 0 w.phases k (32768 - mget 0 w.phases k) }
  (w, (d.setIfInBounds m b).setIfInBounds (m + 1) a)

/-- The steps of one section; the signs left on the diagonal move to the side of the singular values. -/
def clementsSection (w : Work) (sec : Bool) : Work × Array Bool :=
  let x := if sec then matOf w.u else matT (matOf w.v)
  let r := clementsSteps.foldl (fun (y : Array Nat × Work) st =>
    let (q, side, row, col, neg) := st
    let g := gphaseOn y.1 side (cellMode q) row col neg 0
    let k := (if sec then 4032 else 0) + 2 * q
    (g.1, { y.2 with phases := mput 0 (mput 0 y.2.phases k (BitVec.ofNat 16 (phaseWord g.2.1))) (k + 1) (if neg then 32768 else 0) })) (x, w)
  let d := ((List.range 64).map fun k => decide (2 ^ 31 ≤ r.1.getD (k * 65) 0)).toArray
  let w := if sec then { r.2 with u := ofMat r.1 } else { r.2 with v := ofMat (matT r.1) }
  let cells := (clementsSteps.filter fun st => st.2.1 == sec).map (·.1)
  cells.reverse.foldl (fun (y : Work × Array Bool) q => movePast (if sec then 1 else 0) y.1 y.2 q) (w, d)

/-- Both sections, and the sign word. -/
def decompose (w : Work) : Work :=
  let x := clementsSection w false
  let y := clementsSection x.1 true
  { y.1 with sign := word ((List.range 64).foldl (fun n k => n + if x.2.getD k false != y.2.getD k false then 2 ^ k else 0) 0) }

/-! ## STWR (R225, R400) -/

/-- Bytes of a weight block: 128 element fields and 128 scale bytes. -/
def blockBytes (f : Fmt) : Nat := 128 * mxBytes f + 128

/-- The elements of a weight block as binary32, row-major; none for a source that is not finite in binary32. -/
def blockValues (f : Fmt) (bs : Array Byte) : Option (List Nat) :=
  (List.range 4096).mapM fun k =>
    let fieldNo := k / 64 * 2 + k % 64 / 32
    let c := fieldAt bs (fieldNo * mxBytes f) (mxBytes f) / 2 ^ (f.width * (k % 32)) % 2 ^ f.width
    match mxValue f (bs.getD (128 * mxBytes f + fieldNo) 0).toNat c with
    | .fin s m e => let r := fpF.roundDyadic .rn false s m e; if r.2 &&& flagOF ≠ 0 then none else some r.1
    | _ => none

/-- The work store after a block has been read: the matrix, V := identity, the hash; a non-finite source leaves A undetermined. -/
def loadBlock (w : Work) (f : Fmt) (bs : List Byte) (free : Nat → BitVec 32) : Work × Bool :=
  let w := { w with v := ofMat matId, hash := BitVec.ofNat 256 (leNat (sm3 bs)) }
  match blockValues f bs.toArray with
  | some vs => ({ w with a := ofMat vs.toArray }, true)
  | none => ({ w with a := (List.range 4096).map fun k => (k, free k) }, false)

/-- The stencil buffer with its header completed (R245). -/
def finishStencil (w : Work) (fmt gen : Nat) : Work :=
  let w := bufPut w 0 ([1, 64, BitVec.ofNat 8 fmt, 0] ++ leBytes 4 gen)
  let w := bufPut w 0x18 (leBytes 32 w.hash.toNat)
  bufPut w 0x7C (leBytes 4 (crc32c (checkedBytes (denseBytes stencilSize 0 w.buffer))))

end Sys2Proof.Machine
end

