-- ==== Sys2Proof/Machine/EnginePage.lean ====
section
/-! DEFINITION. The engine op page (R398 to R400): line buffers of copy, collective and link engines, the instructions of the stencil
engine. -/

namespace Sys2Proof.Machine

/-! ## Line buffers (R398) -/

/-- A line buffer of the executing engine. -/
def lineBuf (s : State) (n : Nat) : BitVec 512 := mget 0 (engineOf s s.cur.unit).lbs n

/-- Sets a line buffer. -/
def putLine512 (s : State) (n : Nat) (v : BitVec 512) : State := modEngine s s.cur.unit fun e => { e with lbs := mput 0 e.lbs n v }

/-- The poison marks of a line buffer's words, one bit each, kept behind the 64 buffers (R425). -/
def lineMarks (s : State) (n : Nat) : BitVec 512 := lineBuf s (64 + n)

/-- The poison marks of the eight words at a location. -/
def marksAt (s : State) (l : Nat) : BitVec 512 :=
  BitVec.ofNat 512 ((positions 8 fun i => isPoison s (l + 8 * i)).foldl (fun n i => n + 2 ^ i) 0)

/-- The word w of a line. -/
def lineWord (v : BitVec 512) (w : Nat) : Word := word (v.toNat / 2 ^ (64 * w))

/-- Whether the words of a checked access are SYNC words: of a region in SYNC, or of a mailbox (R135, R147). -/
def syncParts (ps : List Part) : Bool := ps.any fun p => decide (p.state = 3) || match p.place with | .mailbox .. => true | _ => false

/-- The line of a block instruction, its SYNC words Peeked (R147): a word to which a request of the hart itself waits holds the instruction back
(R338). A completion from host memory, which may be an error, follows (R448). -/
def withLine (s : State) (va : Word) (k : List Part → State → Res) : Res :=
  withAccess s .xload va 64 64 fun ps =>
    let l := partLoc ps
    if syncParts ps && (waitingOf s s.cur).any (fun q => decide (l ≤ q.loc) && decide (q.loc < l + 64)) then parkMe s .earlier
    else k ps (if readsHost ps then post s Config.lat.miss (.hostApertureCompletion s.cur.unit false va) else s)

/-- BLKRD (R398). -/
def execBlkrd (d : GDst) (a b : Src) (s : State) : Host.Outcome State Fault Refusal :=
  finish 4 (issue s false (gdstUse s d ++ srcUse s a ++ srcUse s b) fun s => eventGate s <|
    withLine s (srcVal s a) fun ps s =>
      let r := readParts s (myself s) ps
      let n := fld (srcVal s b) 5 0
      .done (later (putLine512 (putLine512 r.2.2 n (BitVec.ofNat 512 (leNat r.1))) (64 + n) (marksAt s (partLoc ps))) (dstOf s d) 0 r.2.1))

/-- One word written by the executing engine: a Store, or on a SYNC word a Fill that may wait (R147). Answers BUSY as none. -/
def engineWord (s : State) (va v : Word) (poison : Bool) : Except Bad (Option State) :=
  match access s (myself s) (myTlb s) .xstore va.toNat 8 with
  | .error b => .error b
  | .ok ps =>
    if syncParts ps then
      let s := noteParts s (myself s) ps
      match arrive s { requestAt s (.agent s.cur) .fill (partLoc ps) (partNa ps) va (myself s).asid v with poison := poison } with
      | (.busy, _) => .ok none
      | (_, t) => .ok (some t)
    else
      let s := writeParts s (myself s) ps (wordBytes v)
      .ok (some (if poison then poisonParts s ps else s))

/-- The words of BLKWR from word w on: those that the mask selects, in increasing order. A word answered BUSY is retried after 16
cycles (R143); a word whose Fill waits holds the next ones back (R147); no word is written twice. -/
def blockWords (va : Word) (v marks : BitVec 512) (mask : Nat) (d : Option Nat) : Nat → Nat → State → Res
  | 0, _, s =>
    if waitingOf s s.cur ≠ [] then parkMe s .earlier
    else .done (putDst (modEngine s s.cur.unit fun e => { e with progress := 0 }) d 0)
  | n + 1, w, s =>
    if waitingOf s s.cur ≠ [] then parkMe s .earlier
    else if !mask.testBit w then blockWords va v marks mask d n (w + 1) s
    else match engineWord s (va + word (8 * w)) (lineWord v w) (marks.getLsbD w) with
      | .error b => onBad s b
      | .ok none => retryMe s 16
      | .ok (some t) => blockWords va v marks mask d n (w + 1) (modEngine t t.cur.unit fun e => { e with progress := w + 1 })

/-- BLKWR (R398): the selected words of a line, or a fabric write of the line to a chip. D receives 0 when the words have been
performed, or the fabric write has been queued. -/
def execBlkwr (d : GDst) (a b : Src) (s : State) : Host.Outcome State Fault Refusal :=
  finish 4 (issue s false (gdstUse s d ++ srcUse s a ++ srcUse s b) fun s => eventGate s <|
    let va := srcVal s a
    let c := srcVal s b
    let v := lineBuf s (fld c 5 0)
    if va.toNat % 64 ≠ 0 then .trap s { code := 4, va := va }
    else if bit c 16 then
      if 2 ^ 56 ≤ va.toNat then .trap s { code := 5, va := va, xlate := some (xlateWord 1 0 1 va.toNat) }
      else if !mayQueue s (fld c 31 20) 0 then retryMe s 16
      else
        let by_ := (engineOf s s.cur.unit).op.map (·.by_)
        let marks := positions 8 fun i => (lineMarks s (fld c 5 0)).getLsbD i
        .done (putDst (queuePacket s (fld c 31 20) 0 0 (myself s).asid va ((List.range 8).map (lineWord v)) by_ (some s.cur.unit) marks)
          (dstOf s d) 0)
    else
      let w := min 8 (engineOf s s.cur.unit).progress
      blockWords va v (lineMarks s (fld c 5 0)) (fld c 15 8) (dstOf s d) (8 - w) w s)

/-- The element type of a code (R289). -/
def typeCode (n : Nat) : LTy := (ltyOf n).getD .f

/-- BLKRED (R398): lane by lane into a line buffer. -/
def execBlkred (d : GDst) (a b : Src) (s : State) : Host.Outcome State Fault Refusal :=
  finish 4 (issue s false (gdstUse s d ++ srcUse s a ++ srcUse s b) fun s => eventGate s <|
    let c := srcVal s b
    let t := typeCode (fld c 10 8)
    match (match fld c 12 11 with | 0 => some ScanOp.add | 1 => some .min | 2 => some .max | _ => none) with
    | none => .trap s { code := 1 }
    | some op => withLine s (srcVal s a) fun ps s =>
        let r := readParts s (myself s) ps
        let x := leNat r.1
        let n := fld c 5 0
        let ls := (List.range (512 / t.width)).map fun i => (scanStep t op (laneOf (lineBuf s n) t.width i) (x / 2 ^ (t.width * i) % 2 ^ t.width)).1
        .done (later (putLine512 (putLine512 r.2.2 n (ofLanes 512 t.width ls)) (64 + n) (lineMarks s n ||| marksAt s (partLoc ps))) (dstOf s d) 0 r.2.1))

/-- A link message on a port in a traffic class, outside routing (R459): sent where the port is UP. -/
def sendMessage (s : State) (port tc : Nat) (ws : List Word) : Nat × State :=
  if port < 48 ∧ (mget {} s.fabric.ports port).state = 4 then
    (0, { s with fabric := { s.fabric with sentMsgs := s.fabric.sentMsgs ++ [(tc * 64 + port, ws)] } })
  else (1, s)

/-- LSEND (R398). -/
def execLsend (d : GDst) (a b : Src) (s : State) : Host.Outcome State Fault Refusal :=
  finish 4 (issue s false (gdstUse s d ++ srcUse s a ++ srcUse s b) fun s => eventGate s <|
    let c := srcVal s a
    let r := sendMessage s (fld c 5 0) (fld c 9 8) ((List.range 8).map (lineWord (lineBuf s (fld (srcVal s b) 5 0))))
    .done (putDst r.2 (dstOf s d) (word r.1)))

/-! ## The stencil engine (R399, R400) -/

/-- The work store of the executing engine. -/
def myWork (s : State) : Work := (engineOf s s.cur.unit).work

/-- An instruction of the stencil engine: the work store changes, D receives a value. -/
def workDone (s : State) (d : GDst) (w : Work) (v : Nat) : Res :=
  .done (putDst (modEngine s s.cur.unit fun e => { e with work := w }) (dstOf s d) (word v))

/-- JROT (R400). -/
def execJrot (d : GDst) (a : Src) (s : State) : Host.Outcome State Fault Refusal :=
  finish 4 (issue s false (gdstUse s d ++ srcUse s a) fun s =>
    let r := jrot (myWork s) (fld (srcVal s a) 5 0)
    workDone s d r.1 r.2)

/-- GPHASE (R400): a cell of 2,016 or more is illegal. -/
def execGphase (d : GDst) (a b : Src) (s : State) : Host.Outcome State Fault Refusal :=
  finish 4 (issue s false (gdstUse s d ++ srcUse s a ++ srcUse s b) fun s =>
    let c := srcVal s a
    let t := srcVal s b
    if 2016 ≤ fld c 10 0 then .trap s { code := 1 }
    else
      let x := fresh s
      let r := gphase (myWork s) (fld c 10 0) (bit c 16) (bit c 17) (bit c 18) (fld t 5 0) (fld t 13 8) (fld x.1 31 0)
      workDone x.2 d r.1 r.2)

/-- PHQ (R400). -/
def execPhq (d : GDst) (s : State) : Host.Outcome State Fault Refusal :=
  finish 4 (issue s false (gdstUse s d) fun s => let r := phq (myWork s); workDone s d r.1 r.2)

/-- SVNRM (R400). -/
def execSvnrm (d : GDst) (s : State) : Host.Outcome State Fault Refusal :=
  finish 4 (issue s false (gdstUse s d) fun s => let r := svnrm (myWork s); workDone s d r.1 r.2)

/-- The MX format of a code (R225): none for the codes that name no element format. -/
def mxCode (n : Nat) : Option Fmt := if 12 ≤ n ∧ n ≤ 17 then fmtOf n else none

/-- STWR (R400): DIR 0 reads a weight block, DIR 1 completes and writes the stencil. A format code outside 12 to 17 is illegal (log
entry 10). -/
def execStwr (d : GDst) (a b : Src) (s : State) : Host.Outcome State Fault Refusal :=
  finish 4 (issue s false (gdstUse s d ++ srcUse s a ++ srcUse s b) fun s => eventGate s <|
    let va := srcVal s a
    let c := srcVal s b
    match mxCode (fld c 36 32) with
    | none => .trap s { code := 1 }
    | some f =>
      if bit c 63 then withAccess s .store va stencilSize 64 fun ps =>
        let w := finishStencil (myWork s) (fld c 36 32) (fld c 31 0)
        let s := writeParts s (myself s) ps (denseBytes stencilSize 0 w.buffer)
        workDone (if w.poison then poisonParts s ps else s) d w 0
      else withAccess s .load va (blockBytes f) 8 fun ps =>
        let bad := readsPoison s (myself s) ps
        let r := readParts s (myself s) ps
        let s := r.2.2
        let n := s.freeCount
        let x := loadBlock { myWork s with poison := (myWork s).poison || bad } f r.1 fun k => BitVec.ofNat 32 (Config.freeWord (n + k)).toNat
        workDone { s with freeCount := n + 4096 } d x.1 (if x.2 then 0 else 1))

end Sys2Proof.Machine
end

