-- ==== Sys2Proof/Machine/EngineOps.lean ====
section
/-! DEFINITION. Engine operations (R143, R147, R184, R389 to R401, R428, R448, R458, R459): the routines of the microcode store, each
as the steps that the spec gives it, and the sequence that ends every operation. -/

namespace Sys2Proof.Machine

/-! ## The operation in progress -/

/-- The hart of an engine. -/
def hartOf (e : Nat) : Agent := ⟨.engine, e, 0⟩

/-- The engine as the actor of its operation. -/
def engineActor (s : State) (e : Nat) : Actor := actorOf s (hartOf e)

/-- Word i of the argument block. -/
def argWord (k : Kick) (i : Nat) : Word := k.block.getD i 0

/-- Whether the kick word and the header have no reserved bit set (R390, R391). -/
def headerOk (k : Kick) : Bool := decide (fld k.word 7 0 = 0) && decide (fld (argWord k 0) 48 24 = 0) && decide (fld (argWord k 0) 15 13 = 0)

/-- The flags word of a routine: word 4 of a copy and of the stencil routine, word 6 of the others (R395, R401). -/
def flagsWord (k : Kick) : Word :=
  match fld k.word 63 58 with | 0 | 3 => argWord k 4 | 1 | 2 => argWord k 6 | _ => 0

/-- RET: End returns tokens (R397). -/
def wantsReturn (k : Kick) : Bool := bit (flagsWord k) 63

/-- PEN: the destination lies on a peer (R395). -/
def toPeer (k : Kick) : Bool := decide (fld k.word 63 58 < 3) && bit (flagsWord k) 62

/-- CHIP (R395). -/
def peerChip (k : Kick) : Nat := fld (flagsWord k) 43 32

/-- The tile whose mailbox, semaphores and ready queue the completion uses (R391): the engine's own, or MTILE of the partition. DESIGN CHOICE (log
entry 76): where MTILE names no tile of the partition the operation ends with no completion word, signal or put. -/
def endTile (s : State) (e : Nat) (k : Kick) : Option Nat :=
  if e < 90 then some (e / 5)
  else (nthSet 16 (fld (partWord s k.partition) 15 0) (fld (argWord k 0) 23 16)).bind (physTile s)

/-- Whether an engine's End is due already. -/
def endDue (s : State) (e : Nat) : Bool := s.sched.any fun x => match x.2 with | .endOp y _ _ => y == e | _ => false

/-- Whether an End without a failure is due (a NAK may still end the operation otherwise, R457). -/
def endsOk (s : State) (e : Nat) : Bool := s.sched.any fun x => match x.2 with | .endOp y st _ => y == e && st == 0 | _ => false

/-- The operation ends: its End follows; a failure takes the place of an End without one that is due. -/
def endWith (s : State) (e status detail : Nat) : State :=
  if !endDue s e then post s 1 (.endOp e status detail)
  else if endsOk s e && status != 0 then
    { s with sched := s.sched.map fun x => match x.2 with | .endOp y _ _ => if y = e then (x.1, .endOp e status detail) else x | _ => x }
  else s

/-- The status and DETAIL of a failed access (R392); a walk or a region in transit makes the routine wait (R34, R90). -/
def badEnd (s : State) (e : Nat) : Bad → State
  | .xlate _ va => endWith s e 3 va.toNat
  | .holder _ _ va => endWith s e 4 va.toNat
  | .walk u asid vp => modEngine (launchWalk s u asid vp) e fun x => { x with walking := some vp }
  | .transit _ => resumeRoutine s e 1

/-- The checks of an access of an engine's routine, through its TLB (R32, R332). -/
def engineAccess (s : State) (e : Nat) (m : Mode) (va n : Nat) : Except Bad (List Part) := access s (engineActor s e) (some (tlbUnit (hartOf e))) m va n

/-- Words up to n have been moved; what walks brought for them is used up. -/
def wordsDone (s : State) (e n : Nat) : State :=
  modStrand (modEngine s e fun x => { x with progress := n, gathered := [] }) (hartOf e) fun h => { h with walked := [], walkFault := none }

/-! ## Kicks (R184, R390, R392, R428) -/

/-- A freed entry of a kick queue: the strand parked there longest attempts its kick again. -/
def execKickAccept (e : Nat) (s : State) : Host.Outcome State Fault Refusal :=
  let ws := s.strands.filter fun x => x.2.run == .parked (.kickFull e)
  match ws with
  | [] => .next s
  | w :: r =>
    let first := r.foldl (fun m x => if x.2.parkedAt < m.2.parkedAt then x else m) w
    .next (makeReady s (agentOfKey first.1))

/-- A kick whose routine the engine does not have (R392). -/
def execNoroutine (e : Nat) (s : State) : Host.Outcome State Fault Refusal := .next (endWith s e 1 0)

/-- An uncorrectable error in an engine hart (R428): the operation ends with ENGTRAP, the engine's tokens are settled, and it takes no
further kick. -/
def execEngineError (e : Nat) (s : State) : Host.Outcome State Fault Refusal :=
  let s := settle (modEngine s e fun x => { x with retired := true }) none (engineParty e) .failed
  let s := modStrand s (hartOf e) fun r => { r with run := .free }
  let s := { s with faults := { s.faults with failed := mset s.faults.failed (30000 + e) 1 } }
  .next (if (engineOf s e).op.isSome ∧ (engineOf s e).ending.isNone then endWith s e 7 (2 ^ 56 - 1) else s)

/-! ## Copies (R395, R396) -/

/-- Words of a copy in one row or element, and the source and destination of word n; none where a gather's table must be read. -/
structure CopyPlan where
  total : Nat
  row : Nat
  src : Nat → Nat × Nat
  dst : Nat → Nat

/-- An address modulo 2^64. -/
def addr (i : Int) : Nat := wrap 64 i

/-- The plan of a copy routine: the source is an address and 0, or a table entry's address and the offset behind the address it
holds. -/
def copyPlan (k : Kick) : CopyPlan :=
  let w (i : Nat) : Nat := (argWord k i).toNat
  match fld k.word 63 58 with
  | 0 => ⟨fld (argWord k 3) 39 0 / 8, 2 ^ 40, fun n => (addr (w 1 + 8 * n), 0), fun n => addr (w 2 + 8 * n)⟩
  | 1 =>
    let row := fld (argWord k 3) 31 0 / 8
    let at_ (base stride : Word) (n : Nat) : Nat := addr (base.toNat + (n / row : Nat) * stride.toInt + 8 * (n % row : Nat))
    ⟨row * fld (argWord k 3) 63 32, row, fun n => (at_ (argWord k 1) (argWord k 4) n, 0), at_ (argWord k 2) (argWord k 5)⟩
  | _ =>
    let es := fld (argWord k 3) 47 32
    let row := es / 8
    ⟨fld (argWord k 3) 31 0 * row, row, fun n => (addr (w 1 + 8 * (n / row : Nat)), 8 * (n % row) + 1),
      fun n => addr (w 2 + (n / row : Nat) * es + 8 * (n % row : Nat))⟩

/-- Whether the arguments are within their limits (R395). DESIGN CHOICE (log entry 76): addresses and strides that are no multiple of 8 are refused
also where a length, ROWS or COUNT is 0 or ROWS is 1. -/
def copyArgsOk (k : Kick) : Bool :=
  let m (n : Nat) : Bool := decide (n % 8 = 0)
  let w (i : Nat) : Nat := (argWord k i).toNat
  let flags := decide (fld (flagsWord k) 61 44 = 0) && decide (fld (flagsWord k) 31 0 = 0)
  headerOk k && flags && m (w 1) && m (w 2) && match fld k.word 63 58 with
    | 0 => m (fld (argWord k 3) 39 0)
    | 1 => m (fld (argWord k 3) 31 0) && m (w 4) && m (w 5)
    | _ => m (fld (argWord k 3) 47 32) && decide (8 ≤ fld (argWord k 3) 47 32) && decide (fld (argWord k 3) 47 32 ≤ 4096)

/-- A word read by an engine: its value and poison, with the state; none from host memory, whose completion brings it (R448). -/
def engineRead (s : State) (e va : Nat) : Except Bad (Option (Word × Bool) × State) :=
  match engineAccess s e .xload va 8 with
  | .error b => .error b
  | .ok ps =>
    if readsHost ps then .ok (none, noteParts s (engineActor s e) ps)
    else
      let r := readParts s (engineActor s e) ps
      .ok (some (word (leNat r.1), readsPoison s (engineActor s e) ps), r.2.2)

/-- What became of a word that an engine writes: performed, waiting as a Fill, or answered BUSY. -/
inductive Written where
  | performed (s : State) | waiting (s : State) | busy

/-- A word written by an engine (R147): a Store, to host memory a posted write (R448), on a SYNC word a Fill. -/
def engineWrite (s : State) (e va : Nat) (v : Word) (poison : Bool) : Except Bad Written :=
  match engineAccess s e .xstore va 8 with
  | .error b => .error b
  | .ok ps =>
    if syncParts ps then
      let s := noteParts s (engineActor s e) ps
      match arrive s { requestAt s (.engineData e) .fill (partLoc ps) (partNa ps) (word va) (engineActor s e).asid v with poison := poison } with
      | (.busy, _) => .ok .busy
      | (_, t) => .ok (.waiting (wordsDone t e (engineOf t e).progress))
    else
      let s := writeParts s (engineActor s e) ps (wordBytes v)
      .ok (.performed (if poison then poisonParts s ps else s))

/-- A source word's address behind a table word, with whether the table word is a multiple of 8, and the state that keeps the table word for
its element. -/
def fromTable (s : State) (e i o : Nat) (v : Word) : Nat × Bool × State :=
  (addr (v.toNat + (o - 1 : Nat)), decide (v.toNat % 8 = 0), modEngine s e fun x => { x with elem := some (i, v) })

/-- A word that a copy reads: its value and mark; a word at an address of host memory, whose completion must come first; an address, taken from a
table, that is no multiple of 8. -/
inductive Source where
  | word (v : Word) (poison : Bool) | host (va : Nat) | unaligned (va : Nat)

/-- The word of an address as the source. -/
def sourceAt (s : State) (e va : Nat) : Except Bad (Source × State) :=
  match engineRead s e va with
  | .error b => .error b
  | .ok (some (v, poison), s) => .ok (.word v poison, s)
  | .ok (none, s) => .ok (.host va, s)

/-- Source word n of a copy: one read already, or read now; where the routine has a table, through the word of its element, which is read once
(R395). -/
def sourceOf (s : State) (e : Nat) (p : CopyPlan) (n : Nat) : Except Bad (Source × State) :=
  let (va, o) := p.src n
  let i := n / p.row
  let through (x : Nat × Bool × State) : Except Bad (Source × State) := if x.2.1 then sourceAt x.2.2 e x.1 else .ok (.unaligned x.1, x.2.2)
  match (engineOf s e).gathered[n - (engineOf s e).progress]? with
  | some (v, poison) => .ok (.word v poison, s)
  | none =>
    if o = 0 then sourceAt s e va
    else match (engineOf s e).elem.filter fun x => x.1 == i with
      | some (_, v) => through (fromTable s e i o v)
      | none => match engineRead s e va with
        | .error b => .error b
        | .ok (some (v, _), s) => through (fromTable s e i o v)
        | .ok (none, s) => .ok (.host va, s)

/-- A read of host memory is on its way (R448). -/
def awaitHost (s : State) (e va : Nat) : State := post s Config.lat.miss (.hostApertureCompletion e false (word va))

/-- Words that a copy moves in one step of the model. -/
def copyBurst : Nat := 8

/-- Up to n words of a copy from its progress on, each read before it is written. -/
def copyWords (e : Nat) (p : CopyPlan) : Nat → State → State
  | 0, s => resumeRoutine s e 1
  | f + 1, s =>
    let n := (engineOf s e).progress
    if p.total ≤ n then endWith s e 0 (8 * p.total)
    else match sourceOf s e p n with
      | .error b => badEnd s e b
      | .ok (.unaligned va, s) => endWith s e 2 va
      | .ok (.host va, s) => awaitHost s e va
      | .ok (.word v poison, s) =>
        let s := modEngine s e fun x => { x with gathered := [(v, poison)] }
        match engineWrite s e (p.dst n) v poison with
        | .error b => badEnd s e b
        | .ok .busy => post s 16 (.engineBusyRetry e)
        | .ok (.waiting s) => s
        | .ok (.performed s) => copyWords e p f (wordsDone s e (n + 1))

/-- The words of one packet to a peer, each with its mark: up to n words of one row or element, at canonical addresses (R18); or what keeps the
packet back, in the state that holds the words read so far. -/
def gatherPacket (e : Nat) (p : CopyPlan) : Nat → Nat → State → Except State State
  | 0, _, s => .ok s
  | f + 1, n, s =>
    if p.total ≤ n ∨ ((engineOf s e).progress < n ∧ (n % p.row = 0 ∨ 2 ^ 56 ≤ p.dst n)) then .ok s
    else match sourceOf s e p n with
      | .error b => .error (badEnd s e b)
      | .ok (.unaligned va, s) => .error (endWith s e 2 va)
      | .ok (.host va, s) => .error (awaitHost s e va)
      | .ok (.word v poison, s) =>
        gatherPacket e p f (n + 1) (modEngine s e fun x => { x with gathered := x.gathered.take (n - x.progress) ++ [(v, poison)] })

/-- One packet of a copy to a peer (R457), queued for the strand that kicked (R126). -/
def copyPacket (s : State) (e : Nat) (k : Kick) (p : CopyPlan) : State :=
  let n := (engineOf s e).progress
  if p.total ≤ n then endWith s e 0 (8 * p.total)
  else if s.fabric.lostPeers.contains (peerChip k) then endWith s e 6 0
  else if 2 ^ 56 ≤ p.dst n then endWith s e 3 (p.dst n)
  else if !mayQueue s (peerChip k) 0 then resumeRoutine s e 16
  else match gatherPacket e p 32 n s with
    | .error s => s
    | .ok s =>
      let ws := (engineOf s e).gathered
      let marks := positions 32 fun i => ws[i]?.any fun w => w.2
      let s := queuePacket s (peerChip k) 0 0 k.asid (word (p.dst n)) (ws.map fun w => w.1) (some k.by_) (some e) marks
      resumeRoutine (wordsDone s e (n + ws.length)) e 1

/-- A copy routine: its own refusals, then its words; an operation that ends already does nothing more. -/
def copyRoutine (e : Nat) (s : State) : Host.Outcome State Fault Refusal :=
  match (engineOf s e).op, (engineOf s e).ending with
  | some k, none =>
    if endDue s e then .next s
    else if !copyArgsOk k then .next (endWith s e 2 0)
    else if toPeer k then .next (copyPacket s e k (copyPlan k))
    else .next (copyWords e (copyPlan k) copyBurst s)
  | _, _ => .next s

/-- Routine 0 (R395). -/
def execCopy (e : Nat) (s : State) := copyRoutine e s
/-- Routine 1 (R395). -/
def execCopy2d (e : Nat) (s : State) := copyRoutine e s
/-- Routine 2 (R395). -/
def execGather (e : Nat) (s : State) := copyRoutine e s

/-- A word of host memory for the copy in progress: of its table where that element's is not known, else the next source word (R395). -/
def hostWord (x : Engine) (p : CopyPlan) (v : Word) : Engine :=
  let n := x.progress + x.gathered.length
  if (p.src n).2 ≠ 0 ∧ (x.elem.filter fun y => y.1 == n / p.row) = none then { x with elem := some (n / p.row, v) }
  else { x with gathered := x.gathered ++ [(v, false)] }

/-- A read of host memory completes (R448): what it brings is the host's, unknown here (log entry 3), and the routine goes on with it; an error
ends the operation. A hart that runs microcode has taken the word already. -/
def execHostApertureCompletion (e : Nat) (err : Bool) (va : Word) (s : State) : Host.Outcome State Fault Refusal :=
  match (engineOf s e).op, (engineOf s e).ending with
  | some k, none =>
    if err then .next (endWith (modStrand s (hartOf e) fun r => { r with run := .free }) e 3 va.toNat)
    else if (strandOf s (hartOf e)).run ≠ .free then .next s
    else
      let x := fresh s
      .next (resumeRoutine (modEngine x.2 e fun y => hostWord y (copyPlan k) x.1) e 0)
  | _, _ => .next s

/-! ## The stencil routine (R401) -/

/-- Whether the arguments of routine 3 are within their limits. -/
def stencilArgsOk (k : Kick) : Bool :=
  headerOk k && decide ((argWord k 1).toNat % 8 = 0) && decide ((argWord k 2).toNat % 64 = 0) && (mxCode (fld (argWord k 3) 4 0)).isSome
    && decide (fld (argWord k 3) 31 5 = 0) && decide (fld (argWord k 4) 62 0 = 0) && [5, 6, 7].all fun i => argWord k i == 0

/-- One sweep of the rotations and its largest measure. -/
def jacobiSweep (w : Work) : Work × Nat :=
  (List.range 63).foldl (fun (x : Work × Nat) r => let y := jrot x.1 r; (y.1, max32 x.2 y.2)) (w, 0)

/-- Sweeps until the measure falls to 2^−22, eight at most. -/
def jacobiSweeps : Nat → Work → Work
  | 0, w => w
  | n + 1, w => let x := jacobiSweep w; if x.2 ≤ 0x34800000 then x.1 else jacobiSweeps n x.1

/-- Routine 3 (R401): 2 µs from its kick to its End; a stencil of a poisoned source is poisoned (R425). -/
def execStencilDecomposition (e : Nat) (s : State) : Host.Outcome State Fault Refusal :=
  match (engineOf s e).op, (engineOf s e).ending with
  | some k, none =>
    match stencilArgsOk k, mxCode (fld (argWord k 3) 4 0) with
    | true, some f =>
      let x := engineActor s e
      match engineAccess s e .load (argWord k 1).toNat (blockBytes f) with
      | .error b => .next (badEnd s e b)
      | .ok ps =>
        let bad := readsPoison s x ps
        let r := readParts s x ps
        let s := r.2.2
        let n := s.freeCount
        let b := loadBlock { (engineOf s e).work with poison := bad } f r.1 fun j => BitVec.ofNat 32 (Config.freeWord (n + j)).toNat
        if !b.2 then .next (endWith (modEngine { s with freeCount := n + 4096 } e fun y => { y with work := b.1 }) e 2 (argWord k 1).toNat)
        else
          let w := finishStencil (phq (decompose (svnrm (jacobiSweeps 8 b.1)).1)).1 (fld (argWord k 3) 4 0) (fld (argWord k 3) 63 32)
          let s := modEngine s e fun y => { y with work := w }
          match engineAccess s e .store (argWord k 2).toNat stencilSize with
          | .error b => .next (badEnd s e b)
          | .ok qs =>
            let s := writeParts s x qs (denseBytes stencilSize 0 w.buffer)
            .next (post (wordsDone (if bad then poisonParts s qs else s) e 1) 5000 (.endOp e 0 stencilSize))
    | _, _ => .next (endWith s e 2 0)
  | _, _ => .next s

/-! ## Routines of the device-level engines (R458, R459) -/

/-- Whether the arguments of routine 16 are within their limits. -/
def tokenArgsOk (k : Kick) : Bool :=
  let w := argWord k 2
  headerOk k && decide (fld (argWord k 1) 63 56 = 0) && decide (fld w 63 32 = 0) && decide (fld w 23 20 = 0) && decide (fld w 15 12 = 0)
    && decide (1 ≤ fld w 19 16) && decide (fld w 19 16 ≤ 3) && [3, 4, 5, 6, 7].all fun i => argWord k i == 0

/-- Routine 16 (R458): the TOKREQ leaves when every earlier fabric write of the kicking strand to the chip has been acknowledged. The
request's progress is its SEQ + 1. -/
def execFabricTokenRequest (e : Nat) (s : State) : Host.Outcome State Fault Refusal :=
  match (engineOf s e).op, (engineOf s e).ending with
  | some k, none =>
    let chip := fld (argWord k 2) 11 0
    if !tokenArgsOk k then .next (endWith s e 2 0)
    else if (engineOf s e).progress ≠ 0 then .next s
    else if s.fabric.lostPeers.contains chip then .next (endWith s e 6 0)
    else if ((s.fabric.unacked ++ s.fabric.backlog).any fun u => u.by_ == some k.by_ && decide (u.packet.dst = chip) && decide (u.packet.tc = 0)) || !mayQueue s chip 1 then
      .next (resumeRoutine s e 1)
    else
      let n := mget 0 s.fabric.nextSeq (seqKey chip 1)
      let s := queuePacket s chip 1 3 k.asid (argWord k 1) [argWord k 2] (some k.by_) (some e)
      .next (modEngine s e fun x => { x with progress := n + 1 })
  | _, _ => .next s

/-- Routine 17 (R459): one link message, or BADARG where the port is not UP. -/
def execLinkMessageSend (e : Nat) (s : State) : Host.Outcome State Fault Refusal :=
  match (engineOf s e).op, (engineOf s e).ending with
  | some k, none =>
    let w := argWord k 1
    if !headerOk k ∨ fld w 63 10 ≠ 0 ∨ fld w 7 6 ≠ 0 then .next (endWith s e 2 0)
    else
      let r := sendMessage s (fld w 5 0) (fld w 9 8) ([0x80] ++ (List.range 6).map (fun i => argWord k (i + 2)) ++ [0])
      .next (if r.1 = 0 then endWith r.2 e 0 0 else endWith s e 2 0)
  | _, _ => .next s

/-! ## End (R393, R397) -/

/-- The VAs whose regions End returns (R397). -/
def returnVas (k : Kick) : List Word :=
  if !wantsReturn k then []
  else if fld k.word 63 58 = 3 then [argWord k 1, argWord k 2]
  else if toPeer k then [argWord k 1] else [argWord k 1, argWord k 2]

/-- Those of the addresses whose regions differ, the first of each region (R397). -/
def distinctReturns (s : State) (e : Nat) (k : Kick) : List Word :=
  ((returnVas k).foldl (fun (x : List Word × List Nat) va => match regionFor s (engineActor s e) va.toNat with
    | some (key, _) => if x.2.contains key then x else (x.1 ++ [va], x.2 ++ [key])
    | none => x) ([], [])).1

/-- An operation enters its End with a status and DETAIL (R393). -/
def enterEnd (s : State) (e : Nat) (k : Kick) (status detail : Nat) : State :=
  modEngine s e fun x => { x with ending := some (status, detail), returns := distinctReturns s e k, progress := 0, elem := none, gathered := [], walking := none }

/-- A return failed: the status of an operation that was OK is TOKEN. -/
def returnFailed (s : State) (e : Nat) : State := modEngine s e fun x => { x with ending := x.ending.map fun y => if y.1 = 0 then (5, 0) else y }

/-- The region of the address at the head of the returns: TRET where the engine holds it and it was lent, UNSHR of 1 where the engine holds
a share of it (R397). -/
def returnRegion (s : State) (e : Nat) (va : Word) : State :=
  let s := modEngine s e fun x => { x with returns := x.returns.drop 1 }
  let x := engineActor s e
  let perform (op : TokenOp) : State :=
    match tokenAt s x op va with
    | .transfer key t => beginTransfer s key { t with who := some (hartOf e), dst := none, sig := none }
    | .answer s w => if fld w 7 0 = 0 then s else returnFailed s e
  match regionFor s x va.toNat with
  | none => s
  | some (key, en) =>
    if en.holder = engineParty e ∧ en.lender ≠ 0 then perform .tret
    else if (shareOf s key (engineParty e)).isSome then perform (.unshr 1)
    else s

/-- Whether End must wait for earlier events: a Fill of the operation that still waits, fabric writes of it that are not acknowledged, a return in
progress (R113, R118, R393). -/
def endWaits (s : State) (e : Nat) : Bool :=
  ((s.waiters ++ s.overflow).any fun q => q.who == .engineData e) || ((s.fabric.unacked ++ s.fabric.backlog).any fun u => u.engine == some e) || (s.transfers.any fun t => t.2.who == some (hartOf e))
    || s.tokenQueue.any fun q => match q.2 with | .engine x _ => x == e | _ => false

/-- The partition of a device-level operation whose live state is in shadow storage, or on its way there: the TDU holds its completion
(R204). -/
def heldBack (s : State) (e : Nat) (k : Kick) : Bool :=
  decide (90 ≤ e) && decide (2 ≤ fld (partWord s k.partition) 63 62) && (mfind s.tdu.shadows k.partition).isSome

/-- The operation is over: the engine's next kick starts (R393). One that the TDU has put back stands under a number of its own, which
goes. -/
def endOver (s : State) (e : Nat) : State :=
  if 146 ≤ e then { s with engines := mdel s.engines e }
  else startEngine (modEngine s e fun x => { x with op := none, ending := none, returns := [], filled := false, progress := 0, lost := false }) e

/-- The operation of a tile engine as one of a device-level engine: its MTILE is the tile's position in the partition. -/
def namingTile (s : State) (e : Nat) (k : Kick) : Kick :=
  if 90 ≤ e then k
  else
    let at_ (i : Nat) : Option Nat := (nthSet 16 (fld (partWord s k.partition) 15 0) i).bind (physTile s)
    { k with block := setFld (argWord k 0) 23 16 ((firstIdx 16 fun i => at_ i == some (e / 5)).getD 0) :: k.block.drop 1 }

/-- What is left of an operation's End is held by the TDU (R204, R209): the Fill of its completion, and the signal and the put that follow
the Fill. -/
def holdEnd (s : State) (e : Nat) (k : Kick) (st d : Nat) : State :=
  let x := engineOf s e
  let k := namingTile s e k
  let held : Engine := { op := some k, ending := some (st, d), filled := x.filled, progress := x.progress, since := s.cycle }
  let s := withdraw s fun q => q.who == .engineEnd e
  let sh := mget {} s.tdu.shadows k.partition
  endOver { s with tdu := { s.tdu with shadows := mset s.tdu.shadows k.partition { sh with ends := sh.ends ++ [held] } } } e

/-- The last part of End: the signal, and the put into a ready queue, retried every 16 cycles while FULL. -/
def endSignals (s : State) (e : Nat) (k : Kick) (t : Nat) (w : Word) (first : Bool) : State :=
  let h := argWord k 0
  let s := if first ∧ bit h 55 then semSignal s t (fld h 63 56) 1 else s
  if !bit h 54 then endOver s e
  else
    let r := rqPut s (t * 8 + fld h 53 51) (fld h 50 49) w
    if r.1 = 1 then post (modEngine s e fun x => { x with progress := 1 }) 16 (.engineBusyRetry e) else endOver r.2 e

/-- The completion word's request: a Fill of the operation's mailbox word. -/
def completionReq (s : State) (e t : Nat) (k : Kick) (w : Word) : SyncReq :=
  let o := 8 * fld (argWord k 0) 12 0
  requestAt s (.engineEnd e) .fill (mailLoc t o) false (word (winBase + 2 ^ 33 + o)) k.asid w

/-- The steps of End (R393): the returns one after the other, each behind every earlier event; the fence, PEERLOST, the Fill of the mailbox
word, the signal, the put. `progress` is 0 until the signal has been sent. -/
def endSteps (s : State) (e : Nat) (k : Kick) (status detail : Nat) : State :=
  if endWaits s e then post s 1 (.endOp e status detail)
  else match (engineOf s e).returns with
  | va :: _ =>
    let keys := ((regionFor s (engineActor s e) va.toNat).map (·.1)).toList
    post (if mustWait s s.tokenQueue keys then waitToken s keys (.engine e va) else returnRegion s e va) 1 (.endOp e status detail)
  | [] =>
    let (st, d) := if (engineOf s e).lost ∧ status = 0 then (6, 0) else (status, detail)
    let w := word (st * 2 ^ 56 + d % 2 ^ 56)
    match endTile s e k with
    | none => endOver s e
    | some t =>
      if heldBack s e k then holdEnd s e k st d
      else if (engineOf s e).filled then endSignals s e k t w (decide ((engineOf s e).progress = 0))
      else if s.waiters.any fun q => q.who == .engineEnd e then s
      else match arrive s (completionReq s e t k w) with
        | (.busy, s) => post s 16 (.engineBusyRetry e)
        | (_, s) => s

/-- END (R393). -/
def execEndOp (e status detail : Nat) (s : State) : Host.Outcome State Fault Refusal :=
  match (engineOf s e).op with
  | none => .next s
  | some k =>
    match (engineOf s e).ending with
    | some (st, d) => .next (endSteps s e k st d)
    | none => .next (endSteps (enterEnd s e k status detail) e k status detail)

/-- A BUSY answer's retry (R143), or that of a put into a full ready queue (R393). -/
def execEngineBusyRetry (e : Nat) (s : State) : Host.Outcome State Fault Refusal :=
  match (engineOf s e).op, (engineOf s e).ending with
  | some k, some (st, d) => .next (endSteps s e k st d)
  | some _, none => .next (resumeRoutine s e 0)
  | none, _ => .next s

end Sys2Proof.Machine
end

