-- ==== Sys2Proof/Machine/Runtime.lean ====
section
/-! DEFINITION. Commands of the runtime: translation and instruction-cache invalidations (R40 to R42, R48, R59, R60), region commands
(R103, R104). -/

namespace Sys2Proof.Machine

/-! ## Translation invalidation (R40 to R42, R48) -/

/-- Whether PAGE removes a cached translation that covers VPN: a global one, one of the ASID of the size that SIZE names. -/
def pageMatch (w : Word) (t : Tlb) : Bool :=
  let va := fld w 55 16 * 2 ^ 16
  decide (t.vbase ≤ va) && decide (va < t.vbase + 2 ^ (16 + 10 * t.size))
    && (bit t.leaf 5 || (decide (t.asid = fld w 11 0) && (decide (fld w 61 60 = 3) || decide (t.size = fld w 61 60))))

/-- Whether an invalidation of a scope removes a cached translation. -/
def tlbMatch (w : Word) (t : Tlb) : Bool :=
  match fld w 63 62 with
  | 0 => pageMatch w t
  | 1 => !bit t.leaf 5 && decide (t.asid = fld w 11 0)
  | 2 => !bit t.leaf 5
  | _ => true

/-- Whether it removes a walk-cache entry; cached ASID-table entries (level 4) go with ALL alone. -/
def walkMatch (w : Word) (e : WalkEntry) : Bool :=
  match fld w 63 62 with
  | 0 | 1 => decide (e.asid = fld w 11 0) && decide (e.level < 4)
  | 2 => decide (e.level < 4)
  | _ => true

/-- What every scope does: matching translations go, those that walks have brought for an instruction or an engine's access among them, which
walks again (R41); the host windows take effect as written (R48), and with ALL the ASID table's base is that of DEV.ASIDTAB. -/
def invalidate (s : State) (w : Word) : State :=
  let s := { s with tlbs := s.tlbs.filter fun t => !tlbMatch w t, walkCache := s.walkCache.filter fun e => !walkMatch w e }
  let s := { s with strands := s.strands.map fun (x : Nat × Strand) => (x.1, { x.2 with walked := x.2.walked.filter fun (t : Tlb) => !tlbMatch w t, walkFault := none }) }
  let s := if fld w 63 62 = 3 then { s with caps := { s.caps with asidtabLive := s.caps.asidtab } } else s
  { s with host := { s.host with liveVa := s.host.winVa, liveCfg := s.host.winCfg, lost := s.host.lost && !(s.host.winCfg.any fun x => bit x.2 63) } }

/-- The invalidation at the head of the sequencer is carried out; its completion follows. -/
def tlbinvOp (s : State) : Host.Outcome State Fault Refusal :=
  match s.invalidations with
  | [] => .next s
  | (_, w) :: _ => .next (post (invalidate s w) Config.lat.tlbinv .invalidationComplete)

/-- TLBINV of scope PAGE (R40). -/
def execTlbinvPage (s : State) := tlbinvOp s
/-- TLBINV of scope ASID (R40). -/
def execTlbinvAsid (s : State) := tlbinvOp s
/-- TLBINV of scope NONGLOBAL (R40). -/
def execTlbinvNonglobal (s : State) := tlbinvOp s
/-- TLBINV of scope ALL (R40). -/
def execTlbinvAll (s : State) := tlbinvOp s

/-- An invalidation is complete (R41): its strand goes on, a strand kept out by a full sequencer may enter, the next one follows (R42). -/
def execInvalidationComplete (s : State) : Host.Outcome State Fault Refusal :=
  match s.invalidations with
  | [] => .next s
  | (a, _) :: r =>
    let s := wakeIf { s with invalidations := r } a fun p => p == .invalidation
    let s := s.strands.foldl (fun s x => wakeIf s (agentOfKey x.1) fun p => p == .sequencer) s
    .next (match r with | (_, w) :: _ => post s 1 (tlbinvEvent w) | [] => s)

/-! ## Instruction caches (R59, R60) -/

/-- The invalidation at the head of the queue is carried out in every instruction cache. -/
def icinvOp (s : State) (p : Word → ILine → Bool) : Host.Outcome State Fault Refusal :=
  match s.icInvs with
  | [] => .next s
  | (_, w) :: _ => .next (post { s with icache := s.icache.filter fun l => !p w l } Config.lat.icinv .icinvComplete)

/-- ICINV of one line (R60). -/
def execIcinvLine (s : State) := icinvOp s fun w l => decide (l.line = fld w 51 6)
/-- ICINV of every line (R60). -/
def execIcinvAll (s : State) := icinvOp s fun _ _ => true

/-- Every cache has finished (R60): the strand goes on, the next store follows. -/
def execIcinvComplete (s : State) : Host.Outcome State Fault Refusal :=
  match s.icInvs with
  | [] => .next s
  | (a, _) :: r =>
    let s := wakeIf { s with icInvs := r } a fun p => p == .command
    .next (match r with | (_, w) :: _ => post s 1 (icinvEvent w) | [] => s)

/-! ## Region commands (R103, R104) -/

/-- The oldest command whose event this is, with the others. -/
def takeCommand (s : State) (i : Instr) : Option ((Agent × Agent × Word) × State) :=
  (takeFirst (fun c : Agent × Agent × Word => htEvent c.2.2 == i) s.htCmds).map fun x => (x.1, { s with htCmds := x.2 })

/-- A command is done: STR.HTR holds the status, the writing strand goes on. -/
def commandDone (s : State) (by_ ctx : Agent) (key : Option Nat) (st : Nat) : State :=
  wakeIf (modStrand s ctx fun r => { r with str := { r.str with htr := tokenWord key st } }) by_ fun p => p == .command

/-- The address that a command names: BASE of STR.HTA. -/
def commandVa (s : State) (ctx : Agent) : Nat := fld (strandOf s ctx).str.hta 55 8 * 256

/-- The region that a command names. -/
def commandRegion (s : State) (ctx : Agent) (w : Word) : Option (Nat × Entry) :=
  (tableOf (some ctx) (commandVa s ctx)).bind fun t => regionAt s (fld w 31 20) t (commandVa s ctx)

/-- A command on a region is carried out at its entry's home: DESTROY, RECLAIM, or SEIZE, a transfer to the runtime whose completion
reports (R104). -/
def performCommand (s : State) (by_ ctx : Agent) (w : Word) : State :=
  let r := commandRegion s ctx w
  let done (x : Nat × Option Nat × State) : State := commandDone x.2.2 by_ ctx x.2.1 x.1
  if fld w 3 0 = 2 then done (destroyOp s r)
  else if fld w 3 0 = 3 then done (reclaimOp s r)
  else match seizeStatus r ctx, r with
    | (_, some t), some (key, _) => beginTransfer s key { t with who := some by_ }
    | (st, _), _ => commandDone s by_ ctx (r.map (·.1)) st

/-- A command on a region: one on an entry in transit waits in its turn (R92). -/
def regionCommand (s : State) (i : Instr) : Host.Outcome State Fault Refusal :=
  match takeCommand s i with
  | none => .next s
  | some ((by_, ctx, w), s) =>
    let keys := ((commandRegion s ctx w).map (·.1)).toList
    .next (if mustWait s s.tokenQueue keys then waitToken s keys (.command by_ ctx w) else performCommand s by_ ctx w)

/-- CREATE (R104). -/
def execCreate (s : State) : Host.Outcome State Fault Refusal :=
  match takeCommand s .create with
  | none => .next s
  | some ((by_, ctx, w), s) =>
    let r := createOp s ctx (commandVa s ctx / 256) (fld (strandOf s ctx).str.htb 39 0) w
    .next (commandDone r.2.2 by_ ctx r.2.1 r.1)

/-- DESTROY (R104). -/
def execDestroy (s : State) : Host.Outcome State Fault Refusal := regionCommand s .destroy

/-- RECLAIM (R104). -/
def execReclaim (s : State) : Host.Outcome State Fault Refusal := regionCommand s .reclaim

/-- SEIZE (R104): a transfer to the runtime; its completion reports. -/
def execSeize (s : State) : Host.Outcome State Fault Refusal := regionCommand s .seize

/-- A reserved OP (R103): status BADOP. -/
def execHtBadop (s : State) : Host.Outcome State Fault Refusal :=
  match takeCommand s .htBadop with
  | none => .next s
  | some ((by_, ctx, _), s) => .next (commandDone s by_ ctx none 15)

end Sys2Proof.Machine
end

