-- ==== Sys2Proof/Machine/Placement.lean ====
section
/-! DEFINITION. Launch records and placement (R158, R160, R186 to R189, R194 to R199, R432). -/

namespace Sys2Proof.Machine

/-! ## Launch records (R186 to R188) -/

/-- The words of a launch record, read at their LLC homes; none where it is misaligned, does not translate, or lies in no region or in
one that is POISONED or LOST (R187). DESIGN CHOICE (log entry 70): the TDU translates it, a report and an ARG with the privilege S, also for a
spawn from U, so PERM_U of R37 is not asked for. -/
def readRecord (s : State) (asid : Nat) (va : Word) : Option (List Word) :=
  if va.toNat % 64 ≠ 0 then none
  else match place s (tduActor asid 1) none .load va.toNat, regionAt s asid none va.toNat with
    | .ok (.dram pa _), some (_, e) => if e.state = 5 ∨ e.state = 6 then none else some ((List.range 8).map fun i => homeWord s (pa + 8 * i))
    | _, _ => none

/-- Word i of a record. -/
def recWord (ws : List Word) (i : Nat) : Word := ws.getD i 0

/-- Whether a compute or stack record is legal for a launch of a privilege (R186, R187). -/
def recordLegal (ws : List Word) (asid priv : Nat) : Bool :=
  let w := recWord ws 0
  let size := fld w 39 32
  decide (fld w 63 56 = 1) && decide (fld w 55 52 ≤ 1) && decide (fld w 42 40 = 0) && decide (fld w 31 12 = 0) && decide (fld w 11 0 = asid)
    && decide (8 ≤ size) && decide (size ≤ 128) && decide (size % 8 = 0) && !(bit w 44 && decide (priv = 0))
    && decide (fld (recWord ws 1) 63 56 = 0) && decide (fld (recWord ws 1) 1 0 = 0)
    && decide (fld (recWord ws 2) 63 60 = 0) && decide (fld (recWord ws 2) 47 16 = 0) && recWord ws 6 == 0 && recWord ws 7 == 0

/-- What a spawn launches: a refusal (2 BADREC, 3 NOREC; the record's VA; the report word, 0 where it cannot be read), or a record and
the value for `g0`. -/
inductive Launch where
  | refused (code : Nat) (va report : Word)
  | runs (ws : List Word) (va value : Word)
deriving DecidableEq, Repr

/-- The launch of a spawn: the record named, or through an indirect record the one that the spawn's value names (R188). -/
def launchOf (s : State) (sp : Spawn) : Launch :=
  let direct (va value : Word) : Launch :=
    match readRecord s sp.asid va with
    | none => .refused 3 va 0
    | some ws => if recordLegal ws sp.asid sp.priv then .runs ws va value else .refused 2 va (recWord ws 4)
  match readRecord s sp.asid sp.va with
  | none => .refused 3 sp.va 0
  | some ws =>
    let w := recWord ws 0
    if fld w 63 56 = 1 ∧ fld w 55 52 = 2 ∧ fld w 11 0 = sp.asid then
      match direct sp.value 0 with
      | .runs ws va _ => .runs ws va (recWord ws 3)
      | r => r
    else direct sp.va sp.value

/-! ## Units (R190, R196, R198) -/

/-- The state of a partition: 0 FREE, 1 RUN, 2 HALTED, 3 BUSY. -/
def partSt (s : State) (p : Nat) : Nat := fld (partWord s p) 63 62

/-- Sets a partition's word. -/
def putPart (s : State) (p : Nat) (w : Word) : State := { s with tdu := { s.tdu with parts := mput 0 s.tdu.parts p w } }

/-- Sets a partition's state. -/
def setPartSt (s : State) (p st : Nat) : State := putPart s p (setFld (partWord s p) 63 62 st)

/-- The partition of an ASID that is not FREE. -/
def partOfAsid (s : State) (asid : Nat) : Option Nat := firstIdx 64 fun p => decide (partSt s p ≠ 0) && decide (fld (partWord s p) 43 32 = asid)

/-- The physical tiles of a TILES field, lowest logical tile first. -/
def tilesOf (s : State) (tiles : Nat) : List Nat := (positions 16 fun i => tiles.testBit i).filterMap (physTile s)

/-- The physical tiles of a partition. -/
def partTiles (s : State) (p : Nat) : List Nat := tilesOf s (fld (partWord s p) 15 0)

/-- The physical stacks of a partition. -/
def partStacks (s : State) (p : Nat) : List Nat := positions 12 fun i => bit (partWord s p) (48 + i)

/-- The units that a record allows: those of the partition that its mask selects (R186, R197). DESIGN CHOICE (log entry 70): whether a record
selects no unit (R187) goes by the mask of its own KIND alone. -/
def unitsFor (s : State) (p : Nat) (ws : List Word) : List Nat :=
  if fld (recWord ws 0) 55 52 = 0 then
    let m := fld (recWord ws 2) 15 0
    ((partTiles s p).zipIdx.filter fun x => decide (m = 0) || m.testBit x.2).map (·.1)
  else
    let m := fld (recWord ws 2) 59 48
    (partStacks s p).filter fun i => decide (m = 0) || m.testBit i

/-- The strands resident on a core. -/
def residents (s : State) (kind : AgentKind) (unit : Nat) : List (Agent × Strand) :=
  (s.strands.map fun x => (agentOfKey x.1, x.2)).filter fun x => x.1.kind == kind && x.1.unit == unit && decide (x.2.run ≠ .free)

/-- Contexts of a core of a kind (R182). -/
def contextsOf (kind : AgentKind) : Nat := if kind = .stack then 16 else 64

/-- The lowest base that fits a partition of registers among others (R196). -/
def fitBase (regs size : Nat) (used : List (Nat × Nat)) : Option Nat :=
  (firstIdx (regs / 8 + 1) fun b => decide (b * 8 + size ≤ regs) && used.all fun u => decide (b * 8 + size ≤ u.1) || decide (u.1 + u.2 ≤ b * 8)).map (8 * ·)

/-- Registers of a core that strands may be placed in (R53): none of one that has failed, which is out of use though it is deconfigured at the next
re-initialisation only (R106, R439). -/
def usableRegs (s : State) (core : Nat) : Nat := if mget 0 s.faults.failed core = 2 then 0 else fld (coreOf s core).regcap 11 0

/-- The context and base that a core has for a strand of a size, if any. -/
def roomOn (s : State) (kind : AgentKind) (unit size : Nat) : Option (Agent × Nat) :=
  let rs := residents s kind unit
  let regs := usableRegs s (coreKey ⟨kind, unit, 0⟩)
  match firstIdx (contextsOf kind) (fun c => rs.all fun x => x.1.ctx != c), fitBase regs size (rs.map fun x => (fld x.2.str.part 27 16, fld x.2.str.part 7 0)) with
  | some c, some b => some (⟨kind, unit, c⟩, b)
  | _, _ => none

/-- How many strands of a power class lie on the units that satisfy a test. -/
def classCount (s : State) (kind : AgentKind) (pc : Nat) (on : Nat → Bool) : Nat :=
  (s.strands.filter fun x => let a := agentOfKey x.1; a.kind == kind && on a.unit && decide (x.2.run ≠ .free) && decide (x.2.pclass = pc)).length

/-- The keys of R196 and R198 for a core: power class, then load. -/
def coreRank (s : State) (kind : AgentKind) (pc unit : Nat) : Nat × Nat :=
  let narrow := if kind = .stack then 1 else 4
  let wide := if kind = .stack then 16 else 8
  let k := match pc with
    | 1 | 3 => classCount s kind pc fun u => u / narrow == unit / narrow
    | 2 => classCount s kind pc fun u => u / wide == unit / wide
    | _ => 0
  (k, (residents s kind unit).length)

/-- The candidate of least rank; the first of equals, as candidates stand in order of position. -/
def bestOf (rank : Nat → Nat × Nat) : List (Agent × Nat) → Option (Agent × Nat)
  | [] => none
  | x :: r => some (r.foldl (fun b y =>
      let m := rank b.1.unit
      let n := rank y.1.unit
      if n.1 < m.1 ∨ (n.1 = m.1 ∧ n.2 < m.2) then y else b) x)

/-- The cores of the units in order of position. -/
def coresOf (kind : AgentKind) (us : List Nat) : List Nat :=
  us.flatMap fun u => if kind = .stack then (List.range 16).map (u * 16 + ·) else (List.range 8).map (u * 8 + ·)

/-- The place of a compute strand. -/
def placeCompute (s : State) (us : List Nat) (size pc : Nat) : Option (Agent × Nat) :=
  bestOf (coreRank s .compute pc) ((coresOf .compute us).filterMap fun u => roomOn s .compute u size)

/-- The place of a pair: a core with room, and another core of its quad with room (R432). -/
def placePair (s : State) (us : List Nat) (size pc : Nat) : Option ((Agent × Nat) × (Agent × Nat)) :=
  let mates (u : Nat) : List (Agent × Nat) := ((List.range 4).map (u / 4 * 4 + ·)).filterMap fun v => if v = u then none else roomOn s .compute v size
  match bestOf (coreRank s .compute pc) ((coresOf .compute us).filterMap fun u => if mates u = [] then none else roomOn s .compute u size) with
  | none => none
  | some x => (bestOf (coreRank s .compute pc) (mates x.1.unit)).map fun y => (x, y)

/-- The place of a stack strand, with the affinity of ARG (R198, R72). -/
def placeStack (s : State) (asid : Nat) (us : List Nat) (ws : List Word) : Option (Agent × Nat) :=
  let size := fld (recWord ws 0) 39 32
  let pc := fld (recWord ws 0) 49 48
  let room (l : List Nat) : List (Agent × Nat) := l.filterMap fun u => roomOn s .stack u size
  let any := room (coresOf .stack us)
  let arg := (recWord ws 3).toNat
  match bit (recWord ws 0) 43, place s (tduActor asid 1) none .load arg with
  | true, .ok (.dram pa _) =>
    let x := stackAddr s pa
    let own := x.1 * 16 + bitsOf x.2 12 8 / 2
    match any.find? fun y => y.1.unit == own with
    | some y => some y
    | none => match bestOf (coreRank s .stack pc) (any.filter fun y => y.1.unit / 16 == x.1) with
      | some y => some y
      | none => bestOf (coreRank s .stack pc) any
  | _, _ => bestOf (coreRank s .stack pc) any

/-! ## Selection (R194) -/

/-- What the TDU can do with a queued spawn now: nothing (its partition is not in RUN, or no unit has room), refuse it, place it. -/
inductive Choice where
  | held
  | full
  | refuse (code : Nat) (va report : Word)
  | placed (p : Nat) (ws : List Word) (value : Word) (lead : Agent × Nat) (trail : Option (Agent × Nat))
deriving DecidableEq, Repr

/-- The choice for a spawn. DESIGN CHOICE (log entry 70): while its partition is BUSY outside the halt itself (the grace time of a PREEMPT, the
wait of a SAVE) the spawn is held, as during the halt (R197, R203). -/
def choiceOf (s : State) (sp : Spawn) : Choice :=
  match partOfAsid s sp.asid with
  | none => match launchOf s sp with
    | .refused c va rep => .refuse c va rep
    | .runs ws va _ => .refuse 2 va (recWord ws 4)
  | some p =>
    if partSt s p ≠ 1 then .held
    else match launchOf s sp with
      | .refused c va rep => .refuse c va rep
      | .runs ws va value =>
        let us := unitsFor s p ws
        let size := fld (recWord ws 0) 39 32
        let pc := fld (recWord ws 0) 49 48
        if us = [] then .refuse 2 va (recWord ws 4)
        else if fld (recWord ws 0) 55 52 = 1 then
          match placeStack s sp.asid us ws with
          | some x => .placed p ws value x none
          | none => .full
        else if bit s.faults.pairctl p then
          match placePair s us size pc with
          | some x => .placed p ws value x.1 (some x.2)
          | none => .full
        else match placeCompute s us size pc with
          | some x => .placed p ws value x none
          | none => .full

/-- The level of a spawn: PRIO of its record, one higher while strands of its partition are in a long wait (R194, R199); a spawn to
refuse takes no unit and goes first (log entry 31). -/
def spawnLevel (s : State) (sp : Spawn) : Nat :=
  match launchOf s sp, partOfAsid s sp.asid with
  | .runs ws _ _, some p => min 3 (fld (recWord ws 0) 51 50 + (if waitersOf s p = 0 then 0 else 1))
  | _, _ => 4

/-- Whether an earlier spawn of the same partition and level, passed over 64 times, blocks this one. -/
def blockedBy (before : List (Spawn × Choice × Nat)) (sp : Spawn) (level : Nat) : Bool :=
  before.any fun y => y.1.asid == sp.asid && y.2.2 == level && y.2.1 == .full && decide (64 ≤ y.1.passed)

/-- The spawn that is served next: the oldest of the highest level that can be, with the spawns before and behind it. DESIGN CHOICE (log entry
70): a spawn counts as passed over (R194) when a later one of its partition and level is placed. -/
def selectSpawn (s : State) : Option (List Spawn × Spawn × Choice × List Spawn) :=
  let xs := s.tdu.spawns.map fun sp => (sp, choiceOf s sp, spawnLevel s sp)
  let ready (i : Nat) (x : Spawn × Choice × Nat) : Bool := x.2.1 != .held && x.2.1 != .full && !blockedBy (xs.take i) x.1 x.2.2
  let best := (xs.zipIdx).foldl (fun (b : Option (Nat × Nat)) (x, i) =>
    if ready i x then (match b with | some (_, l) => if l < x.2.2 then some (i, x.2.2) else b | none => some (i, x.2.2)) else b) none
  match best with
  | none => none
  | some (i, level) =>
    match xs[i]? with
    | none => none
    | some (sp, c, _) =>
      let before := (xs.take i).map fun y => if y.1.asid == sp.asid && y.2.2 == level && y.2.1 == .full then { y.1 with passed := y.1.passed + 1 } else y.1
      some (before, sp, c, s.tdu.spawns.drop (i + 1))

/-! ## Placement (R158, R160, R195) -/

/-- The next id of a counter: it wraps from 2^28 − 1 to 1. -/
def nextId (n : Nat) : Nat := if n + 1 < 2 ^ 28 then n + 1 else 1

/-- The first id from n on that no live strand has. -/
def freeId (s : State) (asid : Nat) (stack : Bool) : Nat → Nat → Nat
  | 0, n => n
  | f + 1, n => if isLive s asid (strandParty stack n) then freeId s asid stack f (nextId n) else n

/-- Takes an id of an ASID's counter for strands or stack strands (R195). -/
def takeId (s : State) (asid : Nat) (stack : Bool) : Nat × State :=
  let c := mget (1, 1) s.tdu.ids asid
  let n := freeId s asid stack ((allStrands s).length + 1) (if stack then c.2 else c.1)
  let m := freeId s asid stack ((allStrands s).length + 1) (nextId n)
  (n, { s with tdu := { s.tdu with ids := mset s.tdu.ids asid (if stack then (c.1, m) else (m, c.2)) } })

/-- A strand as it is placed (R160, R202, R417). -/
def newStrand (s : State) (p : Nat) (ws : List Word) (value : Word) (party : Party) (base : Nat) : Strand :=
  let w := recWord ws 0
  { pc := recWord ws 1
    regs := mput 0 [] 0 value
    str := { part := word (base * 2 ^ 16 + fld w 39 32), sched := word (fld w 44 44 * 2 ^ 8 + fld w 47 45), asid := BitVec.ofNat 12 (fld w 11 0)
             tvec := s.faults.tvecdef, timer := recWord ws 5 }
    party := party, report := recWord ws 4, pclass := fld w 49 48, partition := p }

/-- The record of a pair's trailing context: its place and registers (R432). -/
def trailRecord (r : Strand) (base : Nat) : Strand :=
  { str := { r.str with part := word (base * 2 ^ 16 + fld r.str.part 7 0), timer := 0 }, run := .parked .trailing, pclass := r.pclass, partition := r.partition }

/-- A strand enters a context, READY. DESIGN CHOICE (log entry 70): a record's TIMER word with EN = 1 and COUNT = 0 expires at once, as such a
write to STR.TIMER does (R202). -/
def enterContext (s : State) (a : Agent) (r : Strand) (trail : Option (Agent × Nat)) : State :=
  let s := match trail with | some (b, base) => putStrand s b (trailRecord r base) | none => s
  let s := makeReady (putStrand s a { r with pair := trail.map (·.1) }) a
  if timerAtOnce r.str.timer then post s 0 (.strandTimerExpiry a) else s

/-- A pending spawn of a bound word is over: the word is empty (R158). -/
def spawnOver (s : State) (bound : Option Nat) : State :=
  match bound with
  | none => s
  | some l =>
    let s := { s with tdu := { s.tdu with boundFull := mdel s.tdu.boundFull l } }
    wordChanged (setFull s l false) l

/-- Commits that wait at their words' homes enter the queue while places are free, at most n of them (R194; the lowest location first: log
entry 8). -/
def commitUpTo : Nat → State → State
  | 0, s => s
  | n + 1, s =>
    if spawnCapacity ≤ s.tdu.spawns.length then s
    else match s.tdu.boundFull.find? fun x => x.2.isSome with
      | some (l, some sp) => commitUpTo n { s with tdu := { s.tdu with spawns := s.tdu.spawns ++ [sp], boundFull := mset s.tdu.boundFull l none } }
      | _ => s

/-- The commits that wait enter the queue as far as it has room, and the TDU looks at its queue. -/
def commitWaiting (s : State) : State :=
  let n := (s.tdu.boundFull.filter fun x => x.2.isSome).length
  if n = 0 then s else post (commitUpTo n s) Config.lat.tdu .placement

/-- A refused launch (R187, R189): the report where it can be read, and a LAUNCH record. -/
def refuseLaunch (s : State) (sp : Spawn) (code : Nat) (va report : Word) : State :=
  let s := if report = 0 then s else post s 1 (.reportFill sp.asid report (reportValue code 0 0))
  record s 7 3 sp.asid 0 0 va (word (code - 1)) 0 0 0

/-- A spawn is served as chosen. -/
def serveSpawn (s : State) (sp : Spawn) : Choice → State
  | .refuse code va report => spawnOver (refuseLaunch s sp code va report) sp.bound
  | .placed p ws value lead trail =>
    let stack := decide (lead.1.kind = .stack)
    let x := takeId s sp.asid stack
    spawnOver (enterContext x.2 lead.1 (newStrand x.2 p ws value (strandParty stack x.1) lead.2) trail) sp.bound
  | .held | .full => s

/-- PLACEMENT (R194): the TDU serves one queued spawn; while others can be served it goes on. -/
def execPlacement (s : State) : Host.Outcome State Fault Refusal :=
  match selectSpawn s with
  | none => .next s
  | some (before, sp, c, behind) =>
    let s := serveSpawn { s with tdu := { s.tdu with spawns := before ++ behind } } sp c
    let s := commitWaiting s
    .next (if s.tdu.spawns = [] then s else post s 1 .placement)

end Sys2Proof.Machine
end

