-- ==== Sys2Proof/Machine/Image.lean ====
section
/-! DEFINITION. Context images (R209 to R214): the records of R211 as sparse bytes, the image with its header, and the reading of both. -/

namespace Sys2Proof.Machine

/-! ## Sparse bytes -/

/-- Bytes from offset 0 up to a length; those not listed are zero. -/
structure Blob where
  len : Nat
  bytes : List (Nat × Byte)
deriving DecidableEq, Repr

/-- One blob behind another. -/
def Blob.then (a b : Blob) : Blob := ⟨a.len + b.len, a.bytes ++ b.bytes.map fun x => (x.1 + a.len, x.2)⟩

/-- Blobs one behind another. -/
def joinBlobs (bs : List Blob) : Blob := ⟨bs.foldl (fun n b => n + b.len) 0, (bs.foldl (fun (x : Nat × List (List (Nat × Byte))) b =>
  (x.1 + b.len, b.bytes.map (fun y => (y.1 + x.1, y.2)) :: x.2)) (0, [])).2.reverse.flatten⟩

/-- Words, little-endian. -/
def blobOfWords (ws : List Word) : Blob := ⟨8 * ws.length, sparseBytes 0 (ws.flatMap wordBytes)⟩

/-- Zero bytes. -/
def blobZeros (n : Nat) : Blob := ⟨n, []⟩

/-- A bitmap of n bits, bit i in byte i / 8. -/
def blobOfBits (n : Nat) (p : Nat → Bool) : Blob :=
  ⟨n / 8, sparseBytes 0 ((List.range (n / 8)).map fun i => BitVec.ofNat 8 ((positions 8 fun j => p (8 * i + j)).foldl (fun v j => v + 2 ^ j) 0))⟩

/-- n bytes of memory from a location on. -/
def blobOfMem (s : State) (l n : Nat) : Blob := ⟨n, (s.mem.filter fun x => decide (l ≤ x.1) && decide (x.1 < l + n)).map fun x => (x.1 - l, x.2)⟩

/-- A record: its length in bits [63:32] of its first word, padded to 64 bytes (R211). -/
def mkRecord (low : Nat) (body : Blob) : Blob :=
  let n := (8 + body.len + 63) / 64 * 64
  ⟨n, (blobOfWords [word (n * 2 ^ 32 + low)] |>.then body).bytes⟩

/-! ## Places in an image -/

/-- The location word of R211. -/
def locWord (id unit core ctx : Nat) : Word := word (id % 2 ^ 28 * 2 ^ 32 + unit * 2 ^ 16 + core * 2 ^ 8 + ctx)

/-- The position of a physical unit in the partition's list of units. -/
def indexIn (us : List Nat) (u : Nat) : Nat := us.findIdx (· == u)

/-- A word's location with side memories named by their logical unit: kind in bits [63:60] (0 DRAM, 1 scratchpad, 2 mailbox). -/
def wordPlace (tiles : List Nat) (l : Nat) : Word :=
  if l < 2 ^ 52 then word l
  else if l < 2 ^ 53 then
    let q := (l - 2 ^ 52) / 2 ^ 23
    word (2 ^ 60 + (indexIn tiles (q / 2) * 2 + q % 2) * 2 ^ 23 + (l - 2 ^ 52) % 2 ^ 23)
  else word (2 * 2 ^ 60 + indexIn tiles ((l - 2 ^ 54) / 2 ^ 16) * 2 ^ 16 + (l - 2 ^ 54) % 2 ^ 16)

/-- The location that such a word names on the units of a restore. -/
def placeOf (tiles : List Nat) (w : Word) : Nat :=
  let o := fld w 59 0
  match fld w 63 60 with
  | 0 => o
  | 1 => scratchLoc (tiles.getD (o / 2 ^ 24) 0 * 2 + o / 2 ^ 23 % 2) (o % 2 ^ 23)
  | _ => mailLoc (tiles.getD (o / 2 ^ 16) 0) (o % 2 ^ 16)

/-! ## Strand records -/

/-- The number of a kind of request. -/
def SyncKind.num : SyncKind → Nat
  | .take => 0 | .fill => 1 | .peek => 2 | .empty => 3 | .aadd => 4 | .aand => 5 | .aor => 6 | .amin => 7 | .amax => 8 | .axch => 9 | .acas => 10

/-- The kind of a number. -/
def syncKindOf (n : Nat) : SyncKind :=
  match n with
  | 0 => .take | 1 => .fill | 2 => .peek | 3 => .empty | 4 => .aadd | 5 => .aand | 6 => .aor | 7 => .amin | 8 => .amax | 9 => .axch | _ => .acas

/-- A destination register as a number; 192 for none. -/
def dstNum (d : Option Nat) : Nat := d.getD 192

/-- The destination of a number. -/
def dstOfNum (n : Nat) : Option Nat := if n < 128 then some n else none

/-- The four words of a withdrawn request; its kind is counted from 1, so that no request is four words of zero. -/
def withdrawnWords (q : SyncReq) : List Word := [word (q.kind.num + 1 + dstNum q.dst * 2 ^ 8 + (if q.listed then 2 ^ 17 else 0)), q.va, q.v, q.v2]

/-- The request of four words; its location is found when it is sent again. -/
def withdrawnOf (a : Agent) (asid : Nat) (r : Strand) (w : Nat → Word) : SyncReq :=
  let d := dstOfNum (fld (w 0) 15 8)
  ⟨.agent a, syncKindOf (fld (w 0) 7 0 - 1), 0, 0, w 1, asid, w 2, w 3, d, match d with | some n => r.reg n | none => 0, bit (w 0) 17, false, false⟩

/-- The six words of a pass that a halt stopped. -/
def stoppedWords (q : MeshReq) : List Word :=
  let p := q.part.getD { ctx := 0 }
  [word (q.kind + dstNum q.dst * 2 ^ 8 + (match q.sig with | some (i, k) => 2 ^ 16 + i.toNat * 2 ^ 24 + k.toNat * 2 ^ 20 | none => 0)
    + (match p.bank with | some i => (1 + i) * 2 ^ 17 | none => 0) + p.flags * 2 ^ 32 + (match p.eb with | some e => 2 ^ 48 + e % 256 * 2 ^ 40 | none => 0)
    + bitAt p.alarm 49 + p.low * 2 ^ 56), q.a, q.b, q.pc, p.ctx, word p.done]

/-- The pass of six words. -/
def stoppedOf (a : Agent) (party : Party) (w : Nat → Word) : MeshReq :=
  let x := w 0
  { kind := fld x 7 0, by_ := a, party := party, dst := dstOfNum (fld x 15 8)
    sig := if bit x 16 then some (BitVec.ofNat 8 (fld x 31 24), BitVec.ofNat 4 (fld x 23 20)) else none
    a := w 1, b := w 2, pc := w 3
    part := some { done := (w 5).toNat, ctx := w 4, bank := if fld x 18 17 = 0 then none else some (fld x 18 17 - 1)
                   eb := if bit x 48 then some (fld x 47 40) else none, low := fld x 63 56, flags := fld x 39 32, alarm := bit x 49 } }

/-- The STR registers as words by number (R292). -/
def strWord (r : StrRegs) (i : Nat) : Word :=
  match i with
  | 0 => r.part | 1 => r.sched | 2 => r.asid.setWidth 64 | 3 => r.tvec | 4 => r.xlate | 5 => r.holdf | 6 => r.fpctl | 7 => r.syncretry
  | 8 => r.timer | 9 => r.rep | 0xA => r.reppc | 0xB => r.mon0 | 0xC => r.mon1 | 0xD => r.mon2 | 0xE => r.mon3 | 0xF => r.hta | 0x10 => r.htb
  | 0x12 => r.htr | 0x13 => r.tsm0 | 0x14 => r.tsm1 | 0x15 => r.tsm2 | 0x16 => r.tcause | 0x17 => r.txpc | 0x18 => r.txva | 0x19 => r.txrep
  | 0x1A => r.txreppc | 0x1B => r.txstat | 0x20 => r.vflags | 0x21 => r.usel | _ => 0

/-- The fields of the STR registers that are not Reserved (R11; R37, R91, R103, R141, R149, R162, R175, R202, R235, R360, R414, R417, R418); of
PRIV the bit that a strand's privilege can set (R162). -/
def strFields (i : Nat) : Word :=
  match i with
  | 0 => maskOf 27 16 ||| maskOf 7 0 | 1 => maskOf 8 7 ||| maskOf 2 0 | 3 => maskOf 55 6 | 5 => maskOf 63 54 ||| maskOf 48 0
  | 6 => maskOf 20 20 ||| maskOf 13 8 ||| maskOf 5 0 | 7 => maskOf 15 0
  | 9 | 0x19 => maskOf 63 63 ||| maskOf 59 28 ||| maskOf 6 0
  | 0xA | 0x17 | 0x1A => maskOf 55 2
  | 0xB | 0xC | 0xD | 0xE => maskOf 63 62 ||| maskOf 55 6
  | 0xF => maskOf 55 8 | 0x10 => maskOf 39 0 | 0x12 => maskOf 47 32 ||| maskOf 7 0
  | 0x13 | 0x14 | 0x15 => 0
  | 0x16 => maskOf 63 56 ||| maskOf 53 0 | 0x18 => maskOf 55 0 | 0x1B => maskOf 63 63 ||| maskOf 9 8 | 0x20 => maskOf 5 0
  | 0x21 => maskOf 23 8 ||| maskOf 5 0
  | _ => maskOf 63 0

/-- The STR registers of words by number; what the words hold in Reserved fields is ignored (R11), and no slice is touched (R211). -/
def strOf (x : Nat → Word) : StrRegs :=
  let w (i : Nat) : Word := x i &&& strFields i
  { part := w 0, sched := w 1, asid := BitVec.ofNat 12 (fld (w 2) 11 0), tvec := w 3, xlate := w 4, holdf := w 5, fpctl := w 6, syncretry := w 7
    timer := w 8, rep := w 9, reppc := w 0xA, mon0 := w 0xB, mon1 := w 0xC, mon2 := w 0xD, mon3 := w 0xE, hta := w 0xF, htb := w 0x10, htr := w 0x12
    tsm0 := w 0x13, tsm1 := w 0x14, tsm2 := w 0x15, tcause := w 0x16, txpc := w 0x17, txva := w 0x18, txrep := w 0x19, txreppc := w 0x1A
    txstat := w 0x1B, vflags := w 0x20, usel := w 0x21 }

/-- The pending traps in bits [5:2] of the flags, with the INFO of a mesh alarm in [9:8] and the chip of a fabric loss in [27:16]. -/
def pendingNum (p : Pending) : Nat :=
  (if p.timer then 4 else 0) + (if p.preempt then 8 else 0) + (match p.meshAlarm with | some i => 16 + i % 4 * 256 | none => 0)
    + (match p.fabricLoss with | some c => 32 + c % 4096 * 65536 | none => 0)

/-- The pending traps of the flags word. -/
def pendingOf (w : Word) : Pending :=
  ⟨bit w 2, bit w 3, if bit w 4 then some (fld w 9 8) else none, if bit w 5 then some (fld w 27 16) else none⟩

/-- What a halted strand waits for still, in bits [31:28] of the flags, with its data in word 0x30: a barrier, an interrupted MWAIT. -/
def waitWords (r : Strand) : Nat × Word :=
  match r.run with
  | .halted (some (.gbar g)) => (1, word g)
  | .halted (some (.monitor d)) => (2, word (dstNum d))
  | _ => (0, 0)

/-- The wait of those words. -/
def waitOf (n : Nat) (w : Word) : Run :=
  match n with
  | 1 => .halted (some (.gbar w.toNat))
  | 2 => .halted (some (.monitor (dstOfNum (fld w 7 0))))
  | _ => .halted none

/-- A strand's record (R211): REPORT at 0x20, PCLASS at 0x28, a wait at 0x30, up to ten stopped passes in unassigned register numbers
from 64 on, a fence in number 63, are the model's places (log entry 32). STR.SCHED is saved with LEASE as it reads (R417). -/
def strandRecord (r : Strand) (unit core ctx : Nat) (lv : Option (List (Nat × BitVec 4096))) (stopped : List MeshReq) : Blob :=
  let w := waitWords r
  let flags := (if lv.isSome then 1 else 0) + (if r.boost then 2 else 0) + pendingNum r.pending + w.1 * 2 ^ 28
  let stop := stopped.flatMap stoppedWords
  let fence : Word := match r.fence with | some f => word (2 ^ 63 + f.scope * 2 ^ 8 + dstNum f.dst) | none => 0
  let regs := (List.range 128).map fun i => if 64 ≤ i then stop.getD (i - 64) 0 else if i = 63 then fence
    else if i = 1 then setFld r.str.sched 7 7 (if lv.isSome then 1 else 0) else strWord r.str i
  let size := fld r.str.part 7 0
  let bank := match partyKind r.party, lv with
    | 4, _ => blobOfWords ((List.range 128).map fun i => word ((mget 0 r.svs (i / 16)).toNat / 2 ^ (64 * (i % 16))))
    | _, some bank => blobOfWords ((List.range 2048).map fun i => word ((mget 0 bank (i / 64)).toNat / 2 ^ (64 * (i % 64))))
    | _, none => blobZeros 0
  mkRecord (partyKind r.party * 2 ^ 28) (joinBlobs [
    blobOfWords [locWord (partyNum r.party) unit core ctx, r.pc, word flags, r.report, word r.pclass, w.2, 0],
    blobOfWords regs,
    blobOfWords ((List.range 16).map fun i => ((r.withdrawn.take 4).flatMap withdrawnWords).getD i 0),
    blobOfBits 128 (fun i => !r.isEmpty i),
    blobOfWords ((List.range size).map fun i => r.reg i),
    bank])

/-! ## Records of units -/

/-- A core's record: CORE.QWEIGHT and the four FIFOs. -/
def coreRecord (c : Core) (tile core : Nat) : Blob :=
  mkRecord 0 (blobOfWords ([locWord 0 tile core 0, c.qweight] ++ (List.range 4).flatMap fun p =>
    let es := (c.rq.filter fun e => e.1 == p).map (·.2)
    word es.length :: (List.range 64).map fun i => es.getD i 0))

/-- The accumulator elements of a tile by their logical keys (R65, R209). -/
def logicalAcc (x : Tile) : List (Nat × BitVec 96) :=
  x.acc.filterMap fun e =>
    let r := e.1 / 64
    match x.rowMap.find? fun m => m.2 == r with
    | some m => some (m.1 * 64 + e.1 % 64, e.2)
    | none => if (mfind x.rowMap r).isNone && decide (r < 4096) then some e else none

/-- A tile's record with accumulator elements by their row and column. -/
def tileRecordOf (s : State) (x : Shadow) (t i : Nat) (acc : List (Nat × BitVec 96)) : Blob :=
  let tl := tileOf s t
  let core (k : Nat) : Core := mget {} x.cores (t * 8 + k)
  mkRecord 0 (joinBlobs [
    blobOfWords [locWord 0 i 0 0],
    blobOfWords ((List.range 256).map fun k => mget 0 (mget [] x.sems t) k),
    blobOfMem s (mailLoc t 0) 65536,
    blobOfBits 8192 (fun k => isFull s (mailLoc t (8 * k))),
    ⟨64 * 4096 * 12, acc.flatMap fun e => (sparseBytes 0 (leBytes 12 e.2.toNat)).map fun b => (e.1 * 12 + b.1, b.2)⟩,
    blobOfWords ((List.range 64).map fun k => mget 0 tl.accMeta k),
    blobOfWords ((List.range 8).flatMap fun k => [(core k).fmtctx, 0, 0, 0, 0, 0, 0, 0]),
    blobOfWords ((List.range 8).map fun k => (core k).progress),
    ⟨stencilSize, if tl.mesh.bank0.valid then tl.mesh.bank0.stencil else []⟩,
    ⟨stencilSize, if tl.mesh.bank1.valid then tl.mesh.bank1.stencil else []⟩,
    blobOfWords [word tl.mesh.active]])

/-- A tile's record. -/
def tileRecord (s : State) (x : Shadow) (t i : Nat) : Blob := tileRecordOf s x t i (logicalAcc (tileOf s t))

/-- A quad's record: scratchpad, bitmap, holder entries, share records. -/
def quadRecord (s : State) (q i : Nat) : Blob :=
  mkRecord 0 (joinBlobs [
    blobOfWords [locWord 0 (i / 2) (i % 2 * 4) 0],
    blobOfMem s (scratchLoc q 0) (2 ^ 23),
    blobOfBits (2 ^ 20) (fun k => isFull s (scratchLoc q (8 * k))),
    blobOfWords ((List.range 32).flatMap fun k => Entry.words (mget {} s.entries (65536 + q * 32 + k))),
    blobOfWords ((List.range 64).flatMap fun k => [Share.word0 (mget {} s.shares (131072 + q * 64 + k)), 0])])

/-- A stack core's record. -/
def stackRecord (s : State) (unit i : Nat) : Blob :=
  mkRecord 0 (joinBlobs [blobOfWords [locWord 0 i (unit % 16) 0], blobOfMem s (stackLoc unit 0) (2 ^ 18),
    blobOfBits (2 ^ 15) fun k => isFull s (stackLoc unit (8 * k))])

/-- A kick's entry of 128 bytes (R211). -/
def kickWords (k : Kick) : List Word := [k.word, 0, 0, 0, 0, 0, 0, 0] ++ (List.range 8).map fun i => k.block.getD i 0

/-- The registers that hold a routine's state in an engine record: the block of the operation in progress in g0 to g7, its kick word,
progress, End, flags, the addresses still to return, the element of a table read, and the parties that kicked, those of the queue behind them. -/
def routineRegs (e : Engine) : List Word :=
  let op := match e.op with | some k => (List.range 8).map (fun i => k.block.getD i 0) ++ [k.word] | none => List.replicate 9 0
  let ending := match e.ending with | some (a, b) => word (2 ^ 63 + a % 128 * 2 ^ 56 + b % 2 ^ 56) | none => 0
  let by_ (k : Option Kick) : Word := match k with | some k => word (k.by_.1 * 2 ^ 32 + k.by_.2.toNat) | none => 0
  op ++ [word e.progress, ending,
    word (bitAt e.op.isSome 0 + bitAt e.filled 1 + bitAt e.lost 2 + bitAt e.elem.isSome 3 + min 3 e.returns.length * 2 ^ 8),
    e.returns.getD 0 0, e.returns.getD 1 0, match e.elem with | some x => word x.1 | none => 0, match e.elem with | some x => x.2 | none => 0, by_ e.op]
    ++ ((List.range 8).map fun i => by_ e.queue[i]?) ++ List.replicate 7 0

/-- An engine's record: its id, pc, the registers of its hart and their full bits, its kick queue. The microcode of the routines is not printed, so
that a routine of the model has no instruction of its own to stop at: of an engine with work the hart's registers hold the routine's state,
and bit 32 of the id's word says so (log entry 32). -/
def engineRecord (e : Engine) (h : Strand) (slot tile : Nat) : Blob :=
  let busy := e.op.isSome || decide (e.queue ≠ [])
  let regs := if busy then routineRegs e else (List.range 32).map h.reg
  mkRecord 0 (joinBlobs [blobOfWords [word (tile * 256 + slot + bitAt busy 32), h.pc], blobOfWords regs,
    blobOfWords [word ((positions 32 fun i => !h.isEmpty i).foldl (fun v i => v + 2 ^ i) 0)],
    blobOfWords ((List.range 8).flatMap fun i => match e.queue[i]? with | some k => kickWords k | none => List.replicate 16 0)])

/-- A committed spawn as a pending record: record VA, value, priority, commit order, the privilege with how often it was passed over, the
bound word and its VA. -/
def spawnRecord (s : State) (tiles : List Nat) (sp : Spawn) (i : Nat) : Blob :=
  mkRecord 1 (blobOfWords [sp.va, sp.value, word (spawnLevel s sp % 4), word i, word (sp.priv + sp.passed * 2 ^ 8),
    match sp.bound with | some l => wordPlace tiles l + 1 | none => 0, sp.at_])

/-- The completion that the TDU holds as a pending record: the mailbox word and its value, and what follows the Fill: the completion's header,
how far it has come (R393), and whose kick it was (R121). -/
def endRecord (s : State) (tiles : List Nat) (x : Engine) : Blob :=
  match x.op, x.ending with
  | some k, some (st, d) =>
    mkRecord 2 (blobOfWords [match endTile s 90 k with | some t => wordPlace tiles (mailLoc t (8 * fld (argWord k 0) 12 0)) | none => 0,
      word (st * 2 ^ 56 + d % 2 ^ 56), argWord k 0, word (bitAt x.filled 0 + x.progress * 2), word (k.by_.1 * 2 ^ 32 + k.by_.2.toNat), 0, 0])
  | _, _ => blobZeros 64

/-- The pending records of a partition, in order of arrival (R211): committed spawns, those too that wait for a place in the queue, and
held completions. -/
def pendingRecords (s : State) (asid : Nat) (tiles : List Nat) (ends : List Engine) : List Blob :=
  let sps := (s.tdu.spawns ++ s.tdu.boundFull.filterMap fun x => x.2).filter fun sp => decide (sp.asid = asid)
  let xs := (sps.zipIdx.map fun y => (y.1.since, spawnRecord s tiles y.1 y.2)) ++ ends.map fun x => (x.since, endRecord s tiles x)
  (xs.foldr (fun x ys => ys.takeWhile (fun y => decide (y.1 < x.1)) ++ x :: ys.dropWhile fun y => decide (y.1 < x.1)) []).map (·.2)

/-! ## The image (R209, R210) -/

/-- Engine slots of a tile whose state an image holds: copy engines 0 to 3 and the stencil engine. -/
def imageEngines (tiles : List Nat) : List Nat := tiles.flatMap fun t => (List.range 5).map (t * 5 + ·)

/-- Device-level engine operations that a partition kicked and that still run. -/
def deviceOps (s : State) (p : Nat) : Nat :=
  ((s.engines.filter fun x => decide (90 ≤ x.1)).map fun x => (x.2.queue ++ x.2.op.toList).filter fun k => decide (k.partition = p)).flatten.length

/-- The sections of a partition's image, by type from 1. -/
def imageSections (s : State) (p extra : Nat) : List (List Blob) :=
  let x := mget {} s.tdu.shadows p
  let tiles := partTiles s p
  let stackSet := partStacks s p
  let asid := fld (partWord s p) 43 32
  let strands := (x.strands.filter fun e => decide (e.1 < 30000) && decide (e.2.party ≠ 0)).map fun e =>
    let a := agentOfKey e.1
    let c := mget {} x.cores (coreKey a)
    let stopped := c.meshQueue.filter fun q => q.by_ == a && q.part.isSome
    if a.kind = .stack then strandRecord e.2 (indexIn stackSet (a.unit / 16)) (a.unit % 16) a.ctx none stopped
    else strandRecord e.2 (indexIn tiles (a.unit / 8)) (a.unit % 8) a.ctx (if c.lease = some a.ctx then some c.lv else none) stopped
  [strands,
    tiles.zipIdx.flatMap fun t => (List.range 8).map fun k => coreRecord (mget {} x.cores (t.1 * 8 + k)) t.2 k,
    tiles.zipIdx.map fun t => tileRecord s x t.1 t.2,
    tiles.zipIdx.flatMap fun t => [quadRecord s (t.1 * 2) (t.2 * 2), quadRecord s (t.1 * 2 + 1) (t.2 * 2 + 1)],
    stackSet.zipIdx.flatMap fun t => (List.range 16).map fun k => stackRecord s (t.1 * 16 + k) t.2,
    (imageEngines tiles).map fun e => engineRecord (mget {} x.engines e) (mget {} x.strands (30000 + e)) (e % 5) (indexIn tiles (e / 5)),
    pendingRecords s asid tiles x.ends ++ List.replicate extra (blobZeros 64)]

/-- The image of a partition (R210); `extra` held Fills are still to come. -/
def imageOf (s : State) (p extra : Nat) : Blob :=
  let secs := imageSections s p extra
  let body := joinBlobs (secs.map joinBlobs)
  let dir := (secs.zipIdx.foldl (fun (x : Nat × List (Nat × Nat × Nat)) y =>
    (x.1 + (joinBlobs y.1).len, x.2 ++ [(y.2 + 1, y.1.length, x.1)])) (512, [])).2.filter fun d => d.2.1 ≠ 0
  let ids := mget (1, 1) s.tdu.ids (fld (partWord s p) 43 32)
  let digest := sm3 (denseBytes body.len 0 body.bytes)
  let head := blobOfWords ([0x5A4D4349, word (1 + 512 * 2 ^ 16), word (ids.1 * 2 ^ 32 + fld (partWord s p) 43 32), word (ids.2 * 2 ^ 32),
    word ((partTiles s p).length + (partStacks s p).length * 2 ^ 8 + 64 * 2 ^ 16 + 64 * 2 ^ 32 + 96 * 2 ^ 48), word (512 + body.len), 0, 0])
  let entries := (List.range 16).flatMap fun i => match dir[i]? with
    | some (t, n, o) => [word (t + n * 2 ^ 16), word o]
    | none => [0, 0]
  joinBlobs [head, ⟨32, sparseBytes 0 digest⟩, blobZeros 32, blobOfWords entries, blobZeros 128, body]

/-- The length of a partition's image in units of 256 bytes, with room for the completions to come (R209). -/
def imageLength (s : State) (p : Nat) : Nat := (512 + (joinBlobs ((imageSections s p (deviceOps s p)).map joinBlobs)).len + 255) / 256

/-! ## Reading an image -/

/-- A word at an offset. -/
def Blob.word (b : Blob) (o : Nat) : Word := BitVec.ofNat 64 (leNat ((List.range 8).map fun i => mget 0 b.bytes (o + i)))

/-- The bytes of a range. -/
def Blob.slice (b : Blob) (o n : Nat) : List (Nat × Byte) := (b.bytes.filter fun x => decide (o ≤ x.1) && decide (x.1 < o + n)).map fun x => (x.1 - o, x.2)

/-- One bit of a bitmap at an offset. -/
def Blob.bit (b : Blob) (o i : Nat) : Bool := (mget 0 b.bytes (o + i / 8)).getLsbD (i % 8)

/-- The offsets of the records of a section: each record's first word gives its length. -/
def recordOffsets (b : Blob) : Nat → Nat → List Nat
  | 0, _ => []
  | n + 1, o => o :: recordOffsets b n (o + max 64 (fld (b.word o) 63 32))

/-- The records of a section type. -/
def sectionOffsets (b : Blob) (t : Nat) : List Nat :=
  match (List.range 16).find? fun i => decide (fld (b.word (0x80 + 16 * i)) 15 0 = t) with
  | some i => recordOffsets b (fld (b.word (0x80 + 16 * i)) 47 16) (b.word (0x88 + 16 * i)).toNat
  | none => []

/-- The ASID, tile and stack count of an image, and its length. -/
def imageAsid (b : Blob) : Nat := fld (b.word 0x10) 11 0
/-- Tiles of an image. -/
def imageTiles (b : Blob) : Nat := fld (b.word 0x20) 7 0
/-- Stacks of an image. -/
def imageStacks (b : Blob) : Nat := fld (b.word 0x20) 15 8

/-- Whether version and logical dimensions are known (R191: CTX_VER). -/
def imageKnown (b : Blob) : Bool :=
  b.word 0 == 0x5A4D4349 && b.word 8 == word (1 + 512 * 2 ^ 16) && decide (fld (b.word 0x20) 31 16 = 64) && decide (fld (b.word 0x20) 47 32 = 64)
    && decide (fld (b.word 0x20) 63 48 = 96) && decide (imageTiles b ≤ 16) && decide (imageStacks b ≤ 12)

/-- Whether the digest matches. -/
def imageWhole (b : Blob) : Bool :=
  (List.range 32).all fun i => mget 0 b.bytes (0x40 + i) == (sm3 (denseBytes (b.len - 512) 512 (b.bytes.filter fun x => decide (512 ≤ x.1)))).getD i 0

/-- A strand record as read: its context's place, the strand, the long-vector bank of a lease holder, its stopped passes. -/
structure StrandImage where
  stack : Bool
  unit : Nat
  core : Nat
  ctx : Nat
  strand : Strand
  lv : Option (List (Nat × BitVec 4096))
  stopped : List (Nat → Word)

/-- Reads a strand record; its requests name the context that it will have. -/
def readStrand (b : Blob) (o : Nat) : StrandImage :=
  let kind := fld (b.word o) 31 28
  let loc := b.word (o + 8)
  let flags := b.word (o + 0x18)
  let str := strOf fun i => if i = 1 then setFld (b.word (o + 0x48)) 7 7 0 else b.word (o + 0x40 + 8 * i)
  let size := fld str.part 7 0
  let regs := (List.range size).foldl (fun m i => mput 0 m i (b.word (o + 0x4D0 + 8 * i))) []
  let empties := positions size fun i => !b.bit (o + 0x4C0) i
  let bankAt := o + 0x4D0 + 8 * size
  let wide (n k : Nat) : Nat := (List.range n).foldl (fun v i => v + (b.word (bankAt + 8 * (k * n + i))).toNat * 2 ^ (64 * i)) 0
  let fence := b.word (o + 0x40 + 8 * 63)
  { stack := decide (kind = 4), unit := fld loc 23 16, core := fld loc 15 8, ctx := fld loc 7 0
    strand := {
      run := waitOf (fld flags 31 28) (b.word (o + 0x30)), pc := b.word (o + 0x10), regs := regs, empties := empties, str := str
      svs := if kind = 4 then (List.range 8).foldl (fun m k => mput 0 m k (BitVec.ofNat 1024 (wide 16 k))) [] else []
      party := BitVec.ofNat 32 (kind * 2 ^ 28 + fld loc 59 32), pending := pendingOf flags, boost := bit flags 1
      report := b.word (o + 0x20), pclass := fld (b.word (o + 0x28)) 1 0
      fence := if bit fence 63 then some ⟨fld fence 9 8, dstOfNum (fld fence 7 0), [], 0, false⟩ else none }
    lv := if bit flags 0 then some ((List.range 32).foldl (fun m k => mput 0 m k (BitVec.ofNat 4096 (wide 64 k))) []) else none
    stopped := ((List.range 10).map fun j => fun i => b.word (o + 0x40 + 8 * (64 + 6 * j + i))).filter fun w => fld (w 0) 7 0 ≠ 0 }

/-- The withdrawn requests of a strand record for a context. -/
def readWithdrawn (b : Blob) (o : Nat) (a : Agent) (r : Strand) : List SyncReq :=
  ((List.range 4).filter fun j => b.word (o + 0x440 + 32 * j) ≠ 0 ∨ b.word (o + 0x448 + 32 * j) ≠ 0).map fun j =>
    withdrawnOf a r.str.asid.toNat r fun i => b.word (o + 0x440 + 32 * j + 8 * i)

end Sys2Proof.Machine
end

