-- ==== Sys2Proof/Machine/Mesh.lean ====
section
/-! DEFINITION. Mesh requests and what the mesh does with them (R179, R246 to R263, R270, R271, R377 to R388). -/

namespace Sys2Proof.Machine

/-! ## Issue and queueing (R377) -/

/-- Requests that a core's mesh request queue holds (R179). -/
def meshDepth : Nat := 4

/-- A mesh request issues: clauses, a place in its core's queue, D empty; the strand parks until the mesh accepts it, its pc at the
request. -/
def meshIssue (kind : Nat) (d : GDst) (us : State → List Use) (c : Clauses) (a b : State → Word) (s : State) :
    Host.Outcome State Fault Refusal :=
  finish 8 (issue s (clauseIllegal s c) (gdstUse s d ++ us s) fun s => waitClause s c <| eventGate s <|
    if meshDepth ≤ (coreOf s (coreKey s.cur)).meshQueue.length then retryMe s 1
    else
      let q : MeshReq := ⟨kind, s.cur, (me s).party, dstOf s d, c.sig, a s, b s, (me s).pc, none⟩
      let s := modCore s (coreKey s.cur) fun c => { c with meshQueue := c.meshQueue ++ [q] }
      .hold (parkAs (post (emptyDst s q.dst) 1 (.meshAccept (myTile s))) s.cur .mesh))

/-- MFMT (R379). -/
def execMfmt (d : GDst) (a : Src) (c : Clauses) (s : State) := meshIssue 0 d (fun s => srcUse s a) c (fun s => srcVal s a 8) (fun _ => 0) s
/-- PLOAD (R380). -/
def execPload (d : GDst) (a : Src) (c : Clauses) (s : State) := meshIssue 1 d (fun s => srcUse s a) c (fun s => srcVal s a 8) (fun _ => 0) s
/-- PSWAP (R381). -/
def execPswap (d : GDst) (c : Clauses) (s : State) := meshIssue 2 d (fun _ => []) c (fun _ => 0) (fun _ => 0) s
/-- MPASS (R382). -/
def execMpass (d : GDst) (a b : Src) (c : Clauses) (s : State) :=
  meshIssue 3 d (fun s => srcUse s a ++ srcUse s b) c (fun s => srcVal s a 8) (fun s => srcVal s b 8) s
/-- MTRAN (R382). -/
def execMtran (d : GDst) (a b : Src) (c : Clauses) (s : State) :=
  meshIssue 4 d (fun s => srcUse s a ++ srcUse s b) c (fun s => srcVal s a 8) (fun s => srcVal s b 8) s
/-- MPROBE (R384). -/
def execMprobe (d : GDst) (c : Clauses) (s : State) := meshIssue 5 d (fun _ => []) c (fun _ => 0) (fun _ => 0) s
/-- ACLR (R385). -/
def execAclr (d : GDst) (a b : Src) (c : Clauses) (s : State) :=
  meshIssue 6 d (fun s => srcUse s a ++ srcUse s b) c (fun s => srcVal s a 8) (fun s => srcVal s b 8) s
/-- MSTAT (R388). -/
def execMstat (d : GDst) (a : Src) (c : Clauses) (s : State) := meshIssue 7 d (fun s => srcUse s a) c (fun s => srcVal s a 8) (fun _ => 0) s

/-! ## Answers (R378) -/

/-- The mesh of a tile. -/
def meshOf (s : State) (t : Nat) : Mesh := (tileOf s t).mesh

/-- The mesh status word. -/
def meshWord (eb count status : Nat) : Word := word (eb % 256 * 2 ^ 40 + count % 2 ^ 32 * 2 ^ 8 + status)

/-- Whether the strand that made a request still is in its context. -/
def requesterIn (s : State) (q : MeshReq) : Bool := (strandOf s q.by_).party == q.party && decide ((strandOf s q.by_).run ≠ .free)

/-- A request completes d cycles from now: D is filled and the signal clause is sent (R377); of a strand that has gone since, only a signal
clause that its end has left is sent, at once (R133, R406). -/
def meshAnswer (s : State) (q : MeshReq) (w : Word) (d : Nat) : State :=
  if requesterIn s q then
    match (match q.dst with | some n => [(n, w)] | none => []) ++ signalOf q.sig with
    | [] => s
    | ds => post s d (.resultArrival q.by_ ds 0 0)
  else sendSignal s q.by_ q.sig

/-- The mesh alarm becomes pending on the strand that made a request, if it still is there; one that is pending keeps its reason
(R271). -/
def raiseAlarm (s : State) (q : MeshReq) (reason : Nat) : State :=
  if reason ≠ 0 ∧ requesterIn s q then
    modStrand s q.by_ fun x => { x with pending := { x.pending with meshAlarm := some (x.pending.meshAlarm.getD reason) } }
  else s

/-- Whether a request is a pass. -/
def reqIsPass (q : MeshReq) : Bool := q.kind == 3 || q.kind == 4

/-- The answer of a retired mesh at acceptance (R270, R378): RETIRED, at once; for a pass, the alarm behind it (R271). -/
def retiredAnswer (s : State) (q : MeshReq) : State :=
  let s := meshAnswer s q (meshWord 0 0 5) 0
  if reqIsPass q then raiseAlarm s q 1 else s

/-- The mesh looks at its queues again. -/
def meshAgain (s : State) (t : Nat) : State :=
  if (decide ((meshOf s t).accepted ≠ []) && !(meshOf s t).recal) || (List.range 8).any fun i => (coreOf s (t * 8 + i)).meshQueue ≠ [] then post s 1 (.meshAccept t)
  else s

/-! ## Metadata (R262, R263) -/

/-- The metadata word of an accumulator tile. -/
def accMetaOf (s : State) (t n : Nat) : Word := mget 0 (tileOf s t).accMeta n

/-- Sets the metadata word. -/
def putAccMeta (s : State) (t n : Nat) (w : Word) : State := modTile s t fun x => { x with accMeta := mput 0 x.accMeta n w }

/-- The tile exponent E. -/
def tileExp (s : State) (t n : Nat) : Int := signedOf 16 (fld (accMetaOf s t n) 63 48)

/-- The key of an accumulator element: tile, row, column. -/
def accKey (n row col : Nat) : Nat := n * 4096 + row % 64 * 64 + col

/-- An accumulator element. -/
def accValue (s : State) (t k : Nat) : Int := signedOf 96 (accRaw s t k).toNat

/-- Stores an accumulator element. -/
def putAccValue (s : State) (t k : Nat) (v : Int) : State := modTile s t fun x => x.putAcc k (BitVec.ofInt 96 v)

/-- The metadata after a pass (R263): the least declaration of its starts, its generation, its flags. -/
def passMeta (w : Word) (m : MeshRun) : Word :=
  let passes := fld w 23 8
  let gen := m.gen.toNat % 2 ^ 16
  let w := setFld w 47 40 (min (fld w 47 40) m.part.low)
  let w := if passes = 0 then setFld w 39 24 gen else if fld w 39 24 ≠ gen then setFld w 1 1 1 else w
  setFld w 23 8 (min 65535 (passes + 1)) ||| word m.part.flags

/-! ## Passes (R253 to R260, R383) -/

/-- The idle bank's number. -/
def idleBank (m : Mesh) : Nat := 1 - m.active % 2

/-- The idle bank. -/
def spareBank (m : Mesh) : Bank := if idleBank m = 0 then m.bank0 else m.bank1

/-- A bank by its number. -/
def bankAt (m : Mesh) (i : Nat) : Bank := if i = 0 then m.bank0 else m.bank1

/-- The bank of a pass that starts now: while a swap settles, the one that it makes active (R249). -/
def passBank (m : Mesh) : Nat := if m.swap.isSome then idleBank m else m.active % 2

/-- The format context of a core, and its fields (R252). -/
def fmtIn (w : Word) : Fmt := (fmtOf (fld w 4 0)).getD .e4m3

/-- The declaration in force for a mode (R264). -/
def declared (m : Mesh) (half : Bool) : Nat := if half then m.diff else m.single

/-- Elements of a vector from its staging bytes (R225, R253). -/
def vectorElems (f : Fmt) (bs : Array Byte) (o : Nat) : List Nat :=
  let v := fieldAt bs o (f.width * 8)
  (List.range 64).map fun i => v / 2 ^ (f.width * i) % 2 ^ f.width

/-- The codes of one vector: those of a single pass, or differences of a differential pass; the metadata flags; whether the checksum
missed. A mesh that fails its declaration (`wide`) may give any code, its spare mode's apart (R264, R434). The free values are taken from
number n on, 130 a vector. -/
def vectorCodes (tr half ck wide : Bool) (eb : Nat) (o : Optic) (ds : List Int) (n : Nat) : List Int × Nat × Bool :=
  let ideal := idealCodes tr o ds
  let e := epsilon eb
  let bound := if wide then 2 ^ 60 else e
  let pairs := (ideal.zipIdx).map fun x =>
    if half then adcPair x.1 bound (Config.adcNoise (n + 2 * x.2)) (Config.adcNoise (n + 2 * x.2 + 1)) else (adcCode x.1 bound (Config.adcNoise (n + 2 * x.2)), 0)
  let codes := pairs.map fun p => p.1 - p.2
  let clip := pairs.any fun p => isEndCode p.1 || (half && isEndCode p.2)
  let sum := codes.foldl (· + ·) 0
  let mean := ideal.foldl (· + ·) 0 / 64
  let chk := if half then (adcPair mean e (Config.adcNoise (n + 128)) (Config.adcNoise (n + 129))).1 - (adcPair mean e (Config.adcNoise (n + 128)) (Config.adcNoise (n + 129))).2
    else adcCode mean e (Config.adcNoise (n + 128))
  let gap : Int := (64 * chk - sum).natAbs
  (codes, if clip then 16 else 0, ck && decide (2 * 64 * (if half then 2 else 1) * e < gap * 2 ^ 32))

/-- The vectors of a pass from number k on, each with the flags that it raises (R254, R257, R260). -/
def passVectors (tr half ck wide : Bool) (eb : Nat) (f : Fmt) (o : Optic) (elems scales : Array Byte) (n0 : Nat) : Nat → Nat → List (Int × List Int × Nat)
  | 0, _ => []
  | r + 1, k =>
    let al := alignVector f (scales.getD (2 * k) 0).toNat (scales.getD (2 * k + 1) 0).toNat (vectorElems f elems (k * f.width * 8))
    let c := vectorCodes tr half ck wide eb o al.1 (n0 + 130 * k)
    (al.2.1, c.1, al.2.2 ||| c.2.1 ||| if c.2.2 then 32 else 0) :: passVectors tr half ck wide eb f o elems scales n0 r (k + 1)

/-- Vectors per ten cycles (R273, R274). -/
def passRate (f : Fmt) (half : Bool) : Nat := if half then 192 else match f with | .e3m2 | .e2m3 | .e2m1 => 384 | _ => 310

/-- A pass joins those that run: the event of its first update, or of its completion where it has no vector, follows. -/
def joinRuns (s : State) (t : Nat) (run : MeshRun) (last : Nat) : State :=
  post (modMesh s t fun m => { m with running := m.running ++ [run], symbolsEnd := last }) (run.first + 48 - s.cycle)
    (if run.vectors.isEmpty then .passComplete t else .vectorAccadd t)

/-- A pass starts, or goes on where a halt stopped it (R261, R273, R383): the codes of its vectors, its timing, this start counted in its
part. -/
def startPass (s : State) (t : Nat) (q : MeshReq) (p : MeshPart) (elems scales : List Byte) : State :=
  let m := meshOf s t
  let n := fld q.b 31 16
  let half := bit p.ctx 8
  let f := fmtIn p.ctx
  let eb := declared m half
  let ck := bit p.ctx 9
  let i := p.bank.getD (passBank m)
  let o := opticOf (denseBytes stencilSize 0 (bankAt m i).stencil)
  let skip := min n p.done
  let vs := passVectors (q.kind == 4) half (ck && decide (0 < m.spares)) m.failing eb f o elems.toArray scales.toArray s.freeCount (n - skip) skip
  let first := max (s.cycle + 12) (m.symbolsEnd + 1)
  let rate := passRate f half
  let part : MeshPart := { p with done := skip, bank := some i, eb := some (p.eb.getD eb), low := min p.low eb
                                  flags := p.flags ||| (if ck && m.spares == 0 then 1 else 0)
                                  alarm := p.alarm || (bit p.ctx 11 && decide (eb < fld p.ctx 39 32)) }
  joinRuns { s with freeCount := s.freeCount + 130 * n } t
    ⟨q, part, (bankAt m i).sw, (bankAt m i).gen, half, first, rate, skip, skip, vs, false, false⟩ (first + (10 * (n - skip) + rate - 1) / rate - 1)

/-- An accepted pass begins (R259, R261, R270, R383): NOBANK without a valid bank, the empty pass, else its start, which takes it out of the
core's pass-progress word. A pass begun before that finds its mesh retired completes with RETIRED and the vectors done before. -/
def beginPass (s : State) (t core : Nat) (q : MeshReq) (p : MeshPart) (elems scales : List Byte) : State :=
  let m := meshOf s t
  let n := fld q.b 31 16
  let s := if bit (coreOf s core).progress 63 ∧ fld (coreOf s core).progress 61 56 = q.by_.ctx then modCore s core fun c => { c with progress := 0 } else s
  if m.retired then
    match p.bank with
    | none => retiredAnswer s q
    | some i => joinRuns s t ⟨q, p, (bankAt m i).sw, (bankAt m i).gen, bit p.ctx 8, s.cycle, 1, p.done, p.done, [], true, false⟩ m.symbolsEnd
  else if !(bankAt m (p.bank.getD (passBank m))).valid then meshAnswer s q (meshWord 0 0 1) 1
  else if n = 0 then meshAnswer s q (meshWord (declared m (bit p.ctx 8)) 0 0) 1
  else startPass s t q p elems scales

/-- The checks of a pass's staging extents, as loads of the strand (R253, R382): alignment and windows of both, then translation and
holder; what they hold. A pass of no vectors is checked for nothing. -/
def checkPass (s : State) (q : MeshReq) (p : MeshPart) (k : List Byte → List Byte → State → Res) : Res :=
  let n := fld q.b 31 16
  let sva : Word := q.a + BitVec.ofInt 64 (signedOf 24 (fld q.b 63 40))
  if n = 0 then k [] [] s
  else inScratch s .load q.a (n * vectorBytes p.ctx) 16 <| inScratch s .load sva (2 * n) 1 <|
    withScratch s .load q.a (n * vectorBytes p.ctx) 16 fun ps => withScratch s .load sva (2 * n) 1 fun qs =>
      consume s ps <| consume s qs <|
        let r := readParts s (myself s) ps
        let r2 := readParts r.2.2 (myself s) qs
        k r.1 r2.1 r2.2.2

/-! ## Acceptance (R250, R377) -/

/-- Sets a bank. -/
def putBank (m : Mesh) (i : Nat) (b : Bank) : Mesh := if i = 0 then { m with bank0 := b } else { m with bank1 := b }

/-- A bank converted through the mesh's calibration, trim and patching (R247, R248). -/
def converted (m : Mesh) (b : Bank) : Bank := { b with calib := m.calib, avoid := m.avoid, trims := m.trims.map fun x => (x.1, x.2.phase, 0) }

/-- The bank that a stencil's bytes give. -/
def bankOf (m : Mesh) (bs : List Byte) (valid : Bool) : Bank :=
  let st := bs.toArray
  converted m { valid := valid, gen := BitVec.ofNat 32 (fieldAt st 4 4), sw := BitVec.ofNat 32 (fieldAt st 8 4), stencil := sparseBytes 0 bs }

/-- The physical modes that carry the logical ones: the lowest 64 that the patching does not leave out (R247; log entry 71). -/
def physModes (b : Bank) : List Nat := ((List.range 68).filter fun m => !b.avoid.contains m).take 64

/-- The phase words' offset of the cell on logical mode m in a column, within a section (R242, R244). -/
def cellOffset (col m : Nat) : Nat := 4 * (col / 2 * 63 + (if col % 2 = 1 then 32 else 0) + m / 2)

/-- The holding-DAC code of the physical cell on modes p and p + 1 in a column of section V (0) or U (1), for θ or φ (R246, R247): through the
calibration, and moved by the trim loop's steps, where the patching puts the two modes of a logical cell there, else the bar state. -/
def holdingCode (b : Bank) (sec col p : Nat) (phi : Bool) : Word :=
  let ms := physModes b
  let m := ms.findIdx (· == p)
  let x := mget (0, 0) b.trims (34 * sec + col / 2)
  if col < 64 ∧ ms.getD m 68 = p ∧ ms.getD (m + 1) 68 = p + 1 ∧ m % 2 = col % 2 then
    let w := fieldAt (denseBytes stencilSize 0 b.stencil).toArray ((if sec = 0 then 0x80 else 0x2000) + cellOffset col m + if phi then 2 else 0) 2
    Config.holding b.calib sec col p phi w x.1 + BitVec.ofInt 64 x.2
  else Config.barState b.calib sec col p phi

/-- The accumulator tile that a request names. -/
def reqTile (q : MeshReq) : Nat := if q.kind = 6 then fld q.a 5 0 else fld q.b 5 0

/-- A swap with no load before it (R249): an invalid idle bank is answered NOBANK; else the drain and the settle run, and no symbol enters
before their end. -/
def startSwap (s : State) (t : Nat) (q : MeshReq) : State :=
  let m := meshOf s t
  if m.retired then retiredAnswer (modMesh s t fun m => { m with swap := none }) q
  else if !(spareBank m).valid then meshAnswer (modMesh s t fun m => { m with swap := none }) q (meshWord 0 0 1) 1
  else
    let due := max s.cycle m.symbolsEnd + 14
    post (modMesh s t fun m => { m with swap := some q, symbolsEnd := due - 1 }) (due - s.cycle) (.pswapEffect t)

/-- The passes of a tile's cores that a halt has stopped (R261). -/
def stoppedPasses (s : State) (t : Nat) : List MeshReq := (List.range 8).flatMap fun i => (coreOf s (t * 8 + i)).meshQueue.filter fun q => q.part.isSome

/-- Whether a request cannot begin yet: a load before a load, a swap before a load, a swap or a probe, passes to the tile, stopped ones too,
before ACLR, everything before MSTAT; the stream, or a swap that still waits for its load, before a pass (R249, R250, R258, R273, R388); a
pass that a halt stopped waits for the resume (R261). -/
def meshBlocked (s : State) (t : Nat) (q : MeshReq) : Bool :=
  let m := meshOf s t
  let halted : Bool := match (strandOf s q.by_).run with | .halted _ => true | _ => false
  if q.part.isSome && halted then true
  else if q.kind = 7 then
    m.swap.isSome || m.load.isSome || !m.running.isEmpty || decide (stoppedPasses s t ≠ []) || m.slow.any fun x => decide (s.cycle < x.2)
  else !m.retired && match q.kind with
    | 1 => m.load.isSome || m.swap.isSome
    | 2 | 5 => m.swap.isSome
    | 6 => (m.running.any fun r => reqTile r.req = fld q.a 5 0) || (stoppedPasses s t).any fun r => reqTile r = fld q.a 5 0
    | 3 | 4 => decide (s.cycle + 12 ≤ m.symbolsEnd) || (m.swap.isSome && m.load.isSome)
    | _ => false

/-- The error of probe k, or of a differential pair, in sixteenths of a code: the largest distance of its 64 codes, which are free, from the
ideal codes 254 · Re(M[j][k]) (R267). -/
def probeError (o : Optic) (k : Nat) (half : Bool) (n : Nat) : Nat :=
  let code (i : Nat) : Int := (Config.adcNoise i % 4096 : Nat) - 2048
  let ideal := idealCodes false o ((List.range 64).map fun i => if i = k then 127 else 0)
  let errs := ideal.zipIdx.map fun x =>
    let twice := if half then code (n + 2 * x.2) - code (n + 2 * x.2 + 1) else 2 * code (n + 2 * x.2)
    (twice * 2 ^ 31 - x.1).natAbs * 16 / 2 ^ 32
  min 0xFFFF (errs.foldl max 0)

/-- The largest errors of single probes and of differential pairs. -/
def probeErrors (o : Optic) (n : Nat) : List (Nat × Bool) → Nat × Nat
  | [] => (0, 0)
  | (k, half) :: r =>
    let e := probeError o k half n
    let x := probeErrors o (n + 128) r
    if half then (x.1, max e x.2) else (max e x.1, x.2)

/-- Probes on the active bank: the window's largest errors rise to theirs; its end follows at 1,024 (R266, R267). -/
def addProbes (s : State) (t : Nat) (ks : List (Nat × Bool)) : (Nat × Nat) × State :=
  let m := meshOf s t
  let e := probeErrors (opticOf (denseBytes stencilSize 0 (activeBank m).stencil)) s.freeCount ks
  let s := modMesh { s with freeCount := s.freeCount + 128 * ks.length } t fun m =>
    { m with probes := m.probes + ks.length, maxSingle := max m.maxSingle e.1, maxDiff := max m.maxDiff e.2 }
  (e, if m.probes < 1024 ∧ 1024 ≤ m.probes + ks.length then post s 0 (.declarationUpdate t) else s)

/-- The probes of MPROBE (R384): the 64 single ones, then eight pairs, of every eighth column (log entry 71). -/
def mprobes : List (Nat × Bool) := (List.range 64).map (fun k => (k, false)) ++ (List.range 8).map fun i => (8 * i + 7, true)

/-- The word that MSTAT selects (R388). -/
def mstatWord (s : State) (t core : Nat) (a : Word) : Word :=
  match fld a 1 0 with
  | 0 => meshStatWord (meshOf s t) | 1 => ebitsWord (meshOf s t) | 2 => accMetaOf s t (fld a 13 8) | _ => (coreOf s core).progress

/-- Whether MFMT refuses a context (R379). -/
def badContext (a : Word) : Bool :=
  decide (fld a 63 40 ≠ 0) || decide (fld a 31 12 ≠ 0) || decide (fld a 7 5 ≠ 0) || decide (fld a 4 0 < 12) || decide (17 < fld a 4 0)

/-- What a pass carries from its acceptance (R261, R383): the format context, and the vectors done where it is the pass that the core's
pass-progress word records. -/
def freshPart (s : State) (core : Nat) (q : MeshReq) : MeshPart :=
  let c := coreOf s core
  { ctx := c.fmtctx, done := if bit c.progress 63 ∧ fld c.progress 61 56 = q.by_.ctx then min (fld q.b 31 16) (fld c.progress 31 0) else 0 }

/-- The checks of a request at acceptance, on behalf of its strand (the executing one), and what its memory operands hold (R380, R382). -/
def checkReq (s : State) (core : Nat) (q : MeshReq) (k : List Byte → List Byte → State → Res) : Res :=
  match q.kind with
  | 1 => withScratch s .load q.a stencilSize 64 fun ps => consume s ps <| let r := readParts s (myself s) ps; k r.1 [] r.2.2
  | 3 | 4 => checkPass s q (q.part.getD (freshPart s core q)) k
  | _ => k [] [] s

/-- The answer of a request that takes d cycles: where the mesh is retired meanwhile it becomes RETIRED (`retireMesh`), and MSTAT waits for it
(R251, R388). -/
def slowAnswer (s : State) (t : Nat) (q : MeshReq) (w : Word) (d : Nat) : State :=
  modMesh (meshAnswer s q w d) t fun m => { m with slow := (m.slow.filter fun x => decide (s.cycle < x.2)) ++ [(q, s.cycle + d)] }

/-- A request that has been accepted begins: what its memory operands held is xs and ys (R379 to R388). -/
def beginReq (s : State) (t core : Nat) (q : MeshReq) (xs ys : List Byte) : State :=
  let m := meshOf s t
  if q.kind = 7 then meshAnswer s q (mstatWord s t core q.a) 1
  else if q.kind = 3 ∨ q.kind = 4 then beginPass s t core q (q.part.getD (freshPart s core q)) xs ys
  else if m.retired then retiredAnswer s q
  else match q.kind with
  | 0 => meshAnswer s q (meshWord 0 0 (if badContext q.a then 2 else 0)) 1
  | 1 => post (modMesh s t fun m => { putBank m (idleBank m) (bankOf m xs false) with load := some (q, stencilStatus xs) }) 64 (.ploadDone t)
  | 2 => if m.load.isSome then modMesh s t fun m => { m with swap := some q } else startSwap s t q
  | 5 =>
    if !(activeBank m).valid then meshAnswer s q 1 1
    else
      let x := addProbes s t mprobes
      slowAnswer x.2 t q (word (x.1.1 * 2 ^ 32 + x.1.2 * 2 ^ 16)) 60
  | _ =>
    let n := fld q.a 5 0
    let s := modTile s t fun x => (List.range 64).foldl (fun x i => x.clearRow (n * 64 + i)) x
    slowAnswer (putAccMeta s t n (word (fld q.b 15 0 * 2 ^ 48 + 0xFF * 2 ^ 40))) t q (meshWord 0 0 0) 2

/-- The context that an accepted MFMT sets (R379). -/
def acceptContext (s : State) (t core : Nat) (q : MeshReq) : State :=
  if q.kind = 0 ∧ badContext q.a = false ∧ (meshOf s t).retired = false then modCore s core fun c => { c with fmtctx := q.a } else s

/-- A request is accepted, on behalf of its strand (the executing one): it is checked, D is empty, and it begins, or waits for RECAL to clear
(R248, R377); on a retired mesh every request but MSTAT completes at once (R378). -/
def acceptReq (s : State) (t core : Nat) (q : MeshReq) : Res :=
  let m := meshOf s t
  if m.retired ∧ q.kind ≠ 7 ∧ q.part.isNone then .done (retiredAnswer (emptyDst s q.dst) q)
  else checkReq s core q fun xs ys s =>
    let s := acceptContext (emptyDst s q.dst) t core q
    let q := if reqIsPass q then { q with part := some (q.part.getD (freshPart s core q)) } else q
    .done (if m.recal then modMesh s t fun m => { m with accepted := m.accepted ++ [(q, if q.kind = 1 then sparseBytes 0 xs else [])] }
           else beginReq s t core q xs ys)

/-- Requests of a core that RECAL may keep waiting (log entry 71). -/
def recalDepth : Nat := 4

/-- Whether the next request in turn cannot be accepted yet. -/
def meshHeld (s : State) (t core : Nat) (q : MeshReq) : Bool :=
  let m := meshOf s t
  if m.retired && q.kind != 7 && q.part.isNone then false
  else if m.recal then decide (recalDepth ≤ (m.accepted.filter fun x => coreKey x.1.by_ = core).length) || (q.part.isSome && meshBlocked s t q)
  else decide (m.accepted ≠ []) || meshBlocked s t q

/-- The bytes at an own-quad scratchpad address. -/
def scratchBytes (s : State) (core : Nat) (va : Word) (n : Nat) : List Byte := bytesBy (hbmByte s) (scratchLoc (core / 4) (va.toNat % 2 ^ 23)) n

/-- The first poisoned word of a pass's staging extents, by its address (R426). -/
def poisonedStaging (s : State) (core : Nat) (q : MeshReq) (p : MeshPart) : Option Word :=
  let n := fld q.b 31 16
  let bad (va : Word) (len : Nat) : Option Word :=
    ((List.range ((va.toNat % 8 + len + 7) / 8)).map fun i => word (va.toNat / 8 * 8 + 8 * i)).find? fun w => isPoison s (scratchLoc (core / 4) (w.toNat % 2 ^ 23))
  if n = 0 then none else (bad q.a (n * vectorBytes p.ctx)).or (bad (q.a + BitVec.ofInt 64 (signedOf 24 (fld q.b 63 40))) (2 * n))

/-- The next request that RECAL has kept waiting begins, if it can, with what its staging holds (R248); a word of it that has been poisoned
meanwhile kills the pass's strand, if it still is there (R426). -/
def beginAccepted (s : State) (t : Nat) (q : MeshReq) (st : List (Nat × Byte)) : State :=
  let core := coreKey q.by_
  let s := modMesh s t fun m => { m with accepted := m.accepted.drop 1 }
  match q.part with
  | some p =>
    match (if requesterIn s q then poisonedStaging s core q p else none) with
    | some va => killStrand s q.by_ 1 va
    | none => beginReq s t core q (scratchBytes s core q.a (fld q.b 31 16 * vectorBytes p.ctx))
      (scratchBytes s core (q.a + BitVec.ofInt 64 (signedOf 24 (fld q.b 63 40))) (2 * fld q.b 31 16))
  | none => beginReq s t core q (if q.kind = 1 then denseBytes stencilSize 0 st else []) []

/-- The core whose request is next in turn: those with a stopped pass first, which is older than any other request (R179, R261). -/
def nextRequester (s : State) (t : Nat) : Option (Nat × MeshReq) :=
  let turns := (List.range 8).map fun k => t * 8 + ((meshOf s t).nextCore + k) % 8
  let head (stopped : Bool) (core : Nat) : Option (Nat × MeshReq) := match (coreOf s core).meshQueue.head? with
    | some q => if q.part.isSome || !stopped then some (core, q) else none
    | none => none
  (turns.findSome? (head true)).orElse fun _ => turns.findSome? (head false)

/-- A pass that a halt stopped is issued again by the mesh itself, for its strand may have gone on behind it (R253, R261; log entry 30): it is
checked again; where a check fails, its strand takes the trap at the pass; while its region is in TRANSIT it stays in the queue. -/
def acceptStopped (s0 s : State) (t core : Nat) (q : MeshReq) : State :=
  match acceptReq { s with cur := q.by_ } t core q with
  | .done u | .goto u _ => u
  | .hold u => if requesterIn u q then s0 else u
  | .trap _ _ =>
    let s := modStrand { s with cur := q.by_ } q.by_ fun r => { (match q.dst with | some n => r.refill n | none => r) with pc := q.pc }
    settleRes 8 (acceptReq (makeReady s q.by_) t core q)

/-- The mesh accepts the next request, if it can (R250, R377): the strand is READY again behind it, or takes the trap at it. A request that
RECAL has kept waiting begins before any other is accepted. A request in turn that cannot be accepted yet holds those of all the tile's
cores (DESIGN CHOICE, log entry 71: R179 and R250 do not say whether another core's may pass it). -/
def execMeshAccept (tile : Nat) (s : State) : Host.Outcome State Fault Refusal :=
  let again (q : MeshReq) : State :=
    if reqIsPass q ∧ s.cycle + 12 ≤ (meshOf s tile).symbolsEnd then post s ((meshOf s tile).symbolsEnd - 11 - s.cycle) (.meshAccept tile) else s
  match (if (meshOf s tile).recal then none else (meshOf s tile).accepted.head?) with
  | some (q, st) => .next (if meshBlocked s tile q then again q else meshAgain (beginAccepted s tile q st) tile)
  | none =>
    match nextRequester s tile with
    | none => .next s
    | some (core, q) =>
      if meshHeld s tile core q then .next (again q)
      else
        let s0 := s
        let s := modCore s core fun c => { c with meshQueue := c.meshQueue.drop 1 }
        let s := modMesh s tile fun m => { m with nextCore := (core % 8 + 1) % 8 }
        if q.part.isSome then .next (meshAgain (acceptStopped s0 s tile core q) tile) else
        let s := modStrand s q.by_ fun r => match q.dst with | some n => r.refill n | none => r
        let s := makeReady { s with cur := q.by_ } q.by_
        .next (meshAgain (settleRes 8 (acceptReq s tile core q)) tile)

/-! ## Completions -/

/-- A load ends (R247): on success the bank is valid; a swap accepted behind it begins (R249). While RECAL is set it waits (R248); on a mesh
retired meanwhile it answers RETIRED (R251). -/
def execPloadDone (tile : Nat) (s : State) : Host.Outcome State Fault Refusal :=
  match (meshOf s tile).load with
  | none => .next s
  | some (q, st) =>
    if (meshOf s tile).recal && !(meshOf s tile).retired then .next s else
    let st := if (meshOf s tile).retired then 5 else st
    let s := modMesh s tile fun m =>
      { putBank m (idleBank m) (if st = 0 then { bankAt m (idleBank m) with valid := true } else {}) with load := none }
    let s := meshAnswer s q (meshWord 0 0 st) 0
    .next (meshAgain (match (meshOf s tile).swap with | some p => startSwap s tile p | none => s) tile)

/-- A swap takes effect (R249), unless RECAL holds it (R248) or the mesh has retired (R251). -/
def execPswapEffect (tile : Nat) (s : State) : Host.Outcome State Fault Refusal :=
  match (meshOf s tile).swap with
  | none => .next s
  | some q =>
    if (meshOf s tile).retired then .next (meshAgain (meshAnswer (modMesh s tile fun m => { m with swap := none }) q (meshWord 0 0 5) 0) tile)
    else if (meshOf s tile).recal then .next s
    else
      let s := modMesh s tile fun m => { m with active := idleBank m, swap := none }
      .next (meshAgain (meshAnswer s q (meshWord 0 0 0) 0) tile)

/-- AccAdd of a vector's 64 outputs from column j on (R231, R256). -/
def addOutputs (t n row : Nat) (e x : Int) (sw : Num) (half : Bool) : List Int → Nat → State → State
  | [], _, s => s
  | a :: r, j, s =>
    let k := accKey n row j
    let v := accAdd (accValue s t k) e a x sw half
    let s := putAccValue s t k v.1
    let s := if v.2 then putAccMeta s t n (accMetaOf s t n ||| 64) else s
    addOutputs t n row e x sw half r (j + 1) s

/-- A vector's outputs are added: the next vector of the oldest pass that has one (R231, R255, R256). -/
def execVectorAccadd (tile : Nat) (s : State) : Host.Outcome State Fault Refusal :=
  let m := meshOf s tile
  match m.running.findIdx? fun r => !r.vectors.isEmpty with
  | none => .next s
  | some i =>
    match m.running[i]? with
    | none => .next s
    | some r =>
      let n := fld r.req.b 5 0
      let (x, codes, fl) := r.vectors.headD (0, [], 0)
      let s := addOutputs tile n (fld r.req.b 13 8 + r.next) (tileExp s tile n) x (fpF.value r.sw.toNat) r.half codes 0 s
      let r' := { r with vectors := r.vectors.drop 1, next := r.next + 1, part := { r.part with flags := r.part.flags ||| fl } }
      let s := modMesh s tile fun m => { m with
        running := m.running.set i r'
        ckcnt := if fl.testBit 5 then min (2 ^ 32 - 1) (m.ckcnt + 1) else m.ckcnt
        doubled := if fl.testBit 5 then 8 else m.doubled }
      let due := r.first + 48 + 10 * (r'.next - r.skip) / r.rate
      .next (if r'.vectors.isEmpty then post s 2 (.passComplete tile) else post s (due - s.cycle) (.vectorAccadd tile))

/-- The reason of a pass's mesh alarm, 0 for none (R271). -/
def alarmOf (r : MeshRun) : Nat := if r.cut then 1 else if bit r.part.ctx 10 && r.part.flags.testBit 5 then 2 else if r.part.alarm then 3 else 0

/-- A pass that a halt stopped has drained (R261): the core's pass-progress word records it where it is the oldest one stopped of its core; the
stopped request waits for the resume in the core's queue. -/
def passHalted (s : State) (r : MeshRun) : State :=
  modCore s (coreKey r.req.by_) fun c =>
    if ((c.meshQueue.find? fun q => q.part.isSome).any fun q => { q with part := none } == { r.req with part := none }) then
      { c with progress := word (2 ^ 63 + r.req.by_.ctx % 64 * 2 ^ 56 + r.next) }
    else c

/-- A pass completes: metadata, status, signal, alarm (R258, R263, R271, R383). -/
def execPassComplete (tile : Nat) (s : State) : Host.Outcome State Fault Refusal :=
  let m := meshOf s tile
  match takeFirst (fun r : MeshRun => r.vectors.isEmpty) m.running with
  | none => .next s
  | some (r, rest) =>
    let n := fld r.req.b 5 0
    let s := modMesh s tile fun m => { m with running := rest }
    if r.halted then .next (passHalted s r) else
    let s := putAccMeta s tile n (passMeta (accMetaOf s tile n) r)
    let s := meshAnswer s r.req (meshWord (r.part.eb.getD 0) r.next (if r.cut then 5 else 0)) 0
    .next (meshAgain (raiseAlarm s r.req (alarmOf r)) tile)

/-! ## Accumulator reads and writes (R386, R387) -/

/-- The elements that a descriptor names for a lane type. -/
def accElems (t : LTy) (desc : Word) : List Nat :=
  (List.range t.lanes).map fun i => accKey (fld desc 5 0) (fld desc 13 8 + i / 64) (i % 64)

/-- The rounding mode of a descriptor. -/
def accRm (desc : Word) : Rm := rmOf (fld desc 33 32)

/-- The scale exponent SH. -/
def accShift (desc : Word) : Int := signedOf 16 (fld desc 31 16)

/-- The window address of an accumulator element. -/
def accVa (k : Nat) : Word := word (winBase + 2 ^ 24 + 12 * k)

/-- Whether an ACLR of the executing strand, accepted while RECAL is set, has still to be performed; ARD and AWR are held meanwhile (R363). -/
def clearWaits (s : State) : Bool := (meshOf s (myTile s)).accepted.any fun q => q.1.kind == 6 && q.1.by_ == s.cur

/-- ARD (R386). -/
def execArd (t : LTy) (d : LReg) (a : Src) (x : Bool) (c : Clauses) (s : State) : Host.Outcome State Fault Refusal :=
  finish 8 (issue s (!holdsLease s) ([.lv (lregOf s d)] ++ srcUse s a) fun s => waitClause s c <| eventGate s <|
    if dispatchDepth ≤ (coreOf s (coreKey s.cur)).dispatch.length ∨ clearWaits s then retryMe s 1
    else
      let desc := srcVal s a 8
      let tile := myTile s
      let ks := accElems t desc
      match ks.find? fun k => accMarked s tile k with
      | some k => .hold (killStrand s s.cur 1 (accVa k))
      | none =>
        let e := tileExp s tile (fld desc 5 0) + accShift desc
        let rs := ks.map fun k =>
          let v := accValue s tile k
          laneFlush t (convert .d t.fmt (accRm desc) (.fin (decide (v < 0)) v.natAbs e))
        let s := if x then ks.foldl (fun s k => putAccValue s tile k 0) s else s
        let s := putLv s (lregOf s d) (lvOf t (rs.map (·.1)))
        vdone s (srcUse s a) [lregOf s d] (16 + t.lanes / 64) (signalOf c.sig) (flagsOf rs) 3 (t.lanes / 64))

/-- The integer that AWR writes for a lane, with the metadata flags NANIN and SAT (R387). -/
def awrLane (t : LTy) (rm : Rm) (sh e : Int) (c : Nat) : Int × Nat :=
  match laneNum t c with
  | .nan .. => (0, 4)
  | .inf s => (if s then -accMax else accMax, 64)
  | .fin s m k =>
    let q := (roundInt rm s m 1 (e - k - sh)).1
    (if s then -(q : Int) else q, 0)

/-- AWR (R387). -/
def execAwr (d : GDst) (a : LSrc) (b : Src) (x : Bool) (c : Clauses) (s : State) : Host.Outcome State Fault Refusal :=
  finish 8 (issue s (!holdsLease s) (gdstUse s d ++ lsrcUse s a ++ srcUse s b) fun s => waitClause s c <| eventGate s <|
    if dispatchDepth ≤ (coreOf s (coreKey s.cur)).dispatch.length ∨ clearWaits s then retryMe s 1
    else
      let desc := srcVal s b 8
      let t := (ltyOf (fld desc 36 34)).getD .f
      let tile := myTile s
      let n := fld desc 5 0
      let e := tileExp s tile n
      let ps := (accElems t desc).zip ((lsrcLanes s t a 8).map (awrLane t (accRm desc) (accShift desc) e))
      let s := ps.foldl (fun s p =>
        let v := accClamp (if x then accValue s tile p.1 + p.2.1 else p.2.1)
        let s := putAccValue s tile p.1 v.1
        let fl := p.2.2 ||| (if v.2 then 64 else 0)
        let s := if x then s else modTile s tile fun y => { y with accPoison := sdel y.accPoison (accAt y p.1) }
        if fl = 0 then s else putAccMeta s tile n (accMetaOf s tile n ||| word fl)) s
      let s := emptyDst s (dstOf s d)
      vdone s (lsrcUse s a) [] (16 + t.lanes / 64) ((match dstOf s d with | some r => [(r, 0)] | none => []) ++ signalOf c.sig) 0 3 (t.lanes / 64))

end Sys2Proof.Machine
end

