-- ==== Sys2Proof/Machine/Tdu.lean ====
section
/-! DEFINITION. Commands of the TDU (R190 to R193, R203 to R215): admission, pre-emption, resume, save, restore, release. The command at
the head of the queue is the one in progress. -/

namespace Sys2Proof.Machine

/-! ## Commands (R191) -/

/-- PART of a command. -/
def TduCmd.part (c : TduCmd) : Nat := fld c.cmd 59 54

/-- The command at the head ends with a status and LEN; its strand goes on, the next command follows. -/
def tduDone (s : State) (status len : Nat) : State :=
  match s.tdu.commands with
  | [] => s
  | c :: r =>
    let s := { s with tdu := { s.tdu with commands := r, stat := word (status * 2 ^ 56 + len % 2 ^ 40) } }
    let s := wakeIf s c.by_ fun p => p == .command
    match r with
    | n :: _ => post s Config.lat.tdu (tduEvent n.cmd)
    | [] => s

/-- Carries out the command at the head. -/
def withCommand (s : State) (k : TduCmd → State) : Host.Outcome State Fault Refusal :=
  match s.tdu.commands with
  | [] => .next s
  | c :: _ => .next (k c)

/-- A reserved OP (R191). -/
def execBadcmd (s : State) : Host.Outcome State Fault Refusal := withCommand s fun _ => tduDone s 1 0

/-! ## Units -/

/-- TILES and STACKS of a partition word. -/
def wordTiles (w : Word) : Nat := fld w 15 0
/-- STACKS. -/
def wordStacks (w : Word) : Nat := fld w 59 48

/-- Whether the ASID is in another partition that is not FREE. -/
def asidTaken (s : State) (p asid : Nat) : Bool := anyBelow 64 fun i => decide (i ≠ p) && decide (partSt s i ≠ 0) && decide (fld (partWord s i) 43 32 = asid)

/-- Whether the masks name a unit that is not enabled. -/
def unitsMissing (s : State) (tiles stackSet : Nat) : Bool :=
  (positions 16 fun i => tiles.testBit i).any (fun i => (physTile s i).isNone) || (positions 12 fun i => stackSet.testBit i).any fun i => !bit s.caps.stack i

/-- Whether a named unit belongs to another partition that is not FREE. -/
def unitsBusy (s : State) (p tiles stackSet : Nat) : Bool :=
  anyBelow 64 fun i => decide (i ≠ p) && decide (partSt s i ≠ 0) &&
    (decide (wordTiles (partWord s i) &&& tiles ≠ 0) || decide (wordStacks (partWord s i) &&& stackSet ≠ 0))

/-! ## Scrubbing (R193) -/

/-- Side memory from one location to another: every word zero, with its full bit as after reset, no mark, nothing waiting on it. -/
def scrubRange (s : State) (lo hi : Nat) : State :=
  let inside (l : Nat) : Bool := decide (lo ≤ l) && decide (l < hi)
  let s := withdraw s fun q => inside q.loc
  { s with
    mem := mclear s.mem lo hi
    feb := sclear s.feb lo hi
    poison := sclear s.poison lo hi
    reserved := mclear s.reserved lo hi
    tdu := { s.tdu with bindings := mclear s.tdu.bindings lo hi, boundFull := mclear s.tdu.boundFull lo hi } }

/-- What a core keeps when its partition goes: its register map and capacity, power figures and requested point. -/
def scrubCore (c : Core) : Core :=
  { regMap := c.regMap, spare := c.spare, extra := c.extra, regcap := c.regcap, level := c.level, grant := c.grant, sleepep := c.sleepep, slept := c.slept, cost := c.cost, vfreq := c.vfreq }

/-- Whether a scheduled event belongs to an engine's operation. -/
def engineEvent (e : Nat) : Instr → Bool
  | .kickAccept x | .copy x | .copy2d x | .gather x | .stencilDecomposition x | .fabricTokenRequest x | .linkMessageSend x | .noroutine x
  | .endOp x _ _ | .engineBusyRetry x | .hostApertureCompletion x _ _ => x == e
  | _ => false

/-- An engine's operation and queue go, with what it waits for; its microcode store stays (log entry 40). -/
def dropEngine (s : State) (e : Nat) : State :=
  let s := withdraw s fun q => q.who == .engineEnd e || q.who == .engineData e
  let returns (q : List Nat × TokenWait) : Bool := match q.2 with | .engine x _ => x == e | _ => false
  let s := { s with sched := s.sched.filter fun x => !engineEvent e x.2, strands := mdel s.strands (30000 + e)
                    tokenQueue := s.tokenQueue.filter fun q => !returns q }
  modEngine s e fun x => { retired := x.retired, absent := x.absent }

/-- Fabric writes of an operation that a RELEASE has dropped are its strand's alone from now on. -/
def leaveFabric (s : State) (e : Nat) : State :=
  let gone (u : Unacked) : Unacked := if u.engine = some e then { u with engine := none } else u
  { s with fabric := { s.fabric with unacked := s.fabric.unacked.map gone, backlog := s.fabric.backlog.map gone } }

/-- A tile as ADMIT leaves it. -/
def scrubTile (s : State) (t : Nat) : State :=
  let s := scrubRange (scrubRange s (scratchLoc (2 * t) 0) (scratchLoc (2 * t + 2) 0)) (mailLoc t 0) (mailLoc (t + 1) 0)
  let s := { s with entries := mclear s.entries (65536 + 64 * t) (65536 + 64 * t + 64), shares := mclear s.shares (131072 + 128 * t) (131072 + 128 * t + 128) }
  let s := modTile s t fun x =>
    { rowMap := x.rowMap, mesh := { x.mesh with bank0 := {}, bank1 := {}, active := 0, running := [], load := none, swap := none, accepted := [] } }
  let s := (List.range 8).foldl (fun s i => modCore s (t * 8 + i) scrubCore) s
  (List.range 5).foldl (fun s i => leaveFabric (dropEngine s (t * 5 + i)) (t * 5 + i)) s

/-- A stack's cores as ADMIT leaves them. -/
def scrubStack (s : State) (k : Nat) : State :=
  let s := scrubRange s (stackLoc (k * 16) 0) (stackLoc (k * 16 + 16) 0)
  (List.range 16).foldl (fun s i => modCore s (1000 + k * 16 + i) scrubCore) s

/-- The units of masks. -/
def scrubUnits (s : State) (tiles stackSet : List Nat) : State := stackSet.foldl scrubStack (tiles.foldl scrubTile s)

/-- ADMIT (R191, R193, R195). DESIGN CHOICE (log entry 76): a device out of service (R439) refuses it with BADTILE. -/
def execTduAdmit (s : State) : Host.Outcome State Fault Refusal := withCommand s fun c =>
  let p := c.part
  let w := partWord s p
  let asid := fld w 43 32
  let st := lowestCode [(2, decide (partSt s p ≠ 0) || asidTaken s p asid), (3, decide (s.faults.fstate = 3) || decide (wordTiles w = 0) || unitsMissing s (wordTiles w) (wordStacks w)),
    (4, unitsBusy s p (wordTiles w) (wordStacks w))]
  if st ≠ 0 then tduDone s st 0
  else
    let s := scrubUnits s (partTiles s p) (partStacks s p)
    let s := setPartSt { s with tdu := { s.tdu with ids := mdel s.tdu.ids asid, shadows := mdel s.tdu.shadows p } } p 1
    tduDone (post s 1 .placement) 0 0

/-! ## Pre-emption (R203 to R206) -/

/-- The strands of a partition that are in a context. -/
def strandsOf (s : State) (p : Nat) : List (Agent × Strand) :=
  (s.strands.filter fun x => decide (x.1 < 30000) && decide (x.2.partition = p) && decide (x.2.run ≠ .free)).map fun x => (agentOfKey x.1, x.2)

/-- PREEMPT (R203): the trap is pending on every strand; the halt begins after GRACE µs. -/
def execPreempt (s : State) : Host.Outcome State Fault Refusal := withCommand s fun c =>
  let p := c.part
  if partSt s p ≠ 1 then tduDone s 2 0
  else
    let rs := (strandsOf s p).filter fun x => decide (x.2.party ≠ 0)
    let s := rs.foldl (fun s x => modStrand s x.1 fun r => { r with pending := { r.pending with preempt := true } }) s
    post (setPartSt s p 3) (if rs = [] then 0 else fld c.cmd 53 44 * 2500) .haltStart

/-- The grace time ends early when every strand has ended (R203). -/
def graceOver (s : State) : State :=
  match s.tdu.commands with
  | c :: _ =>
    if fld c.cmd 63 60 = 2 ∧ partSt s c.part = 3 ∧ strandsOf s c.part = [] ∧ s.sched.any fun e => e.2 == .haltStart then
      post { s with sched := s.sched.filter fun e => e.2 ≠ .haltStart } 0 .haltStart
    else s
  | [] => s

/-- What a strand's state is once it is halted (R144, R156, R161, R165): a wait that holds its instruction at issue is withdrawn; an
interrupted MWAIT returns at resume; a wait for a barrier or for an answer on its way stays. -/
def haltedRun : Run → Run
  | .free => .free
  | .halted w => .halted w
  | .ready | .wait => .halted none
  | .mwait d _ => .halted (some (.monitor d))
  | .parked p => match p with
    | .gbar _ | .answer | .command | .invalidation | .migration | .trailing => .halted (some p)
    | _ => .halted none

/-- Events of a strand that a halt cancels: fence echoes, timeouts, traps about to be taken. -/
def haltCancels (a : Agent) : Instr → Bool
  | .fenceEcho b _ | .mwaitTimeout b _ | .waitTimeout b _ | .asyncTrapEntry b | .longWait b => b == a
  | _ => false

/-- A mesh request that has not been accepted is withdrawn (R377). -/
def withdrawMesh (s : State) (a : Agent) : State :=
  let mine (q : MeshReq) : Bool := q.by_ == a && q.part.isNone
  let qs := (coreOf s (coreKey a)).meshQueue.filter mine
  let s := modStrand s a fun r => qs.foldl (fun r q => match q.dst with | some n => r.refill n | none => r) r
  modCore s (coreKey a) fun c => { c with meshQueue := c.meshQueue.filter fun q => !mine q }

/-- A strand leaves its core: every line of the L1 that it used is written back and invalidated (R107). -/
def leaveLines (s : State) (a : Agent) : State :=
  if a.kind = .compute then sweepLines s fun l => l.core = a.unit ∧ (l.users.getLsbD a.ctx = true ∨ ownLine s a l = true) else s

/-- One strand halts (R45, R107, R132, R144, R151, R204). -/
def haltStrand (s : State) (a : Agent) : State :=
  let r := strandOf s a
  let s := match r.run with | .parked p => withdrawWait s a p | _ => s
  let s := withdrawMesh s a
  let qs := waitingOf s a
  let long := r.boost && (match r.run with | .parked _ => true | _ => false)
  let s := withdraw s fun q => q.who = .agent a
  let s := { s with monitors := s.monitors.filter fun m => m.agent ≠ a, sched := s.sched.filter fun e => !haltCancels a e.2 }
  let s := leaveLines s a
  let s := modCore s (coreKey a) fun c => { c with turns := c.turns.filter (· ≠ a.ctx), yielded := c.yielded.filter (· ≠ a.ctx) }
  modStrand s a fun r =>
    { r with
      run := haltedRun r.run, withdrawn := r.withdrawn ++ qs, boost := long || qs.any (·.listed), busy := 0, retryAt := 0
      lastIssue := none, repBuf := [], clauseOk := false, walkFault := none, walked := []
      str := { r.str with tsm0 := 0, tsm1 := 0, tsm2 := 0 } }

/-- What a halt makes of a running pass: the vectors that have entered drain, and the request that goes on behind them, with what its start
and those vectors have left in its part; none where every vector has entered (R261). -/
def stopRun (cycle : Nat) (r : MeshRun) : MeshRun × Option MeshReq :=
  let k := enteredBy cycle r - r.next
  if r.vectors.length ≤ k then (r, none)
  else
    let vs := r.vectors.take k
    ({ r with vectors := vs, halted := true },
      some { r.req with part := some { r.part with done := r.next + k, flags := vs.foldl (fun f v => f ||| v.2.2) r.part.flags } })

/-- The halt stops a tile's passes (R204, R248, R261): those that run, and those that RECAL keeps waiting, go back to their cores' queues in
the order of their acceptance, before those that an earlier halt stopped; the pass of a strand that has ended is cancelled. -/
def haltMesh (s : State) (t : Nat) : State :=
  let m := meshOf s t
  let xs := m.running.map (stopRun s.cycle)
  let waiting (x : MeshReq × List (Nat × Byte)) : Bool := x.1.part.isSome
  let back := (xs.filterMap (·.2) ++ (m.accepted.filter waiting).map (·.1)).filter fun q => q.party ≠ 0
  let s := modMesh s t fun m => { m with running := xs.map (·.1), symbolsEnd := min m.symbolsEnd s.cycle, accepted := m.accepted.filter fun x => !waiting x }
  let s := back.reverse.foldl (fun s q => modCore s (coreKey q.by_) fun c => { c with meshQueue := q :: c.meshQueue }) s
  (xs.zip m.running).foldl (fun s x => if x.1.1.vectors.isEmpty && !x.2.vectors.isEmpty then post s 1 (.passComplete t) else s) s

/-- The status and DETAIL of an End that is due. -/
def dueEnd (s : State) (e : Nat) : Option (Nat × Nat) :=
  s.sched.findSome? fun x => match x.2 with | .endOp y st d => if y = e then some (st, d) else none | _ => none

/-- A copy engine stops with its accesses performed, the stencil engine's queue waits (R204, R396): what the shadow holds of it, and
the state. -/
def haltEngine (p : Nat) (s : State) (e : Nat) : State :=
  let s := match (engineOf s e).op, (engineOf s e).ending, dueEnd s e with
    | some k, none, some (st, d) => if e % 5 = 4 then s else enterEnd s e k st d
    | _, _, _ => s
  let x := engineOf s e
  let h := strandOf s (hartOf e)
  let stencil := decide (e % 5 = 4)
  let sh := mget {} s.tdu.shadows p
  let kept := if stencil then { ({} : Engine) with queue := x.queue } else { x with retired := false }
  let sh := { sh with engines := mset sh.engines e kept, strands := if stencil then sh.strands else mset sh.strands (30000 + e) h }
  let s := { s with tdu := { s.tdu with shadows := mset s.tdu.shadows p sh } }
  if stencil then modEngine s e fun y => { y with queue := [] } else dropEngine s e

/-- The partition whose halt has stopped a copy engine's operation, where it lies in shadow storage (R204). -/
def stoppedFor (s : State) (e : Nat) : Option Nat := (s.tdu.shadows.find? fun x => x.2.engines.any fun y => y.1 == e && y.2.op.isSome).map (·.1)

/-- What happens to an engine's operation, wherever its state is: one that a halt has stopped takes it where it lies. -/
def atOp (s : State) (e : Nat) (f : State → State) : State :=
  match stoppedFor s e with
  | none => f s
  | some p =>
    let sh := mget {} s.tdu.shadows p
    haltEngine p (f (modStrand (modEngine s e fun _ => mget {} sh.engines e) (hartOf e) fun _ => mget {} sh.strands (30000 + e))) e

/-- The End of an operation that nothing but its completion's Fill, or the put behind it, holds up: the TDU takes it over (R204). -/
def holdStuck (s : State) (e : Nat) : State :=
  match (engineOf s e).op, (engineOf s e).ending with
  | some k, some (st, d) => if (engineOf s e).returns = [] ∧ endWaits s e = false then holdEnd s e k st d else s
  | _, _ => s

/-- Device-level engines whose completion for a partition waits at its mailbox word. -/
def stuckAtMailbox (s : State) (p : Nat) : List Nat :=
  (s.engines.filter fun x => decide (90 ≤ x.1) && (x.2.op.any fun k => decide (k.partition = p)) && s.waiters.any fun q => q.who == .engineEnd x.1).map (·.1)

/-- HALT_START (R203, R204): no strand of the partition issues any more; the live state reaches shadow storage 10.8 µs later (R205). DESIGN CHOICE
(log entry 76): a quad at the end of its guard band, which R470 caps at point 4, runs at 4 and not at the 5 of R466. -/
def execHaltStart (s : State) : Host.Outcome State Fault Refusal := withCommand s fun c =>
  let p := c.part
  let quads := (partTiles s p).flatMap fun t => [2 * t, 2 * t + 1]
  let held := quads.filter fun q => (strandsOf s p).any fun x => decide (x.1.kind = .compute) && decide (x.1.unit / 4 = q)
  let s := (strandsOf s p).foldl (fun s x => haltStrand s x.1) s
  -- the quads that hold strands run at point 5 until the live state is in shadow storage (R466)
  let s := held.foldl (fun s q => setPoint s q (if (quadOf s q).eol then 4 else 5)) s
  let s := (partTiles s p).foldl haltMesh s
  let s := (imageEngines (partTiles s p)).foldl (haltEngine p) s
  let s := (stuckAtMailbox s p).foldl holdStuck s
  post s 27000 .shadowSwap

/-- The compute and stack cores of a partition, by core key. -/
def partCores (s : State) (p : Nat) : List Nat :=
  (partTiles s p).flatMap (fun t => (List.range 8).map (t * 8 + ·)) ++ (partStacks s p).flatMap fun k => (List.range 16).map (1000 + k * 16 + ·)

/-- Whether everything that the halt lets finish has finished (R204, R205): answers and results on their way, passes, loads, swaps,
dispatch queues, atomics, the decomposition, the fabric writes of the copy engines, which peers acknowledge or end by their loss. -/
def drained (s : State) (p : Nat) : Bool :=
  let rs := strandsOf s p
  let mine (a : Agent) : Bool := rs.any fun x => x.1 == a
  rs.all (fun x => match x.2.run with
    | .halted (some .answer) | .halted (some .invalidation) | .halted (some .migration) => false
    | .halted (some .command) => s.tdu.commands.any fun c => c.by_ == x.1
    | _ => true)
  && !(s.sched.any fun e => match e.2 with | .resultArrival a _ _ _ | .atomicFill a _ _ | .errorConsumed a _ => mine a | _ => false)
  && !(s.reserved.any fun r => mine r.2.agent)
  && !((s.fabric.unacked ++ s.fabric.backlog).any fun u => u.engine.any fun e => (imageEngines (partTiles s p)).contains e)
  && (partTiles s p).all (fun t => let m := meshOf s t
    m.running.isEmpty && m.load.isNone && m.swap.isNone && decide (m.accepted = []) && (engineOf s (t * 5 + 4)).op.isNone)
  && (partCores s p).all fun k => decide ((coreOf s k).dispatch = []) && decide ((coreOf s k).flying = [])

/-- The live part of a core (R206). -/
def liveCore (c : Core) : Core := { rq := c.rq, qweight := c.qweight, lease := c.lease, lv := c.lv, fmtctx := c.fmtctx, progress := c.progress, meshQueue := c.meshQueue }

/-- The live state moves into shadow storage (R206). -/
def swapLive (s : State) (p : Nat) : State :=
  let rs := strandsOf s p
  let sh := mget {} s.tdu.shadows p
  let settled (r : Strand) : Strand := match r.run with | .halted (some .command) => { r with run := .halted none } | _ => r
  let cores := partCores s p
  let tiles := partTiles s p
  let sh := { sh with
    strands := rs.foldl (fun m x => mset m (strandKey x.1) (settled x.2)) sh.strands
    cores := cores.map fun k => (k, liveCore (coreOf s k))
    sems := tiles.map fun t => (t, (tileOf s t).sems) }
  let s := { s with strands := rs.foldl (fun m x => mset m (strandKey x.1) x.2.freed) s.strands, tdu := { s.tdu with shadows := mset s.tdu.shadows p sh } }
  let s := cores.foldl (fun s k => modCore s k scrubCore) s
  tiles.foldl (fun s t => modTile s t fun x => { x with sems := [] }) s

/-- SHADOW_SWAP (R205, R206): once all is drained, the partition is HALTED; of a decomposition whose End is held up at the mailbox or at a ready
queue the TDU holds the rest. -/
def execShadowSwap (s : State) : Host.Outcome State Fault Refusal := withCommand s fun c =>
  let s := (partTiles s c.part).foldl (fun s t => holdStuck s (t * 5 + 4)) s
  if drained s c.part then
    let s' := swapLive s c.part
    tduDone (setPartSt ((partTiles s c.part).foldl (fun s t => requestPoint (requestPoint s (2 * t)) (2 * t + 1)) s') c.part 2) 0 0
  else post s 100 .shadowSwap

/-! ## Resume (R132, R144, R151, R199, R207) -/

/-- The state of a strand that resumes. -/
def resumedRun : Run → Run
  | .halted none => .ready
  | .halted (some (.monitor d)) => .mwait d true
  | .halted (some p) => .parked p
  | r => r

/-- A withdrawn request is sent again with the operands captured at its first issue (R144); one that the home answers BUSY goes to the
overflow list (log entry 33); one whose region has gone ends as DESTROY sets out. -/
def resend (a : Agent) (s : State) (q : SyncReq) : State :=
  match access s (actorOf s a) none (if q.kind = .peek then .peek else .sync) q.va.toNat 8 with
  | .ok ps =>
    let q := { q with who := .agent a, loc := partLoc ps, home := homeOf s (partLoc ps), na := partNa ps }
    match arrive (if partLoc ps < 2 ^ 52 then touchSlice s a (partLoc ps) else s) q with
    | (.busy, s) => { s with overflow := s.overflow ++ [{ q with listed := true }] }
    | (_, s) => s
  | .error _ =>
    let kind := if q.kind = .peek then 0 else 3
    modStrand s a fun r => { (match q.dst with | some n => r.setReg n q.old | none => r) with dropped := some (word (kind * 2 ^ 56 + q.va.toNat % 2 ^ 56)) }

/-- Armed slots hit and take an entry again (R151). -/
def rearmAll (s : State) (a : Agent) : State :=
  let hit (w : Word) : Word := if bit w 63 then w ||| word (2 ^ 62) else w
  let s := modStrand s a fun r => { r with str := { r.str with mon0 := hit r.str.mon0, mon1 := hit r.str.mon1, mon2 := hit r.str.mon2, mon3 := hit r.str.mon3 } }
  [0, 1, 2, 3].foldl rearm { s with cur := a }

/-- One strand goes on: a fence in progress runs again from its first step, with nothing owed (R132). -/
def resumeStrand (s : State) (a : Agent) : State :=
  let r := strandOf s a
  let s := modStrand s a fun r => { r with run := resumedRun r.run, withdrawn := [], parkedAt := s.cycle,
                                           fence := r.fence.map fun f => { f with slices := [], ready := s.cycle, lost := false } }
  rearmAll (r.withdrawn.foldl (resend a) s) a

/-- A held completion is performed (R207): the rest of its End runs, under a number of its own (`endOver`). -/
def performHeld (s : State) (x : Engine) : State :=
  let e := 200 + (firstIdx (s.engines.length + 1) fun i => (mfind s.engines (200 + i)).isNone).getD 0
  let end_ := x.ending.getD (0, 0)
  post { s with engines := mset s.engines e x } 1 (.endOp e end_.1 end_.2)

/-- An engine goes on where it was stopped. -/
def resumeEngine (s : State) (e : Nat) (x : Engine) : State :=
  let s := modEngine s e fun y => { x with retired := y.retired, absent := y.absent }
  match x.op, x.ending with
  | some _, some (st, d) => post s 1 (.endOp e st d)
  | some _, none => runOp s e
  | none, _ => startEngine s e

/-- The live state is in its units again and runs (R207, R214). -/
def reloadLive (s : State) (p : Nat) : State :=
  let sh := mget {} s.tdu.shadows p
  let s := { s with tdu := { s.tdu with shadows := mdel s.tdu.shadows p } }
  let s := sh.cores.foldl (fun s x => modCore s x.1 fun c =>
    { liveCore x.2 with regMap := c.regMap, spare := c.spare, extra := c.extra, regcap := c.regcap, level := c.level, grant := c.grant, sleepep := c.sleepep, slept := c.slept, cost := c.cost, vfreq := c.vfreq }) s
  let s := sh.sems.foldl (fun s x => modTile s x.1 fun t => { t with sems := x.2 }) s
  let s := sh.strands.foldl (fun s x => { s with strands := mset s.strands x.1 x.2 }) s
  let s := setPartSt s p 1
  let s := sh.engines.foldl (fun s x => resumeEngine s x.1 x.2) s
  let s := (sh.strands.filter fun x => decide (x.1 < 30000)).foldl (fun s x => resumeStrand s (agentOfKey x.1)) s
  let s := sh.ends.foldl performHeld s
  post ((partTiles s p).foldl meshAgain s) 1 .placement

/-- RESUME (R207). -/
def execResume (s : State) : Host.Outcome State Fault Refusal := withCommand s fun c =>
  if partSt s c.part ≠ 2 then tduDone s 2 0 else tduDone (reloadLive s c.part) 0 0

/-! ## Save (R192, R209) -/

/-- The image VA. -/
def imageVa (s : State) : Nat := fld s.tdu.arg 55 8 * 256

/-- The pieces of an image access as the runtime party, whose region must be EXCL-held by it (R192); an error where a check fails, which
says whether a region in TRANSIT makes the access wait (R90). -/
def imageParts (s : State) (asid len : Nat) (m : Mode) : Except Bool (List Part) :=
  match access s (tduActor asid 1) none m (imageVa s) len with
  | .ok ps => if ps.all fun q => q.region.any fun r => decide (r.2.state = 1) && r.2.holder == runtimeParty then .ok ps else .error false
  | .error (.transit _) => .error true
  | .error _ => .error false

/-- SAVE (R209): it waits for the device-level operations that the partition kicked, writes the image at HBM, and frees the units. -/
def execSave (s : State) : Host.Outcome State Fault Refusal := withCommand s fun c =>
  let p := c.part
  let asid := fld (partWord s p) 43 32
  if partSt s p < 2 then tduDone s 2 0
  else if deviceOps s p ≠ 0 then post (setPartSt s p 3) 100 .save
  else
    let b := imageOf s p 0
    match imageParts s asid b.len .store with
    | .error true => post (setPartSt s p 3) 100 .save
    | .error false => tduDone (setPartSt s p 2) 5 0
    | .ok ps =>
      let s := writeParts s { tduActor asid 1 with path := .host } ps (denseBytes b.len 0 b.bytes)
      let saved (x : Nat × Option Spawn) : Nat × Option Spawn := (x.1, x.2.filter fun sp => sp.asid ≠ asid)
      let s := { s with tdu := { s.tdu with spawns := s.tdu.spawns.filter (fun sp => sp.asid ≠ asid), boundFull := s.tdu.boundFull.map saved
                                            shadows := mdel s.tdu.shadows p } }
      tduDone (commitWaiting (setPartSt s p 0)) 0 ((b.len + 255) / 256)

/-- SIZEQ (R209): the length that a SAVE would write. -/
def execSizeq (s : State) : Host.Outcome State Fault Refusal := withCommand s fun c =>
  let p := c.part
  if partSt s p = 2 then tduDone s 0 (imageLength s p)
  else if partSt s p = 1 then tduDone s 0 (imageLength (swapLive ((imageEngines (partTiles s p)).foldl (haltEngine p) s) p) p)
  else tduDone s 2 0

/-! ## Restore (R212 to R214) -/

/-- The masks of n of the positions below w that may be chosen, in increasing order of value. -/
def masksOf : Nat → Nat → (Nat → Bool) → List Nat
  | 0, n, _ => if n = 0 then [0] else []
  | w + 1, n, free => masksOf w n free ++ (match n with | 0 => [] | k + 1 => if free w then (masksOf w k free).map (· + 2 ^ w) else [])

/-- The sets of units to try: the units given, or free enabled ones; stacks first, then tiles, in increasing order of the partition word
(log entry 34). -/
def unitSets (s : State) (p n m tiles stackSet : Nat) : List (Nat × Nat) :=
  let freeT (i : Nat) : Bool := (physTile s i).isSome && !unitsBusy s p (2 ^ i) 0
  let freeS (i : Nat) : Bool := bit s.caps.stack i && !unitsBusy s p 0 (2 ^ i)
  let ts := if tiles ≠ 0 then [tiles] else masksOf 16 n freeT
  let ks := if stackSet ≠ 0 then [stackSet] else masksOf 12 m freeS
  ks.flatMap fun k => ts.map fun t => (t, k)

/-- The context of a strand record on chosen units. -/
def StrandImage.agent (tiles stackSet : List Nat) (x : StrandImage) : Agent :=
  if x.stack then ⟨.stack, stackSet.getD x.unit 0 * 16 + x.core, x.ctx⟩ else ⟨.compute, tiles.getD x.unit 0 * 8 + x.core, x.ctx⟩

/-- Whether strand records fit chosen units (R213). -/
def imageFits (s : State) (xs : List StrandImage) (n m : Nat) (tiles stackSet : List Nat) : Bool :=
  decide (tiles.length = n) && decide (stackSet.length = m) && xs.all fun x =>
    let a := x.agent tiles stackSet
    let same := xs.filter fun y => let b := y.agent tiles stackSet; b.kind == a.kind && b.unit == a.unit
    decide (same.length ≤ contextsOf a.kind) && decide ((same.map fun y => fld y.strand.str.part 7 0).sum ≤ usableRegs s (coreKey a))
      && decide ((same.filter fun y => y.lv.isSome).length ≤ 1)

/-- Registers packed from entry 0 in record order (R213): the base of the next record of a core. -/
def packedBase (tiles stackSet : List Nat) (before : List StrandImage) (x : StrandImage) : Nat :=
  let a := x.agent tiles stackSet
  ((before.filter fun y => let b := y.agent tiles stackSet; b.kind == a.kind && b.unit == a.unit).map fun y => fld y.strand.str.part 7 0).sum

/-- Bytes of an image laid into memory from a location on, and the full bits of its words. -/
def loadMem (s : State) (b : Blob) (o l n map : Nat) : State :=
  let s := (b.slice o n).foldl (fun s x => putHbm s (l + x.1) x.2) s
  (List.range (n / 8)).foldl (fun s i => setFull s (l + 8 * i) (b.bit map i)) s

/-- A format context of an image: no Reserved bit and no IN outside 12 to 17 is ever held (R11, R252; log entry 76). -/
def loadContext (w : Word) : Word :=
  let w := w &&& (maskOf 39 32 ||| maskOf 11 8 ||| maskOf 4 0)
  if 12 ≤ fld w 4 0 ∧ fld w 4 0 ≤ 17 then w else setFld w 4 0 12

/-- A phase bank from its logical stencil (R214): valid where the stencil is. -/
def loadBank (m : Mesh) (b : Blob) (o : Nat) : Bank :=
  let bs := denseBytes stencilSize 0 (b.slice o stencilSize)
  if stencilStatus bs = 0 then bankOf m bs true else {}

/-- The retained state of a tile from its record. -/
def loadTile (b : Blob) (tiles : List Nat) (s : State) (o : Nat) : State :=
  let t := tiles.getD (fld (b.word (o + 8)) 23 16) 0
  let mail := o + 16 + 2048
  let acc := mail + 65536 + 1024
  let meta_ := acc + 64 * 4096 * 12
  let st := meta_ + 512 + 512 + 64
  let s := loadMem s b mail (mailLoc t 0) 65536 (mail + 65536)
  let el := (b.slice acc (64 * 4096 * 12)).foldl (fun m x => mput 0 m (x.1 / 12) (mget 0 m (x.1 / 12) + BitVec.ofNat 96 (x.2.toNat * 2 ^ (8 * (x.1 % 12))))) []
  modTile s t fun x =>
    { el.foldl (fun x e => x.putAcc e.1 e.2) x with
      accMeta := (List.range 64).foldl (fun m k => mput 0 m k (b.word (meta_ + 8 * k) &&& ~~~maskOf 7 7)) []
      mesh := { x.mesh with bank0 := loadBank x.mesh b st, bank1 := loadBank x.mesh b (st + stencilSize), active := fld (b.word (st + 2 * stencilSize)) 0 0 } }

/-- A holder entry of its four words (R84). -/
def entryOfWords (w : Nat → Word) : Entry :=
  { asid := fld (w 0) 59 48, base := fld (w 0) 47 0, len := (w 1).toNat, holder := BitVec.ofNat 32 (fld (w 2) 63 32), shares := fld (w 2) 31 16
    gen := BitVec.ofNat 16 (fld (w 2) 15 0), lender := BitVec.ofNat 32 (fld (w 3) 63 32), transit := bit (w 3) 7, state := fld (w 3) 3 0 }

/-- The retained state of a quad from its record. -/
def loadQuad (b : Blob) (tiles : List Nat) (s : State) (o : Nat) : State :=
  let loc := b.word (o + 8)
  let q := tiles.getD (fld loc 23 16) 0 * 2 + fld loc 15 8 / 4
  let map := o + 16 + 2 ^ 23
  let es := map + 2 ^ 17
  let s := loadMem s b (o + 16) (scratchLoc q 0) (2 ^ 23) map
  let s := (List.range 32).foldl (fun s k => let e := entryOfWords fun i => b.word (es + 32 * k + 8 * i)
    { s with entries := mput {} s.entries (65536 + q * 32 + k) e }) s
  (List.range 64).foldl (fun s k => let w := b.word (es + 1024 + 16 * k)
    if fld w 47 32 = 0 then s
    else { s with shares := mset s.shares (131072 + q * 64 + k) ⟨65536 + q * 32 + fld w 63 48, fld w 47 32, BitVec.ofNat 32 (fld w 31 0)⟩ }) s

/-- The scratch of a stack core from its record. -/
def loadStack (b : Blob) (stackSet : List Nat) (s : State) (o : Nat) : State :=
  let loc := b.word (o + 8)
  loadMem s b (o + 16) (stackLoc (stackSet.getD (fld loc 23 16) 0 * 16 + fld loc 15 8) 0) (2 ^ 18) (o + 16 + 2 ^ 18)

/-- A kick of a record's entry, kicked by a party. -/
def readKick (asid p : Nat) (by_ : Word) (w : Nat → Word) : Kick :=
  ⟨w 0, (List.range 8).map fun i => w (8 + i), (fld by_ 43 32, BitVec.ofNat 32 (fld by_ 31 0)), asid, p⟩

/-- An engine of its record, with its hart (`engineRecord`). -/
def readEngine (b : Blob) (tiles : List Nat) (asid p o : Nat) : Nat × Engine × Strand :=
  let id := b.word (o + 8)
  let e := tiles.getD (fld id 15 8) 0 * 5 + fld id 7 0
  let g (i : Nat) : Word := b.word (o + 0x18 + 8 * i)
  let q := o + 0x18 + 256 + 8
  let full := b.word (o + 0x18 + 256)
  let hart : Strand :=
    { pc := b.word (o + 0x10), party := engineParty e, partition := p, regs := (List.range 32).foldl (fun m i => mput 0 m i (g i)) []
      empties := positions 32 fun i => !bit full i }
  if !bit id 32 then (e, {}, hart)
  else
    let kicks := ((List.range 8).map fun i => (g (17 + i), fun j => b.word (q + 128 * i + 8 * j))).filter fun w => w.1 ≠ 0
    let flags := g 11
    let op := if bit flags 0 then some (readKick asid p (g 16) fun i => if i = 0 then g 8 else g (i - 8)) else none
    (e, { queue := kicks.map fun w => readKick asid p w.1 w.2, op := op, ending := if bit (g 10) 63 then some (fld (g 10) 62 56, fld (g 10) 55 0) else none,
          returns := [g 12, g 13].take (fld flags 9 8), filled := bit flags 1, lost := bit flags 2, progress := (g 9).toNat,
          elem := if bit flags 3 then some ((g 14).toNat, g 15) else none }, hart)

/-- A held completion of its record (`endRecord`). -/
def readEnd (b : Blob) (asid p o : Nat) : Engine :=
  let v := b.word (o + 16)
  let by_ := b.word (o + 40)
  { op := some ⟨0, b.word (o + 24) :: List.replicate 7 0, (fld by_ 43 32, BitVec.ofNat 32 (fld by_ 31 0)), asid, p⟩, ending := some (fld v 63 56, fld v 55 0)
    filled := bit (b.word (o + 32)) 0, progress := fld (b.word (o + 32)) 63 1 }

/-- The stopped passes of a core, those of the context that its pass-progress word names first (R261). -/
def inProgressOrder (c : Core) : List MeshReq :=
  let first (q : MeshReq) : Bool := bit c.progress 63 && decide (fld c.progress 61 56 = q.by_.ctx)
  c.meshQueue.filter first ++ c.meshQueue.filter fun q => !first q

/-- The live state of an image on chosen units. -/
def readShadow (b : Blob) (p : Nat) (tiles stackSet : List Nat) : Shadow :=
  let os := sectionOffsets b 1
  let xs := os.map fun o => (o, readStrand b o)
  let place (i : Nat) (x : Nat × StrandImage) : Agent × Strand :=
    let a := x.2.agent tiles stackSet
    let base := packedBase tiles stackSet ((xs.take i).map (·.2)) x.2
    let r := x.2.strand
    (a, { r with partition := p, withdrawn := readWithdrawn b x.1 a r, str := { r.str with part := setFld r.str.part 27 16 base } })
  let strands := xs.zipIdx.map fun y => place y.2 y.1
  let asid := imageAsid b
  let engines := (sectionOffsets b 6).map (readEngine b tiles asid p)
  let cores := (sectionOffsets b 2).foldl (fun m o =>
    let t := tiles.getD (fld (b.word (o + 8)) 23 16) 0
    let k := t * 8 + fld (b.word (o + 8)) 15 8
    let fifo (q : Nat) : List (Nat × Word) := (List.range (fld (b.word (o + 24 + 520 * q)) 6 0)).map fun i => (q, b.word (o + 32 + 520 * q + 8 * i))
    mset m k { (mget {} m k : Core) with qweight := b.word (o + 16) &&& maskOf 31 0, rq := (List.range 4).flatMap fifo }) []
  let cores := (sectionOffsets b 3).foldl (fun m o =>
    let t := tiles.getD (fld (b.word (o + 8)) 23 16) 0
    let fm := o + 16 + 2048 + 65536 + 1024 + 64 * 4096 * 12 + 512
    (List.range 8).foldl (fun m k => mset m (t * 8 + k) { (mget {} m (t * 8 + k) : Core) with
      fmtctx := loadContext (b.word (fm + 64 * k)), progress := b.word (fm + 512 + 8 * k) &&& (maskOf 63 63 ||| maskOf 61 56 ||| maskOf 31 0) }) m) cores
  let cores := (xs.zip strands).foldl (fun m y =>
    let a := y.2.1
    let c := mget {} m (coreKey a)
    mset m (coreKey a) { c with
      lease := if y.1.2.lv.isSome then some a.ctx else c.lease, lv := y.1.2.lv.getD c.lv
      meshQueue := c.meshQueue ++ y.1.2.stopped.map (stoppedOf a y.2.2.party) }) cores
  { strands := engines.foldl (fun m y => mset m (30000 + y.1) y.2.2) (strands.foldl (fun m y => mset m (strandKey y.1) y.2) [])
    cores := cores.map fun x => (x.1, { x.2 with meshQueue := inProgressOrder x.2 })
    sems := (sectionOffsets b 3).foldl (fun m o => mset m (tiles.getD (fld (b.word (o + 8)) 23 16) 0)
      ((List.range 256).foldl (fun v i => mput 0 v i (b.word (o + 16 + 8 * i) &&& maskOf 16 0)) [])) []
    engines := engines.foldl (fun m y => mset m y.1 y.2.1) []
    ends := ((sectionOffsets b 7).filter fun o => decide (fld (b.word o) 31 0 = 2)).map (readEnd b asid p) }

/-- The pending spawns of an image. -/
def readSpawns (b : Blob) (tiles : List Nat) : List Spawn :=
  ((sectionOffsets b 7).filter fun o => decide (fld (b.word o) 31 0 = 1)).map fun o =>
    ⟨b.word (o + 8), b.word (o + 16), imageAsid b, fld (b.word (o + 40)) 1 0, if b.word (o + 48) = 0 then none else some (placeOf tiles (b.word (o + 48) - 1)),
      fld (b.word (o + 40)) 63 8, b.word (o + 56), (b.word (o + 32)).toNat⟩

/-- A compute strand is paired again (R432, R433): a context on another core of its quad; none where no core has room. -/
def repair (s : State) (a : Agent) : Option State :=
  let r := strandOf s a
  let size := fld r.str.part 7 0
  let mates := ((List.range 4).map (a.unit / 4 * 4 + ·)).filterMap fun v => if v = a.unit then none else roomOn s .compute v size
  (bestOf (coreRank s .compute r.pclass) mates).map fun y => modStrand (putStrand s y.1 (trailRecord r y.2)) a fun r => { r with pair := some y.1 }

/-- Pairs every compute strand of a partition. -/
def repairAll : List Agent → State → Option State
  | [], s => some s
  | a :: l, s => (repair s a).bind (repairAll l)

/-- The structures that hold translations for units' cores (R32). -/
def unitTlbs (tiles stackSet : List Nat) (u : Nat) : Bool :=
  (tiles.any fun t => u == t || (List.range 8).any fun i => u == 1000 + 8 * t + i) || stackSet.any fun k => (List.range 16).any fun i => u == 100 + 16 * k + i

/-- The image loaded on chosen units, or none where it does not fit (R213, R214). -/
def restoreOn (s : State) (b : Blob) (p tiles stackSet : Nat) : Option State :=
  let ts := tilesOf s tiles
  let ks := positions 12 fun i => stackSet.testBit i
  let xs := (sectionOffsets b 1).map (readStrand b)
  if !imageFits s xs (imageTiles b) (imageStacks b) ts ks then none
  else
    let asid := imageAsid b
    let w := setFld (setFld (setFld (partWord s p) 59 48 stackSet) 43 32 asid) 15 0 tiles
    let s := scrubUnits (putPart s p w) ts ks
    let s := { s with tlbs := s.tlbs.filter fun t => !unitTlbs ts ks t.unit }
    let s := (sectionOffsets b 3).foldl (loadTile b ts) s
    let s := (sectionOffsets b 4).foldl (loadQuad b ts) s
    let s := (sectionOffsets b 5).foldl (loadStack b ks) s
    let sh := readShadow b p ts ks
    let sp := readSpawns b ts
    let s := { s with tdu := { s.tdu with
      ids := mset s.tdu.ids asid (fld (b.word 0x10) 59 32, fld (b.word 0x18) 59 32)
      spawns := s.tdu.spawns ++ sp
      boundFull := sp.foldl (fun m y => match y.bound with | some l => mset m l none | none => m) s.tdu.boundFull
      shadows := mset s.tdu.shadows p sh } }
    let s := reloadLive s p
    if bit s.faults.pairctl p then repairAll ((strandsOf s p).filterMap fun x => if x.1.kind = .compute then some x.1 else none) s else some s

/-- The first set of units on which an image fits. -/
def firstFit (s : State) (b : Blob) (p : Nat) : List (Nat × Nat) → Option State
  | [] => none
  | (t, k) :: r => match restoreOn s b p t k with
    | some s => some s
    | none => firstFit s b p r

/-- The image that DEV.TDUARG names, read as the runtime party; an error where an access fails or must wait. -/
def readImage (s : State) (asid : Nat) : Except Bool (Blob × State) :=
  match imageParts s asid 512 .load with
  | .error w => .error w
  | .ok ps =>
    let r := readParts s (tduActor asid 1) ps
    let len := max 512 (word (leNat ((r.1.drop 0x28).take 8))).toNat
    match imageParts s asid len .load with
    | .error w => .error w
    | .ok qs => let r := readParts s (tduActor asid 1) qs; .ok (⟨len, sparseBytes 0 r.1⟩, r.2.2)

/-- RESTORE (R212 to R214). While a region of the image is in TRANSIT the command is in progress, and ST reads BUSY (R190). -/
def execRestore (s : State) : Host.Outcome State Fault Refusal := withCommand s fun c =>
  let p := c.part
  let w := partWord s p
  let asid := fld w 43 32
  let taken := partSt s p = 1 ∨ partSt s p = 2
  let img := if taken then .error false else readImage s asid
  let st := match img with
    | .error _ => lowestCode [(2, decide taken), (3, unitsMissing s (wordTiles w) (wordStacks w)), (4, unitsBusy s p (wordTiles w) (wordStacks w)), (5, true)]
    | .ok (b, _) => lowestCode [(2, asidTaken s p (imageAsid b)),
        (3, unitsMissing s (wordTiles w) (wordStacks w) || (decide (wordTiles w ≠ 0) && decide (imageTiles b = 0)) || (decide (wordStacks w ≠ 0) && decide (imageStacks b = 0))),
        (4, unitsBusy s p (wordTiles w) (wordStacks w)), (5, !imageWhole b), (6, !imageKnown b || (decide (asid ≠ 0) && decide (imageAsid b ≠ asid)))]
  match img with
  | .error true => post (setPartSt s p 3) 100 .restore
  | .error false => tduDone (if taken then s else setPartSt s p 0) st 0
  | .ok (b, s') =>
    if st ≠ 0 then tduDone (setPartSt s p 0) st 0
    else match firstFit s' b p (unitSets s' p (imageTiles b) (imageStacks b) (wordTiles w) (wordStacks w)) with
    | some t => tduDone t 0 0
    | none => tduDone (setPartSt s p 0) 7 0

/-! ## Release (R215) -/

/-- A strand is released: its requests go, its tokens are settled as by EXIT, its report has outcome 4. -/
def releaseStrand (s : State) (a : Agent) : State := endStrand (withdraw s fun q => q.who = .agent a) a 4 0 .ends

/-- RELEASE (R215). -/
def execRelease (s : State) : Host.Outcome State Fault Refusal := withCommand s fun c =>
  let p := c.part
  if partSt s p ≠ 1 ∧ partSt s p ≠ 2 then tduDone s 2 0
  else
    let asid := fld (partWord s p) 43 32
    let sh := mget {} s.tdu.shadows p
    let s := { s with strands := (sh.strands.filter fun x => decide (x.1 < 30000)).foldl (fun m x => mset m x.1 x.2) s.strands
                      tdu := { s.tdu with shadows := mdel s.tdu.shadows p } }
    let s := ((strandsOf s p).filter fun x => decide (x.2.party ≠ 0)).foldl (fun s x => releaseStrand s x.1) s
    let mine := s.tdu.spawns.filter fun sp => sp.asid = asid
    let s := { s with tdu := { s.tdu with spawns := s.tdu.spawns.filter fun sp => sp.asid ≠ asid } }
    let s := mine.foldl (fun s sp => spawnOver s sp.bound) s
    let late := s.tdu.boundFull.filter fun x => x.2.any fun sp => sp.asid = asid
    let s := late.foldl (fun s x => spawnOver s (some x.1)) s
    let waiting := stuckAtMailbox s p
    let s := scrubUnits s (partTiles s p) (partStacks s p)
    -- device-level operations of the partition complete to no mailbox
    let away (k : Kick) : Kick := if k.partition = p then { k with partition := 64 } else k
    let s := { s with engines := s.engines.map fun (e, x) => (e, if 90 ≤ e then { x with queue := x.queue.map away, op := x.op.map away } else x) }
    let s := waiting.foldl (fun s e => post s 1 (.endOp e 0 0)) s
    tduDone (commitWaiting (setPartSt s p 0)) 0 0

end Sys2Proof.Machine
end

