-- ==== Sys2Proof/Machine/Migrate.lean ====
section
/-! DEFINITION. Strand migration (R130, R410, R460): the shipping, the arrival at the peer, the answer. -/

namespace Sys2Proof.Machine

/-- Whether a party holds a region or a share record of its ASID (R107). -/
def holdsTokens (s : State) (asid : Nat) (p : Party) : Bool :=
  (s.entries.any fun x => decide (x.2.state ≠ 0) && decide (x.2.asid = asid) && x.2.holder == p)
    || s.shares.any fun x => decide (x.2.count ≠ 0) && x.2.party == p && decide ((mget {} s.entries x.2.entry).asid = asid)

/-- A list cut into pieces of at most 32 words. -/
def chunks32 : Nat → List Word → List (List Word)
  | 0, _ => []
  | f + 1, ws => if ws = [] then [] else ws.take 32 :: chunks32 f (ws.drop 32)

/-- The words of a blob. -/
def wordsOfBlob (b : Blob) : List Word := (List.range (b.len / 8)).map fun i => b.word (8 * i)

/-- The record that is shipped (R410, R460): the strand behind its MIGR, with 0 in its destination and no report. -/
def shipped (s : State) (a : Agent) (d : Option Nat) : Blob :=
  let r := advanced (strandOf s a) 4
  let r := match d with | some n => r.setReg n 0 | none => r
  strandRecord { r with report := 0, run := .halted none } 0 (a.unit % 8) a.ctx none []

/-- MIGR (R404, R410): the refusals first; then it waits for every event of the strand, disarms its monitors, and ships the record. DESIGN CHOICE
(log entry 76): a reachable neighbour (NOPEER) is a chip with a route in the table in force, whatever the state of the route's port. -/
def execMigr (d : GDst) (a b : Src) (s : State) : Host.Outcome State Fault Refusal :=
  finish 4 (issue s (onStack s) (gdstUse s d ++ srcUse s a ++ srcUse s b) fun s => eventGate s <|
    let chip := fld (srcVal s a) 11 0
    let asid := fld (srcVal s b) 11 0
    let r := me s
    let c := lowestCode [(1, holdsTokens s r.str.asid.toNat r.party), (2, decide (groupsOf s r.str.asid.toNat r.party ≠ [])),
      (3, decide ((coreOf s (coreKey s.cur)).lease = some s.cur.ctx)),
      (4, decide (chip = s.fabric.chipid.toNat) || (routeOf s chip).isNone)]
    if c ≠ 0 then .done (putDst s (dstOf s d) (word c))
    else orderGate s <|
      if r.empties ≠ [] then parkMe s (.regs r.empties)
      else if fabricOf s s.cur || decide (256 < (unackedTo s chip 2).length + 16) then retryMe s 1
      else if s.fabric.lostPeers.contains chip then .done (putDst s (dstOf s d) 6)
      else
        let s := disarmAll (leaveLines (fenceNow s s.cur) s.cur) s.cur
        let ps := chunks32 16 (wordsOfBlob (shipped s s.cur (dstOf s d)))
        let s := ps.foldl (fun s ws => queuePacket s chip 2 5 r.str.asid.toNat (word asid) ws none none) s
        let s := { s with fabric := { s.fabric with migrating := s.fabric.migrating ++ [(chip, s.cur)] } }
        .done (parkAs (emptyDst s (dstOf s d)) s.cur .migration))

/-- The migration of a strand has failed (R410): it resumes with its status. -/
def migrationFailed (s : State) (a : Agent) (status : Nat) : State :=
  let s := modStrand s a fun r => r.empties.foldl (fun r n => r.setReg n (word status)) r
  wakeIf s a fun p => p == .migration

/-- An arriving strand starts with no translation cached on its core (R46), whatever their ASID, global ones too. -/
def dropTranslations (s : State) (a : Agent) : State :=
  { s with tlbs := s.tlbs.filter fun t => !(t.unit == 1000 + a.unit || t.unit == tlbUnit a) }

/-- The entry of DEV.FABMAP that maps a source chip and ASID: the lowest enabled one (R457). -/
def fabMap (s : State) (src asid : Nat) : Option Word :=
  (s.fabric.fabmap.find? fun x => bit x.2 63 && decide (fld x.2 59 48 = src) && decide (fld x.2 43 32 = asid)).map (·.2)

/-- The place of an arriving strand: one core of the partition with room, and a context for its pair (R460, R432). -/
def migrationPlace (s : State) (p size pc : Nat) : Option ((Agent × Nat) × Option (Agent × Nat)) :=
  let us := partTiles s p
  if bit s.faults.pairctl p then (placePair s us size pc).map fun x => (x.1, some x.2) else (placeCompute s us size pc).map fun x => (x, none)

/-- A whole record has arrived (R460): the strand is accepted into a partition of the peer ASID that has room, the lowest one, or refused. -/
def acceptStrand (s : State) (src srcAsid asid : Nat) (ws : List Word) : Nat × State :=
  match fabMap s src srcAsid with
  | some m =>
    if !bit m 62 ∨ fld m 11 0 ≠ asid then (5, s)
    else
      let x := readStrand (blobOfWords ws) 0
      let r := x.strand
      let ps := positions 64 fun p => decide (partSt s p = 1) && decide (fld (partWord s p) 43 32 = asid)
      match ps.findSome? fun p => (migrationPlace s p (fld r.str.part 7 0) r.pclass).map fun y => (p, y) with
      | none => (5, s)
      | some (p, lead, trail) =>
        let id := takeId s asid false
        let r := { r with
          run := .ready, party := strandParty false id.1, partition := p, report := 0
          str := { r.str with asid := BitVec.ofNat 12 asid, part := setFld r.str.part 27 16 lead.2 } }
        let s := match trail with | some (b, base) => dropTranslations (putStrand id.2 b (trailRecord r base)) b | none => id.2
        let s := dropTranslations s lead.1
        (0, makeReady (putStrand s lead.1 { r with pair := trail.map (·.1) }) lead.1)
  | none => (5, s)

/-- A MIGR packet in its turn: its words are kept until the record is whole; then the answer is sent. -/
def receiveMigr (s : State) (p : Packet) : State :=
  let ws := mget [] s.fabric.incoming p.src ++ p.payload
  let len := fld (ws.headD 0) 63 32 / 8
  let s := packetDone s p
  if ws.length < len then { s with fabric := { s.fabric with incoming := mset s.fabric.incoming p.src ws } }
  else
    let s := { s with fabric := { s.fabric with incoming := mdel s.fabric.incoming p.src } }
    let r := acceptStrand s p.src p.asid (fld p.va 11 0) ws
    queuePacket r.2 p.src 2 6 p.asid 0 [word r.1] none none

/-- A MIGRRSP in its turn (R410): the oldest migration to that chip ends; accepted, the local context is freed with no report. -/
def receiveMigrrsp (s : State) (p : Packet) : State :=
  let s := packetDone s p
  match takeFirst (fun x : Nat × Agent => x.1 == p.src) s.fabric.migrating with
  | none => s
  | some ((_, a), rest) =>
    let s := { s with fabric := { s.fabric with migrating := rest } }
    if p.payload.headD 0 = 0 then endStrand (modStrand s a fun r => { r with report := 0 }) a 0 0 .ends
    else migrationFailed s a (fld (p.payload.headD 0) 7 0)

end Sys2Proof.Machine
end

