-- ==== Sys2Proof/Machine/Fabric.lean ====
section
/-! DEFINITION. The receiving side of the Zumor fabric (R453 to R460), its timers, the loss of a peer (R106, R126, R131). -/

namespace Sys2Proof.Machine

/-! ## Every packet (R452, R453, R455) -/

/-- The state with a port's record changed. -/
def modPort (s : State) (p : Nat) (f : Port → Port) : State := { s with fabric := { s.fabric with ports := mset s.fabric.ports p (f (mget {} s.fabric.ports p)) } }

/-- Whether a packet's topology version is accepted at this hop (R455). -/
def versionOk (s : State) (p : Packet) : Bool :=
  decide (3 ≤ p.tc) || decide (p.tv = s.fabric.tv) || (s.fabric.accepting && decide (p.tv = s.fabric.tvprev))

/-- A packet for this device counted as dropped by the fabric. -/
def countDrop (s : State) : State := { s with fabric := { s.fabric with fabdrop := min (2 ^ 32 - 1) (s.fabric.fabdrop + 1) } }

/-- The packet at the head of the inputs, if it has the event's type: the topology rule, reserved types, forwarding, packets of a lost
peer or during a device fault, which refuses them (R430); then `k` for one that this device is to perform. A packet whose CRC is bad after the
link layer's replay is dropped and counted with those of a reserved TYPE (R449). A port that is not UP brings nothing. -/
def onPacket (typ : Nat → Bool) (k : State → Packet → State) (s : State) : Host.Outcome State Fault Refusal :=
  match s.inputs with
  | .packet port p trailer :: r =>
    if !typ p.typ then .next s
    else
      let s := { s with inputs := r }
      if (mget {} s.fabric.ports port).state ≠ 4 then .next s
      else if !packetSound p trailer then .next (modPort s port fun x => { x with droptype := min 65535 (x.droptype + 1) })
      else if !versionOk s p then .next (modPort s port fun x => { x with droptv := min 65535 (x.droptv + 1) })
      else if 8 ≤ p.typ then .next (modPort s port fun x => { x with droptype := min 65535 (x.droptype + 1) })
      else if p.dst ≠ s.fabric.chipid.toNat then .next (sendOut s p)
      else if s.faults.fstate = 1 ∨ s.fabric.lostPeers.contains p.src then .next (countDrop s)
      else .next (k s p)
  | _ => .next s

/-- A packet of a sequence is performed only when it is the next one expected; another is dropped, and the last one performed is
acknowledged again (R456; log entry 35). -/
def inTurn (k : State → Packet → State) (s : State) (p : Packet) : State := if p.seq = expected s p.src p.tc then k s p else sendAck s p

/-! ## Writes (R457) -/

/-- A peer as the party of its accesses (R80, R81). -/
def peerActor (src asid : Nat) : Actor := ⟨peerParty src, asid, 1, .peer, none⟩

/-- The state with a WRITE's next word noted, or with none left. -/
def setWriting (s : State) (p : Packet) (k : Option Nat) : State :=
  { s with fabric := { s.fabric with writing := s.fabric.writing.filter (fun x => x.1 ≠ p) ++ (k.map fun i => (p, i)).toList } }

/-- The word of a peer's write is marked poisoned where it was written (R425). -/
def poisonBelow (s : State) (x : Actor) (ps : List Part) : State :=
  match ps with
  | q :: _ => if readsBelow x q then putHbmBits s (partLoc ps) ((hbmBits s (partLoc ps)).1, true) else poisonParts s ps
  | [] => s

/-- The words of a WRITE from number k on, in order: those of a SYNC region as Fills, others at HBM. A Fill that waits, or that its home
answers BUSY, keeps the rest back; a word that has lost its region makes the packet fail (R141, R147, R457). -/
def writeFrom (x : Actor) (p : Packet) : List Word → Nat → State → State
  | [], _, s => packetDone (setWriting s p none) p
  | w :: r, k, s =>
    let va := p.va.toNat + 8 * k
    match access s x none .xstore va 8 with
    | .error (.holder ..) => sendNak (setWriting s p none) p 3
    | .error (.transit _) => setWriting s p (some k)
    | .error _ => sendNak (setWriting s p none) p 2
    | .ok ps =>
      if ps.any fun q => q.state = 3 then
        match arrive (setWriting s p (some k)) { requestAt s (.peer p) .fill (partLoc ps) (partNa ps) (word va) x.asid w with poison := p.marks.contains k } with
        | (.performed, s) => writeFrom x p r (k + 1) s
        | (_, s) => s
      else
        let s := writeParts s x ps (wordBytes w)
        writeFrom x p r (k + 1) (if p.marks.contains k then poisonBelow s x ps else s)

/-- A WRITE that is being performed goes on, unless its Fill still waits (log entry 35: every 16 cycles). -/
def writeOn (s : State) (x : Packet × Nat) : State :=
  if s.waiters.any fun q => q.who == .peer x.1 then s
  else match fabMap s x.1.src x.1.asid with
    | some m => writeFrom (peerActor x.1.src (fld m 11 0)) x.1 (x.1.payload.drop x.2) x.2 s
    | none => sendNak (setWriting s x.1 none) x.1 1

/-- The WRITEs that are being performed. -/
def pollWrites (s : State) : State := if s.cycle % 16 = 0 then s.fabric.writing.foldl writeOn s else s

/-- Whether two packets are sendings of the same one. -/
def samePacket (p q : Packet) : Bool := q.src == p.src && q.tc == p.tc && q.seq == p.seq

/-- A WRITE in its turn: the checks of R457 in order, then its words; the ACK waits for its Fills. A region in transit leaves it to the next
sending; a second sending of one that is being performed changes nothing. -/
def receiveWrite (s : State) (p : Packet) : State :=
  if s.fabric.writing.any fun x => samePacket p x.1 then s
  else match fabMap s p.src p.asid with
    | none => sendNak s p 1
    | some m =>
      let x := peerActor p.src (fld m 11 0)
      match access s x none .xstore p.va.toNat (8 * p.payload.length) with
      | .error (.holder ..) => sendNak s p 3
      | .error (.transit _) => s
      | .error _ => sendNak s p 2
      | .ok _ => writeFrom x p p.payload 0 s

/-- WRITE (R457). -/
def execWrite (s : State) := onPacket (· == 0) (inTurn receiveWrite) s

/-! ## Acknowledgements (R456) -/

/-- The unacknowledged packets of a sequence up to and including a SEQ, and the others. -/
def takeAcked (us : List Unacked) (dst tc seq : Nat) : List Unacked × List Unacked :=
  let mine := us.filter fun u => u.packet.dst = dst ∧ u.packet.tc = tc
  let n := (mine.findIdx? fun u => u.packet.seq == seq).map (· + 1) |>.getD 0
  let gone := mine.take n
  (gone, us.filter fun u => !gone.contains u)

/-- ACK: cumulative; packets that were kept back may follow. -/
def receiveAck (s : State) (p : Packet) : State :=
  drainBacklog { s with fabric := { s.fabric with unacked := (takeAcked s.fabric.unacked p.src p.tc p.seq).2 } } p.src p.tc

/-- ACK (R456). -/
def execAck (s : State) := onPacket (· == 1) receiveAck s

/-- The status of a NAK at the sending engine (R457). -/
def nakStatus (reason : Nat) : Nat := if reason = 2 then 3 else 4

/-- An operation one of whose packets was refused ends with a status and DETAIL, unless it has failed already. -/
def endRefused (e st d : Nat) (s : State) : State :=
  match (engineOf s e).op, (engineOf s e).ending with
  | some _, none => endWith s e st d
  | some _, some (0, _) =>
    let s := { s with sched := s.sched.map fun x => match x.2 with | .endOp e' _ _ => if e' = e then (x.1, .endOp e st d) else x | _ => x }
    modEngine s e fun x => { x with ending := some (st, d) }
  | _, _ => s

/-- NAK: its packet and the earlier ones are done with; the operation that sent it ends with the reason's status and the remote VA. -/
def receiveNak (s : State) (p : Packet) : State :=
  let (gone, rest) := takeAcked s.fabric.unacked p.src p.tc p.seq
  let s := drainBacklog { s with fabric := { s.fabric with unacked := rest } } p.src p.tc
  match gone.getLast? with
  | some ⟨q, _, _, _, some e⟩ => atOp s e (endRefused e (nakStatus (fld p.va 7 0)) (q.va.toNat % 2 ^ 56))
  | _ => s

/-- NAK (R456). -/
def execNak (s : State) := onPacket (· == 2) receiveNak s

/-! ## Token requests (R458) -/

/-- The token operation of a request's OP. -/
def peerOp (p : Packet) : Option TokenOp :=
  let w := p.payload.headD 0
  match fld w 19 16 with | 1 => some .tret | 2 => some (.unshr (fld w 31 24)) | 3 => some .tqry | _ => none

/-- The entries that a peer's request names. -/
def peerKeys (s : State) (p : Packet) (m : Word) : List Nat :=
  match peerOp p with
  | some op => tokenKeys s (peerActor p.src (fld m 11 0)) op (p.va &&& maskOf 55 0)
  | none => []

/-- A peer's token operation at its entry's home (R458): a transfer answers when it completes. -/
def peerToken (s : State) (p : Packet) (m : Word) : State :=
  let s := packetDone s p
  match peerOp p with
  | none => answerPeer s p (tokenWord none 15)
  | some op => match tokenAt s (peerActor p.src (fld m 11 0)) op (p.va &&& maskOf 55 0) with
    | .transfer key t => beginTransfer s key { t with via := some (.peer p) }
    | .answer s w => answerPeer s p w

/-- A TOKREQ in its turn: mapped through FABMAP, NOREGION without an entry; carried out, or waiting in order of arrival (R92), its
acknowledgement with it. A second sending of one that waits changes nothing. -/
def receiveTokreq (s : State) (p : Packet) : State :=
  if s.tokenQueue.any fun q => match q.2 with | .peer o _ => samePacket p o | _ => false then s
  else match fabMap s p.src p.asid with
    | none => answerPeer (packetDone s p) p (tokenWord none 1)
    | some m => if mustWait s s.tokenQueue (peerKeys s p m) then waitToken s (peerKeys s p m) (.peer p m) else peerToken s p m

/-- TOKREQ (R458). -/
def execTokreq (s : State) := onPacket (· == 3) (inTurn receiveTokreq) s

/-- DETAIL of a token request's End (R458). -/
def tokenDetail (op : Nat) (w : Word) : Nat :=
  if op = 3 then fld w 63 60 * 2 ^ 52 + fld w 59 58 * 2 ^ 50 + fld w 57 57 * 2 ^ 49 + fld w 47 0
  else fld w 7 0 * 2 ^ 48 + fld w 47 32 * 2 ^ 32

/-- Whether an engine's operation awaits the answer to a request of a SEQ to a chip. -/
def awaits (x : Engine) (chip seq : Nat) : Bool :=
  match x.op with
  | some k => decide (fld k.word 63 58 = 16) && decide (x.progress = seq + 1) && decide (fld (argWord k 2) 11 0 = chip) && x.ending.isNone
  | none => false

/-- A TOKRSP in its turn: the operation that asked ends with STATUS 0. -/
def receiveTokrsp (s : State) (p : Packet) : State :=
  let s := packetDone s p
  match s.engines.find? fun x => awaits x.2 p.src (fld p.va 15 0) with
  | some (e, x) => endWith s e 0 (tokenDetail (fld ((x.op.map fun k => argWord k 2).getD 0) 19 16) (p.payload.headD 0))
  | none => s

/-- TOKRSP (R458). -/
def execTokrsp (s : State) := onPacket (· == 4) (inTurn receiveTokrsp) s

/-- MIGR packets (R460). -/
def execMigrPacket (s : State) := onPacket (· == 5) (inTurn receiveMigr) s

/-- MIGRRSP (R460). -/
def execMigrrsp (s : State) := onPacket (· == 6) (inTurn receiveMigrrsp) s

/-- A packet with a reserved TYPE (R452). -/
def execReservedTypePacket (s : State) := onPacket (fun t => decide (8 ≤ t)) (fun s _ => s) s

/-- LINKMSG (R459): queued with its port for the management core; overflow is counted in DROPTYPE. -/
def execLinkmsg (s : State) : Host.Outcome State Fault Refusal :=
  match s.inputs with
  | .message port ws :: r =>
    let s := { s with inputs := r }
    if s.fabric.msgs.length < 256 then .next { s with fabric := { s.fabric with msgs := s.fabric.msgs ++ [(port, ws)] } }
    else .next (modPort s port fun x => { x with droptype := min 65535 (x.droptype + 1) })
  | _ => .next s

/-! ## Timers (R455, R456) -/

/-- FABRIC_RESEND (R456): the unacknowledged packets are sent again 8 µs after the last sending; a destination whose oldest one has
waited 200 µs is lost. -/
def execFabricResend (dst tc : Nat) (s : State) : Host.Outcome State Fault Refusal :=
  match unackedTo s dst tc with
  | [] => .next s
  | u :: _ =>
    if u.firstSent + lostDelay ≤ s.cycle then .next (post s 0 (.peerDeclaredLost dst))
    else if s.cycle < u.lastSent + resendDelay then .next (post s (min (u.lastSent + resendDelay) (u.firstSent + lostDelay) - s.cycle) (.fabricResend dst tc))
    else
      let s := (unackedTo s dst tc).foldl (fun s v => sendOwn s v.packet) s
      let s := { s with fabric := { s.fabric with unacked := s.fabric.unacked.map fun v =>
        if v.packet.dst = dst ∧ v.packet.tc = tc then { v with lastSent := s.cycle } else v } }
      .next (post s (min resendDelay (u.firstSent + lostDelay - s.cycle)) (.fabricResend dst tc))

/-- The strands with fabric writes queued for them, or a migration in flight, to a chip (R421): their contexts now. -/
def queuedFor (s : State) (chip : Nat) : List Agent :=
  ((((s.fabric.unacked ++ s.fabric.backlog).filter fun u => u.packet.dst = chip).filterMap (·.by_)).eraseDups.filterMap (fun w => contextOf s w.1 w.2)
    ++ (s.fabric.migrating.filter fun m => m.1 = chip).map (·.2)).eraseDups

/-- A strand learns of the loss of a peer: FABRICLOSS is pending, a FENCE.s of it ends with PEERLOST (R126, R421). -/
def learnsLoss (chip : Nat) (r : Strand) : Strand :=
  { r with
    pending := { r.pending with fabricLoss := some chip }
    fence := r.fence.map fun f => if f.scope = 3 then { f with lost := true } else f }

/-- PEER_DECLARED_LOST (R106, R126, R131, R421, R456): its packets are discarded, a fence.s that waits for them and operations that
sent them learn it, its tokens are settled, its migrations resume. -/
def execPeerDeclaredLost (chip : Nat) (s : State) : Host.Outcome State Fault Refusal :=
  if s.fabric.lostPeers.contains chip then .next s
  else
    let mine := (s.fabric.unacked ++ s.fabric.backlog).filter fun u => u.packet.dst = chip
    let writes := (mine.filter fun u => u.packet.typ = 0).length
    let moving := s.fabric.migrating.filter fun m => m.1 = chip
    let es := (mine.filterMap (·.engine)).eraseDups
    -- strands whose live state is in shadow storage have it pending there
    let away := ((mine.filterMap (·.by_)).eraseDups).filter fun w => (contextOf s w.1 w.2).isNone
    let s := (queuedFor s chip).foldl (fun s a => modStrand s a (learnsLoss chip)) s
    let s := away.foldl (fun s w => modParty s w.1 w.2 (learnsLoss chip)) s
    let s := es.foldl (fun s e => atOp s e fun s =>
      modStrand (modEngine s e fun x => { x with lost := true }) (hartOf e) fun r => { learnsLoss chip r with pending := r.pending }) s
    let asked := (s.engines.filter fun x => x.2.progress ≠ 0 ∧ x.2.ending.isNone ∧
      (x.2.op.any fun k => fld k.word 63 58 = 16 ∧ fld (argWord k 2) 11 0 = chip)).map (·.1)
    let s := { s with
      fabric := { s.fabric with
        unacked := s.fabric.unacked.filter fun u => u.packet.dst ≠ chip
        backlog := s.fabric.backlog.filter fun u => u.packet.dst ≠ chip
        migrating := s.fabric.migrating.filter fun m => m.1 ≠ chip
        incoming := mdel s.fabric.incoming chip
        writing := s.fabric.writing.filter fun x => x.1.src ≠ chip
        lostPeers := sadd s.fabric.lostPeers chip }
      tokenQueue := s.tokenQueue.filter fun q => match q.2 with | .peer p _ => decide (p.src ≠ chip) | _ => true }
    let s := withdraw s fun q => match q.who with | .peer p => p.src == chip | _ => false
    let s := asked.foldl (fun s e => endWith s e 6 0) s
    let s := settle s none (peerParty chip) .lost
    let s := moving.foldl (fun s m => migrationFailed s m.2 6) s
    .next (record s 6 1 0 (peerParty chip) 0 0 (word chip) (word (writes + (if moving = [] then 0 else 2 ^ 63))) 0 0)

/-- ACCEPTANCE_WINDOW_END (R454, R455): the window of the switch that made `tv` current. -/
def execAcceptanceWindowEnd (tv : Nat) (s : State) : Host.Outcome State Fault Refusal :=
  .next (if s.fabric.tv = tv ∧ s.fabric.switchedAt + 160000 ≤ s.cycle then { s with fabric := { s.fabric with accepting := false } } else s)

/-- The entries of a route table that name a port which is not FAILED: a FAILED port's routes go at the next topology switch (R451). -/
def liveRoutes (s : State) (rs : List (Nat × BitVec 7)) : List (Nat × BitVec 7) :=
  rs.filter fun e => decide ((mget {} s.fabric.ports (e.2.toNat % 64)).state ≠ 5)

/-- COMMIT (R454): the switch in one step; the acceptance window is 64 µs. -/
def execCommit (s : State) : Host.Outcome State Fault Refusal :=
  let tv := (s.fabric.tv + 1) % 16
  .next (post { s with fabric := { s.fabric with routes := liveRoutes s s.fabric.shadow, tvprev := s.fabric.tv, tv := tv, accepting := true, switchedAt := s.cycle } } 160000
    (.acceptanceWindowEnd tv))

/-! ## Ports (R449 to R451, R491) -/

/-- The first port whose step of a number is due. -/
def duePort (s : State) (step : Nat) : Option (Nat × Port) := s.fabric.ports.find? fun x => decide (x.2.step = step) && decide (x.2.due ≤ s.cycle)

/-- The event of a port's step. -/
def portEvent (step : Nat) : Instr :=
  match step with | 1 => .linkEnable | 2 => .linkDisable | 3 => .retrain | 4 => .lock | 5 => .train | 6 => .up | _ => .failed

/-- A port's next step, d cycles from now. -/
def nextStep (s : State) (p step d : Nat) (f : Port → Port) : State :=
  post (modPort s p fun x => { f x with step := step, due := s.cycle + d }) d (portEvent step)

/-- USE. -/
def portUse (x : Port) : Nat := fld x.cfg 9 0

/-- Whether USE has exactly 8 channels, none of them in BAD (R449). -/
def useOk (x : Port) : Bool := decide (popNat 10 (portUse x) = 8) && decide (portUse x &&& fld x.cfg 21 12 = 0)

/-- The step of a port, if one is due. -/
def onPort (s : State) (step : Nat) (k : Nat → Port → State) : Host.Outcome State Fault Refusal :=
  match duePort s step with
  | some (p, x) => .next (k p x)
  | none => .next s

/-- The lending that CFG asks for (R450): LENDTO × 16 + LENDN. -/
def lending (x : Port) : Nat := fld x.cfg 53 51 * 16 + fld x.cfg 50 47

/-- LINK_ENABLE (R450): LASER; a USE that is not legal fails the bring-up. The laser is good within 0.2 ms (log entry 53). -/
def execLinkEnable (s : State) : Host.Outcome State Fault Refusal := onPort s 1 fun p x =>
  if useOk x then nextStep s p 4 500000 fun x => { x with state := 1, locked := 0, eyeok := 0, active := 0 }
  else nextStep s p 7 0 fun x => { x with state := 1, locked := 0, eyeok := 0, active := 0 }

/-- LINK_DISABLE (R449): the port is DOWN. -/
def execLinkDisable (s : State) : Host.Outcome State Fault Refusal := onPort s 2 fun p _ =>
  modPort s p fun x => { x with state := 0, locked := 0, eyeok := 0, active := 0, lentOut := 0, step := 0 }

/-- RETRAIN (R449, R450): the channel map is kept, the eyes are trained again; a port that is not UP has nothing to retrain. -/
def execRetrain (s : State) : Host.Outcome State Fault Refusal := onPort s 3 fun p x =>
  if x.state = 4 then nextStep s p 6 2000000 fun x => { x with state := 3, eyeok := 0 } else modPort s p fun x => { x with step := 0 }

/-- What the inputs say of a port's step, and the inputs behind it; without such an input the step succeeds and the ends agree (log entry 53). -/
def linkNews (s : State) (p : Nat) : Option (LinkNews × List Input) :=
  match s.inputs with
  | .link n :: r => if n.port = p then some (n, r) else none
  | _ => none

/-- LOCK (R450): the branch power is good and the rings lock within 0.7 ms; without the power the port stays in LASER to its bound of 1 ms. -/
def execLock (s : State) : Host.Outcome State Fault Refusal := onPort s 4 fun p _ =>
  let go : State := nextStep s p 5 1750000 fun x => { x with state := 2 }
  match linkNews s p with
  | some (n, r) => if n.power then go else nextStep { s with inputs := r } p 7 2000000 id
  | none => go

/-- A port after the exchange of TRAIN (R450, R491): it knows the far end's chip and lending; where its own chip id is the greater one, it takes
the far end's USE. -/
def agreed (own : Nat) (n : LinkNews) (x : Port) : Port :=
  { x with neighbour := n.chip, farLending := n.lending, cfg := if n.chip < own then setFld x.cfg 9 0 (n.use % 1024) else x.cfg }

/-- A port in TRAIN with the CFG that the ends agree on: its rings are locked, the eyes train within 0.8 ms; a USE that names a retired channel
does not train. -/
def training (s : State) (p : Nat) (x : Port) : State :=
  if useOk x then nextStep s p 6 2000000 fun _ => { x with state := 3, locked := BitVec.ofNat 10 (portUse x) }
  else nextStep s p 7 0 fun _ => { x with state := 3 }

/-- TRAIN (R450, R491): with the rings of USE locked the ends agree on USE; a ring that has not locked keeps the port in LOCK to its bound of
2 ms. -/
def execTrain (s : State) : Host.Outcome State Fault Refusal := onPort s 5 fun p x =>
  match linkNews s p with
  | some (n, r) =>
    let s := { s with inputs := r }
    let on := portUse x &&& n.locked
    if on = portUse x then training s p (agreed s.fabric.chipid.toNat n x)
    else nextStep s p 7 3250000 fun x => { x with locked := BitVec.ofNat 10 on }
  | none => training s p x

/-- What a port's training does to the lending of a port (R450): one that waited for it alone comes into force, if the lender carries traffic. -/
def lendAfter (p : Nat) (y : Port) : Port :=
  let wait := sdel y.lendWait p
  { y with lendWait := wait, lentOut := if wait = [] ∧ y.state = 4 then lending y else y.lentOut }

/-- A port comes up (R450): ACTIVE is USE, and every lending is in force whose two ports have now trained. -/
def comeUp (s : State) (p : Nat) (x : Port) : State :=
  let use := BitVec.ofNat 10 (portUse x)
  let s := modPort s p fun y => { y with state := 4, locked := use, eyeok := use, active := use, step := 0 }
  { s with fabric := { s.fabric with ports := s.fabric.ports.map fun e => (e.1, lendAfter p e.2) } }

/-- UP (R450, R491): every eye of USE has passed in both directions; one that has not keeps the port in TRAIN to its bound of 5 ms. -/
def execUp (s : State) : Host.Outcome State Fault Refusal := onPort s 6 fun p x =>
  match linkNews s p with
  | some (n, r) =>
    let s := { s with inputs := r }
    let on := portUse x &&& n.eyes
    if on = portUse x then comeUp s p x else nextStep s p 7 10500000 fun x => { x with eyeok := BitVec.ofNat 10 on }
  | none => comeUp s p x

/-- FAILED (R450): a state has missed its bound, or fewer than four channels are left (R451). -/
def execFailed (s : State) : Host.Outcome State Fault Refusal := onPort s 7 fun p _ =>
  modPort s p fun x => { x with state := 5, active := 0, lentOut := 0, step := 0 }

/-- The lowest channel of a port that is in neither USE nor BAD (R451). -/
def spareChannel (x : Port) : Option Nat := firstIdx 10 fun c => !bit x.cfg c && !bit x.cfg (12 + c)

/-- A channel that fails while its port is UP (R451): patched onto a spare, with a REPAIR record; with no spare left the port goes on
with the others, a DECONFIG record is written (R437), and below four it fails. -/
def patchChannel (s : State) (p c : Nat) : State :=
  let x := mget {} s.fabric.ports p
  if x.state ≠ 4 ∨ 10 ≤ c ∨ !x.active.getLsbD c then s
  else
    let cfg := setFld (setFld x.cfg (12 + c) (12 + c) 1) c c 0
    let active := x.active &&& ~~~(BitVec.ofNat 10 (2 ^ c))
    match spareChannel { x with cfg := cfg } with
    | some n =>
      let b := BitVec.ofNat 10 (2 ^ n)
      let cfg := setFld cfg n n 1
      let s := modPort s p fun y => { y with cfg := cfg, active := active ||| b, locked := (y.locked &&& active) ||| b, eyeok := (y.eyeok &&& active) ||| b }
      let left := popNat 10 (1023 - (fld cfg 9 0 ||| fld cfg 21 12))
      record s 9 0 0 0 (7 * 2 ^ 24 + p * 2 ^ 16) 0 7 (word left) 0 0
    | none =>
      let s := modPort s p fun y => { y with cfg := cfg, active := active, locked := y.locked &&& active, eyeok := y.eyeok &&& active }
      let s := record s 10 3 0 0 (7 * 2 ^ 24 + p * 2 ^ 16) 0 7 s.caps.tilemask 0 0
      if popNat 10 active.toNat < 4 then nextStep s p 7 0 id else s

/-- CHANNEL_PATCH (R451): port and channel come with the event. -/
def execChannelPatch (s : State) : Host.Outcome State Fault Refusal :=
  match s.inputs with
  | .figures [p, c] :: r => .next (patchChannel { s with inputs := r } p c)
  | _ => .next s

/-- LINK_LEVEL_REPLAY (R452): flits replayed at a port are counted. -/
def execLinkLevelReplay (s : State) : Host.Outcome State Fault Refusal :=
  match s.inputs with
  | .figures [p, n] :: r => .next (modPort { s with inputs := r } p fun x => { x with replay := min (2 ^ 32 - 1) (x.replay + n) })
  | _ => .next s

end Sys2Proof.Machine
end

