-- ==== Sys2Proof/Machine/HostPort.lean ====
section
/-! DEFINITION. The host attachment (R48, R49, R129, R147, R442 to R447, R471): CXL.mem requests, BAR0, BAR2 and BAR4, the token port,
SPDM, the loss of the host. -/

namespace Sys2Proof.Machine

/-! ## Windows and refusals (R48, R49, R424, R444) -/

/-- The state with an answer given. -/
def answer (s : State) (x : Answer) : State := { s with host := { s.host with answers := s.host.answers ++ [x] } }

/-- The host as the party of an ASID (R81). -/
def hostActor (asid : Nat) : Actor := ⟨hostParty, asid, 1, .host, none⟩

/-- Why a host access is refused: the reason of R424 with its CAUSE, the ASID of its window. -/
structure HostBad where
  reason : Nat
  cause : Nat
  asid : Nat
deriving DecidableEq, Repr

/-- A host offset as window, ASID and VA (R48), or the refusal. -/
def hostWindow (s : State) (off : Nat) : Except HostBad (Nat × Nat × Nat) :=
  let n := off / 2 ^ 40
  let cfg := mget 0 s.host.liveCfg n
  let asid := fld cfg 43 32
  if 8 ≤ n ∨ !bit cfg 63 ∨ fld cfg 19 0 * 2 ^ 26 ≤ off % 2 ^ 40 then .error ⟨1, 0, 0⟩
  else
    let va := fld (mget 0 s.host.liveVa n) 55 26 * 2 ^ 26 + off % 2 ^ 40
    if winBase ≤ va ∧ va < 2 ^ 56 then .error ⟨2, 0, asid⟩ else .ok (n, asid, va)

/-- The walk of a window's miss: the state that keeps the pointers it has read, and that with the translation in the window's cache as well
(R32, R48). -/
def hostWalk (s : State) (n asid va : Nat) : State × State :=
  match tlbFind s (600 + n) asid va with
  | some e => (s, tlbInsert s e)
  | none => match walk s asid va with
    | .ok (leaf, size, ps) => (cachePointers s ps, tlbInsert (cachePointers s ps) (leafEntry (600 + n) asid va leaf size))
    | .error _ => (s, s)

/-- What a host access comes to: its VA, ASID and checked part; a refusal; a region in transit, which it waits for. -/
inductive HostWay where
  | ok (asid va : Nat) (ps : List Part)
  | bad (b : HostBad)
  | wait

/-- The checks of a host access to n bytes (R48, R49). -/
def hostWay (s : State) (m : Mode) (off len : Nat) : HostWay × State :=
  match hostWindow s off with
  | .error b => (.bad b, s)
  | .ok (n, asid, va) =>
    let t := (hostWalk s n asid va).2
    let s := (hostWalk s n asid va).1
    let u := if (tlbFind t (600 + n) asid va).isSome then some (600 + n) else none
    -- a translation is kept only where the access has used it without a fault (R33)
    match access t (hostActor asid) u m va len with
    | .ok ps => (.ok asid va ps, t)
    | .error (.transit _) => (.wait, s)
    | .error (.xlate w _) => (.bad ⟨3, fld w 63 60, asid⟩, s)
    | .error (.holder c _ _) => (.bad ⟨4, c, asid⟩, s)
    | .error _ => (.bad ⟨3, 0, asid⟩, s)

/-- A HOSTREJECT record (R424). -/
def hostReject (s : State) (off : Nat) (b : HostBad) : State :=
  record s 4 3 b.asid (if b.reason = 1 ∨ b.reason = 6 then 0 else hostParty) 0 (word off) (word (b.reason + b.cause * 2 ^ 8)) 0 0 0

/-- A read that is refused: poison (R444). -/
def refuseRead (s : State) (off : Nat) : State := answer s (.line off 0 true)

/-- The completion of a write: a CXL.mem write has one; a posted write of BAR4 has none. -/
def completeWrite (s : State) (off : Nat) (src : Option Nat) : State := if src.isNone then answer s (.done off) else s

/-- A write that is refused: the data is dropped, a General Media event names the offset, the completion is the normal one (R444). -/
def refuseWrite (s : State) (off : Nat) (src : Option Nat) : State := completeWrite (answer s (.mediaEvent off)) off src

/-! ## Reads and writes -/

/-- Bytes as a line. -/
def lineOf (bs : List Byte) : BitVec 512 := BitVec.ofNat 512 (leNat bs)

/-- A place moved on by o bytes. -/
def Place.shift (p : Place) (o : Nat) : Place :=
  match p with
  | .dram pa na => Place.dram (pa + o) na
  | q => q

/-- The runs of enabled bytes of a mask from byte i on, as start and length. -/
def maskRuns (m : BitVec 64) : Nat → Nat → List (Nat × Nat) → List (Nat × Nat)
  | 0, _, acc => acc.reverse
  | f + 1, i, acc =>
    if m.getLsbD i then
      match acc with
      | (b, n) :: r => if b + n = i then maskRuns m f (i + 1) ((b, n + 1) :: r) else maskRuns m f (i + 1) ((i, 1) :: acc)
      | [] => maskRuns m f (i + 1) [(i, 1)]
    else maskRuns m f (i + 1) acc

/-- The enabled bytes of a line written to a checked part. -/
def writeMasked (s : State) (x : Actor) (p : Part) (d : BitVec 512) (m : BitVec 64) : State :=
  (maskRuns m 64 0 []).foldl (fun s r =>
    writePart s x { p with va := p.va + r.1, n := r.2, place := p.place.shift r.1 } (bytesBy (fun i => lineByte d i) r.1 r.2)) s

/-- The one aligned word that a mask enables exactly. -/
def oneWord (m : BitVec 64) : Option Nat := firstIdx 8 fun i => m == BitVec.ofNat 64 (255 * 2 ^ (8 * i))

/-- 20 µs (R147). -/
def hostBound : Nat := 50000

/-- The request of a host Fill. -/
def hostFillReq (s : State) (f : HostFill) : SyncReq := requestAt s (.host f.id) .fill f.loc f.na f.va f.asid f.v

/-- A host Fill arrives at its home; BUSY is retried every 16 cycles (R147). -/
def hostFillArrive (s : State) (f : HostFill) : State :=
  match arrive s (hostFillReq s f) with
  | (.busy, s) => post s 16 (.hostPortBusyRetry f.id)
  | (_, s) => s

/-- A host write to a SYNC word: a Fill, bounded by 20 µs from arrival. -/
def hostFill (s : State) (id off asid va : Nat) (loc : Nat) (na : Bool) (v : Word) (src : Option Nat) : State :=
  let f : HostFill := ⟨id, loc, na, word va, asid, v, s.cycle + hostBound, off, src⟩
  hostFillArrive (post { s with host := { s.host with fills := s.host.fills ++ [f] } } hostBound (.hostFillBound id)) f

/-- Whether an earlier Fill of the same requester waits at a word of checked parts: a Peek stays behind it (R137, R338). -/
def behindFill (s : State) (id : Nat) (src : Option Nat) (ps : List Part) : Bool :=
  syncParts ps && s.host.fills.any fun f => decide (f.id < id) && f.src == src && decide (f.loc / 64 = partLoc ps / 64)

/-- A memory request of the host or of a BAR4 requester, carried out (R73, R111, R147, R444); none while its region is in transit, and of a
read of SYNC words while an earlier Fill of its requester waits there. During a device fault every one is answered with a poisoned completion (R430). -/
def serveHost (s : State) (id op off : Nat) (d : BitVec 512) (m : BitVec 64) (src : Option Nat) : Option State :=
  if s.faults.fstate = 1 then some (if op = 0 then refuseRead s off else refuseWrite s off src)
  else
    let o := off / 64 * 64
    match hostWay s (if op = 0 then .xload else .xstore) o 64 with
    | (.wait, _) => none
    | (.bad b, s) => some (if op = 0 then refuseRead (hostReject s off b) off else refuseWrite (hostReject s off b) off src)
    | (.ok asid va ps, s) =>
      let x := hostActor asid
      if op = 0 then
        if behindFill s id src ps then none
        else
        let (bs, _, s) := readParts s x ps
        some (answer s (.line off (lineOf bs) (readsPoison s x ps)))
      else
        let m := if op = 1 then BitVec.allOnes 64 else m
        if ps.any fun p => p.state = 3 then
          match (if op = 1 then none else oneWord m) with
          | some i => some (hostFill s id off asid (va + 8 * i) (partLoc ps + 8 * i) (partNa ps) (word (d.toNat / 2 ^ (64 * i))) src)
          | none => some (refuseWrite (hostReject s off ⟨5, 0, asid⟩) off src)
        else some (completeWrite (ps.foldl (fun s p => writeMasked s x p d m) s) off src)

/-! ## What waits -/

/-- Whether something of a BAR4 requester, of any for `none`, waits in a list or among the Fills. -/
def bar4Waits (s : State) (before : List HostReq) (src : Option Nat) : Bool :=
  let mine (r : Option Nat) : Bool := r.isSome && (src.isNone || r == src)
  (before.any fun h => match h with | .mem _ op _ _ _ r => decide (op ≠ 0) && mine r | _ => false) || s.host.fills.any fun f => mine f.src

/-- Whether a P2PFLUSH waits: a BAR4 write that came before it is not performed (R443). -/
def flushWaits (s : State) (before : List HostReq) (id : Nat) : Bool :=
  (before.any fun h => match h with | .mem _ op _ _ _ r => decide (op ≠ 0) && r.isSome | _ => false)
    || s.host.fills.any fun f => decide (f.id < id) && f.src.isSome

/-! ## The token port (R445) -/

/-- The token operation of a slot's OP. -/
def slotToken (w : Word) : Option TokenOp :=
  match fld w 63 60 with | 1 => some .tret | 2 => some (.unshr (fld w 7 0)) | 3 => some .tqry | _ => none

/-- The entries that a slot's operation names; `va`: word 0 of the slot as the operation began. -/
def slotKeys (s : State) (w va : Word) : List Nat :=
  match slotToken w with
  | some op => tokenKeys s (hostActor (fld w 43 32)) op va
  | none => []

/-- A slot's operation at its entry's home. -/
def slotPerform (s : State) (n : Nat) (w va : Word) (op : TokenOp) : State :=
  match tokenAt s (hostActor (fld w 43 32)) op va with
  | .transfer key t => beginTransfer s key { t with via := some (.slot n) }
  | .answer s v => slotDone s n v

/-- A token-port operation (R445): without a window of its ASID it is over at once; else it reaches its entry's home, where it is carried out
or waits in order of arrival (R92). -/
def slotOp (s : State) (n : Nat) (w va : Word) : State :=
  if !hostHasWindow s (fld w 43 32) then slotDone s n (tokenWord none 2)
  else match slotToken w with
    | none => slotDone s n (tokenWord none 15)
    | some op => if mustWait s s.tokenQueue (slotKeys s w va) then waitToken s (slotKeys s w va) (.slot n w va) else slotPerform s n w va op

/-- What waits at the host attachment is tried again in order; a write through BAR4 stays behind those of its requester. -/
def pollHost : List HostReq → List HostReq → State → State
  | [], kept, s => { s with host := { s.host with held := kept } }
  | h :: r, kept, s =>
    match h with
    | .mem id op off d m src =>
      if src.isSome && decide (op ≠ 0) && bar4Waits s kept src then pollHost r (kept ++ [h]) s
      else match serveHost s id op off d m src with
        | some t => pollHost r kept t
        | none => pollHost r (kept ++ [h]) s
    | .flush id => if flushWaits s kept id then pollHost r (kept ++ [h]) s else pollHost r kept (answer s (.word 8 0))

/-- A request of the host joins what waits and is carried out as soon as it may be. -/
def hostSubmit (s : State) (hs : List HostReq) : State := pollHost (s.host.held ++ hs) [] s

/-- Takes an id for a memory request. -/
def hostRequest (s : State) (op off : Nat) (d : BitVec 512) (m : BitVec 64) (src : Option Nat) : State :=
  hostSubmit { s with host := { s.host with nextId := s.host.nextId + 1 } } [.mem s.host.nextId op off d m src]

/-- The line request at the head of the inputs. -/
def onLine (k : State → Nat → BitVec 512 → BitVec 64 → State) (s : State) : Host.Outcome State Fault Refusal :=
  match s.inputs with
  | .line off d m :: r => .next (k { s with inputs := r } off d m)
  | _ => .next s

/-- MemRd (R444). -/
def execMemRd (s : State) := onLine (fun s off _ _ => hostRequest s 0 off 0 0 none) s
/-- MemRdData (R444). -/
def execMemRdData (s : State) := onLine (fun s off _ _ => hostRequest s 0 off 0 0 none) s
/-- MemWr: a whole line (R444). -/
def execMemWr (s : State) := onLine (fun s off d _ => hostRequest s 1 off d 0 none) s
/-- MemWrPtl: the bytes that its mask enables (R444). -/
def execMemWrPtl (s : State) := onLine (fun s off d m => hostRequest s 2 off d m none) s

/-! ## Host Fills that wait (R147) -/

/-- The write performed as a non-synchronised store: the value is replaced, the word stays full, a HOSTOVERWRITE record is written. -/
def hostOverwrite (s : State) (f : HostFill) : State :=
  let s := withdraw s fun q => q.who = .host f.id
  let old := homeWord s f.loc
  let s := hitLine (setPoison (writeBy (putBy f.na) s f.loc (wordBytes f.v)) f.loc false f.na) f.loc
  let s := { s with host := { s.host with fills := s.host.fills.filter fun g => g.id ≠ f.id } }
  completeWrite (record s 5 3 f.asid hostParty 0 f.va old f.v 0 0) f.off f.src

/-- The bound of 20 µs (R147): a full word is overwritten; a word that is empty but reserved is waited for, cycle by cycle. -/
def execHostFillBound (id : Nat) (s : State) : Host.Outcome State Fault Refusal :=
  match s.host.fills.find? fun f => f.id = id with
  | none => .next s
  | some f =>
    if isFull s f.loc then .next (hostOverwrite s f)
    else .next (post (if (s.waiters.any fun q => q.who == .host id) then s else
      match arrive s (hostFillReq s f) with | (_, t) => t) 1 (.hostFillBound id))

/-- A BUSY host Fill is tried again (R147). -/
def execHostPortBusyRetry (id : Nat) (s : State) : Host.Outcome State Fault Refusal :=
  match s.host.fills.find? fun f => f.id = id with
  | none => .next s
  | some f => .next (if s.waiters.any fun q => q.who == .host id then s else hostFillArrive s f)

/-! ## BAR0, BAR2, BAR4 (R443, R447) -/

/-- A word of BAR0 other than P2PFLUSH (R443, R445): DEV.FSTAT, a slot of the token port; every other offset reads zero. Word 1 of a slot is
write-only and reads zero (log entry 36). -/
def bar0Word (s : State) (off : Nat) : Word :=
  let x : TokenSlot := mget {} s.host.slots (off % 512 / 32)
  if off = 0 then fstatWord s.faults
  else if 0x1000 ≤ off ∧ off < 0x1200 then
    match off % 32 with | 0 => x.va | 16 => x.result | 24 => word (bitAt x.done 0) | _ => 0
  else 0

/-- P2PFLUSH: a read answered with zero once every earlier BAR4 write has been performed. The event stands for every read of BAR0, at the offset
that comes with it, and for a write outside the token port, which is dropped (R443; log entry 36). -/
def execP2pflush (s : State) : Host.Outcome State Fault Refusal :=
  match s.inputs with
  | .figures [off] :: r =>
    let s := { s with inputs := r }
    .next (if off = 8 then hostSubmit s [.flush s.host.nextId] else answer s (.word off (bar0Word s off)))
  | .bar4 _ _ _ :: r => .next { s with inputs := r }
  | _ => .next (hostSubmit s [.flush s.host.nextId])

/-- A read of the dump window: the bytes as they stand, whatever DUMPOK says. A write of BAR2 is dropped (R443). -/
def execDumpWindowRead (s : State) : Host.Outcome State Fault Refusal :=
  match s.inputs with
  | .bar4 _ _ _ :: r => .next { s with inputs := r }
  | _ => onLine (fun s off _ _ => answer s (.line off (lineOf (bytesBy (fun i => mget 0 s.faults.dump (i % 2 ^ 31)) off 64)) false)) s

/-- The lines that a BAR4 access touches: offset of the line, first byte and length within it, bytes passed over. -/
def bar4Lines (off n : Nat) : List (Nat × Nat × Nat) := (pieces 64 (n + 1) off n).map fun (o, k) => (o / 64 * 64, o % 64, k)

/-- The host offset of a BAR4 offset. -/
def bar4Offset (s : State) (off : Nat) : Nat := fld s.host.p2pcfg 2 0 * 2 ^ 40 + off % 2 ^ 36

/-- The parts of a BAR4 write: a whole line as MemWr, a part line as MemWrPtl with its mask. -/
def bar4Parts (s : State) (off : Nat) (bs : List Byte) : List (Nat × Nat × BitVec 512 × BitVec 64) :=
  ((bar4Lines off bs.length).foldl (fun (acc : List (Nat × Nat × BitVec 512 × BitVec 64) × List Byte) p =>
    let (o, b, k) := p
    (acc.1 ++ [(if k = 64 then 1 else 2, bar4Offset s o, BitVec.ofNat 512 (leNat (acc.2.take k) * 2 ^ (8 * b)),
      BitVec.ofNat 64 ((2 ^ k - 1) * 2 ^ b))], acc.2.drop k)) ([], bs)).1

/-- The BAR4 access at the head of the inputs. -/
def onBar4 (k : State → Nat → Nat → List Byte → State) (s : State) : Host.Outcome State Fault Refusal :=
  match s.inputs with
  | .bar4 who off bs :: r => .next (k { s with inputs := r } who off bs)
  | _ => .next s

/-- A BAR4 write (R447): each part is one host write, in increasing address order; refused while EN = 0. -/
def execBar4Write (s : State) : Host.Outcome State Fault Refusal :=
  onBar4 (fun s who off bs =>
    if !bit s.host.p2pcfg 63 then answer (hostReject s off ⟨6, 0, 0⟩) (.mediaEvent off)
    else (bar4Parts s off bs).foldl (fun s p => hostRequest s p.1 p.2.1 p.2.2.1 p.2.2.2 (some who)) s) s

/-- A BAR4 read (R447): served as host reads; poison while EN = 0. -/
def execBar4Read (s : State) : Host.Outcome State Fault Refusal :=
  onBar4 (fun s who off bs =>
    if !bit s.host.p2pcfg 63 then refuseRead (hostReject s off ⟨6, 0, 0⟩) off
    else (bar4Lines off bs.length).foldl (fun s p => hostRequest s 0 (bar4Offset s p.1) 0 0 (some who)) s) s

/-! ## The token port's events (R445) -/

/-- The operation of a token-port event: TRET, UNSHR, TQRY, or any other value. -/
def slotKind (w : Word) : Nat := if fld w 63 60 = 1 ∨ fld w 63 60 = 2 ∨ fld w 63 60 = 3 then fld w 63 60 else 0

/-- A write of a slot's words 0 and 1: word 0 is stored; word 1 starts the operation of its OP at that address, and is dropped while the slot is
busy, whose operation goes on at its own. -/
def slotWrite (kind : Nat) (s : State) : Host.Outcome State Fault Refusal :=
  match s.inputs with
  | .slot n va w :: r =>
    if slotKind w ≠ kind then .next s
    else
      let busy := !(mget {} s.host.slots n.val).done
      let s := { s with inputs := r }
      let x : TokenSlot := { (mget {} s.host.slots n.val : TokenSlot) with va := va &&& maskOf 55 0 }
      if busy then .next { s with host := { s.host with slots := mset s.host.slots n.val x } }
      else .next (slotOp { s with host := { s.host with slots := mset s.host.slots n.val { x with done := false } } } n.val w x.va)
  | _ => .next s

/-- TRET through the token port. -/
def execTokenPortTret (s : State) := slotWrite 1 s
/-- UNSHR through the token port. -/
def execTokenPortUnshr (s : State) := slotWrite 2 s
/-- TQRY through the token port. -/
def execTokenPortTqry (s : State) := slotWrite 3 s
/-- A reserved OP: BADOP. -/
def execTokenPortBadop (s : State) := slotWrite 0 s

/-! ## The host's loss (R446) -/

/-- The host is lost (R446). -/
def hostGone (s : State) : State :=
  hostLost s

/-- The link stays out of L0 for 100 ms. -/
def execHostLinkTimeout (s : State) : Host.Outcome State Fault Refusal := .next (hostGone s)
/-- A CXL or conventional reset. -/
def execCxlReset (s : State) : Host.Outcome State Fault Refusal := .next (hostGone s)

/-! ## SPDM 1.2 (R442, R471; response codes and layouts: log entry 36) -/

/-- A digest that the device computes over contents that the spec does not give: the n-th of the fixed ones (log entry 3). -/
def fixedDigest (n : Nat) : BitVec 256 := Config.secret (2 * n)

/-- Bytes of a digest as a number. -/
def digestOf (bs : List Byte) : BitVec 256 := BitVec.ofNat 256 (leNat bs)

/-- The SM3 digest of the vendor's firmware-signing key, in the boot ROM's fuses (R471). -/
def keyDigest : BitVec 256 := fixedDigest 12

/-- Which calibration tables the tiles' meshes have now, as one number. -/
def tablesNumber (s : State) : Nat := (positions 18 fun t => bit s.caps.tilemask t).foldl (fun n t => n * 2 ^ 64 + ((meshOf s t).calib + 1)) 0

/-- A measurement (R471): boot ROM, the firmware image in use, the microcode stores, the calibration tables as they are now, the SM3
digest of the current health certificate. -/
def measurement (s : State) (i : Nat) : BitVec 256 :=
  match i with
  | 1 => fixedDigest 1
  | 2 => fixedDigest (100 + s.board.image)
  | 3 => fixedDigest 3
  | 4 => fixedDigest (10 ^ 9 + tablesNumber s)
  | _ => digestOf (sm3 (s.board.cert.flatMap wordBytes))

/-- GET_VERSION: version 1.2. -/
def execGetVersion (s : State) : Host.Outcome State Fault Refusal := .next (answer s (.spdm 0x04 [0x1200]))
/-- GET_CAPABILITIES: certificates, challenge, measurements with signature. -/
def execGetCapabilities (s : State) : Host.Outcome State Fault Refusal := .next (answer s (.spdm 0x61 [0x16]))
/-- NEGOTIATE_ALGORITHMS: SM2 over P-256 and SM3 with 256 bits. -/
def execNegotiateAlgorithms (s : State) : Host.Outcome State Fault Refusal := .next (answer s (.spdm 0x63 [0x200, 0x40]))
/-- GET_DIGESTS: that of the certificate in slot 0. -/
def execGetDigests (s : State) : Host.Outcome State Fault Refusal := .next (answer s (.digest 0 (fixedDigest 10)))
/-- GET_CERTIFICATE: slot 0 holds the vendor certificate, whose bytes are the vendor's. -/
def execGetCertificate (s : State) : Host.Outcome State Fault Refusal :=
  .next (answer s (.spdm 0x02 [word (fixedDigest 11).toNat, word ((fixedDigest 11).toNat / 2 ^ 64)]))

/-- The figures at the head of the inputs. -/
def onFigures (k : State → List Nat → State) (s : State) : Host.Outcome State Fault Refusal :=
  match s.inputs with
  | .figures ns :: r => .next (k { s with inputs := r } ns)
  | _ => .next s

/-- CHALLENGE: signed by the device identity key; r and s of the signature. -/
def execChallenge (s : State) : Host.Outcome State Fault Refusal :=
  onFigures (fun s _ =>
    let n := s.freeCount
    answer (answer { s with freeCount := n + 2 } (.digest 0 (Config.secret (2 * n + 1)))) (.digest 1 (Config.secret (2 * n + 3)))) s

/-- GET_MEASUREMENTS: the digests of the indices asked for, and the signature over them; an index outside R471's table has none. -/
def execGetMeasurements (s : State) : Host.Outcome State Fault Refusal :=
  onFigures (fun s is =>
    let s' := (is.filter fun i => decide (1 ≤ i) && decide (i ≤ 5)).foldl (fun s i => answer s (.digest i (measurement s i))) s
    let sig := (Config.secret (2 * s.freeCount + 1)).toNat + (Config.secret (2 * s.freeCount + 3)).toNat * 2 ^ 256
    answer { s' with freeCount := s.freeCount + 2 } (.spdm 0x60 ((List.range 8).map fun i => word (sig / 2 ^ (64 * i))))) s

end Sys2Proof.Machine
end

