-- ==== Sys2Proof/Machine/Upkeep.lean ====
section
/-! DEFINITION. What keeps a mesh within its declaration (R248, R265 to R272, R434, R438): plumb probes, declarations, the trim loop,
sensors, recalibration, retirement. -/

namespace Sys2Proof.Machine

/-- The unit word of a mesh (R423). -/
def meshUnit (t : Nat) : Nat := 4 * 2 ^ 24 + t * 2 ^ 16

/-! ## Retirement (R270) -/

/-- The result that is on its way for a request becomes RETIRED (R251). -/
def retireResult (q : MeshReq) (e : Nat × Instr) : Nat × Instr :=
  match e.2 with
  | .resultArrival a ds v c =>
    if a = q.by_ then (e.1, .resultArrival a (ds.map fun d => if q.dst = some d.1 then (d.1, meshWord 0 0 5) else d) v c) else e
  | _ => e

/-- The mesh is retired: no further vector enters, a pass in flight completes those that have and returns RETIRED, as do the requests that it
probes or clears for (R251), a MESHRETIRE record is written, and every later request returns RETIRED. -/
def retireMesh (s : State) (t reason : Nat) : State :=
  let m := meshOf s t
  if m.retired then s
  else
    let runs := m.running.map fun r => { r with vectors := r.vectors.take (enteredBy s.cycle r - r.next), cut := true }
    let slow := (m.slow.filter fun x => decide (s.cycle < x.2)).map fun x => x.1
    let s := { s with sched := s.sched.map fun e => slow.foldl (fun e q => retireResult q e) e }
    let s := modMesh s t fun m => { m with retired := true, running := runs, symbolsEnd := min m.symbolsEnd s.cycle }
    let s := (runs.zip m.running).foldl (fun s x => if x.1.vectors.isEmpty && !x.2.vectors.isEmpty then post s 1 (.passComplete t) else s) s
    meshAgain (record s 8 1 0 0 (meshUnit t) 0 (word reason) (ebitsWord (meshOf s t)) 0 0) t

/-- A REPAIR record (R424, R437): the spare kind and the spares left. -/
def repairRecord (s : State) (unit kind left : Nat) : State := record s 9 0 0 0 unit 0 (word kind) (word left) 0 0

/-- A DECONFIG record (R424, R437): the spare kind that is used up, the tiles that stay enabled. -/
def deconfigRecord (s : State) (unit kind : Nat) : State := record s 10 3 0 0 unit 0 (word kind) s.caps.tilemask 0 0

/-- A failure of a mode or cell that patching cannot cover at once (R270, R438): the mesh is retired; while a spare mode is left, firmware
patches with it and recalibrates; with none left the mesh stays retired. From outside: tile, mode, and 1 where nothing has noticed the
failure yet: then the mesh goes on, and fails its declaration until it is calibrated again (R434). -/
def execModeOrCellFailure (s : State) : Host.Outcome State Fault Refusal :=
  onFigures (fun s ns =>
    let t := ns.headD 0
    if ns.getD 2 0 = 1 then modMesh s t fun m => { m with failing := true }
    else
    let s := retireMesh s t 3
    if (meshOf s t).spares = 0 then modMesh s t fun m => { m with uncovered := true }
    else
      let s := modMesh s t fun m => { m with spares := m.spares - 1, avoid := sadd m.avoid (ns.getD 1 0 % 68) }
      post (repairRecord s (meshUnit t) 3 (meshOf s t).spares) 1 (.recalibration t)) s

/-! ## Probes and declarations (R265 to R267, R434) -/

/-- Cycles between plumb probes: one slot in 1,024, or in 512 while a column is on probes alone (R267); while the checksum has missed lately, at
twice that rate (R434; log entry 29). -/
def probePeriod (m : Mesh) : Nat := 27 / ((if aloneCols m ≠ [] then 2 else 1) * if m.doubled ≠ 0 then 2 else 1)

/-- A plumb probe (R267): the next of the rotation, every eighth a differential pair; a mesh without a valid active bank has none. -/
def execProbeSlot (tile : Nat) (s : State) : Host.Outcome State Fault Refusal :=
  let m := meshOf s tile
  let half := decide (m.probes % 8 = 7)
  let s := if m.retired || m.recal || !(activeBank m).valid then s
    else modMesh (addProbes s tile [(m.probeK % 64, half)]).2 tile fun m => { m with probeK := (m.probeK + 1) % 64 }
  .next (post s (probePeriod m) (.probeSlot tile))

/-- floor(16 × log2(2,032 / e)) for e in sixteenths of a code, at least 0 (R266). -/
def sixteenthBits (e : Nat) : Nat := if 32512 < e then 0 else Nat.log2 (32512 ^ 16 / e ^ 16)

/-- Declare of R266: the declaration, and for how many windows in a row it could have risen. DESIGN CHOICE (log entry 71): a raise does not
begin the count of the 64 windows anew, so the declaration rises again at each further window that allows it. -/
def declare (e current up : Nat) (alone : Bool) : Nat × Nat :=
  let m := if e = 0 then 128 else sixteenthBits e - 4
  let m := min (if alone then m - 8 else m) 128
  if m < current then (m, 0)
  else if current < m then (if 64 ≤ up + 1 then (current + 1, 64) else (current, up + 1))
  else (current, 0)

/-- A probe window ends (R266): both declarations are computed again, and the floors are looked at (R270). -/
def execDeclarationUpdate (tile : Nat) (s : State) : Host.Outcome State Fault Refusal :=
  let m := meshOf s tile
  let alone := decide (aloneCols m ≠ [])
  let a := declare m.maxSingle m.single m.upSingle alone
  let b := declare m.maxDiff m.diff m.upDiff alone
  let s := modMesh s tile fun m =>
    { m with single := a.1, diff := b.1, upSingle := a.2, upDiff := b.2, probes := m.probes - 1024, maxSingle := 0, maxDiff := 0, doubled := m.doubled - 1 }
  .next (if a.1 < 104 then retireMesh s tile 1 else if b.1 < 120 then retireMesh s tile 2 else s)

/-! ## The trim loop and its sensors (R268, R269) -/

/-- Trim columns of a mesh. -/
def trimColumns : Nat := 68

/-- The state with a trim column changed. -/
def modTrim (s : State) (t c : Nat) (f : Trim → Trim) : State := modMesh s t fun m => { m with trims := mput {} m.trims c (f (mget {} m.trims c)) }

/-- The mean of a column's plausible sensors, in 1/64 °C; none where both are excluded (R268, R269). -/
def meanTemp (x : Trim) : Option Int :=
  match x.excl.getLsbD 0, x.excl.getLsbD 1 with
  | false, false => some ((x.ta.toInt + x.tb.toInt) / 2)
  | false, true => some x.ta.toInt
  | true, false => some x.tb.toInt
  | true, true => none

/-- A column after an update of the trim loop with a new estimate of its phase error: the heater's power follows the two inputs of R268, the
first one zero for a column on probes alone. -/
def trimmed (x : Trim) (phase : Int) : Trim :=
  { x with phase := phase, heater := Config.heater (((meanTemp x).map fun m => m - x.cal.toInt).getD 0) phase % 1001 }

/-- The trim loop (R267, R268): each column's phase error, which the probes imply in a way that the spec does not give, is a free value; its
heater is set, and the holding codes of the active bank in the column move by at most 1 LSB. -/
def execTrimLoop (tile : Nat) (s : State) : Host.Outcome State Fault Refusal :=
  let n := s.freeCount
  let phase (c : Nat) : Int := (Config.freeWord (n + c)).toInt
  let step (b : Bank) (c : Nat) : Bank :=
    let x := mget (0, 0) b.trims c
    { b with trims := mput (0, 0) b.trims c (x.1, x.2 + (Config.trimStep (phase c)).sign) }
  let s := (List.range trimColumns).foldl (fun s c => modTrim s tile c fun x => trimmed x (phase c)) { s with freeCount := n + trimColumns }
  let s := modMesh s tile fun m => putBank m (m.active % 2) ((List.range trimColumns).foldl step (bankAt m (m.active % 2)))
  .next (post s 25000 (.trimLoop tile))

/-- Rules 1, 2 and 4 of R269 for one sensor: out of range; faster than 5 °C/ms; still for 100 ms while the heater's power changed by 5 % of
full scale. Readings in 1/64 °C. -/
def implausible (was now : Int) (dt still dheat : Nat) (first : Bool) : Bool :=
  decide (now < -1280) || decide (8000 < now) || (!first && decide (320 * dt < (now - was).natAbs * 2500000))
    || (!first && decide (now = was) && decide (250000000 ≤ still) && decide (50 ≤ dheat))

/-- The distance of two powers. -/
def farFrom (a b : Nat) : Nat := if a < b then b - a else a - b

/-- A column after a sample (R269): the readings, and what rules 1, 2 and 4 exclude. -/
def sampled (x : Trim) (ta tb : BitVec 16) (cycle : Nat) : Trim :=
  let first := decide (x.sampledAt = 0)
  let dt := cycle - x.sampledAt
  let a := implausible x.ta.toInt ta.toInt dt (cycle - x.sinceA) (farFrom x.heatA x.heater) first
  let b := implausible x.tb.toInt tb.toInt dt (cycle - x.sinceB) (farFrom x.heatB x.heater) first
  { x with
    ta := ta
    tb := tb
    sampledAt := cycle
    sinceA := if first ∨ ta ≠ x.ta then cycle else x.sinceA
    sinceB := if first ∨ tb ≠ x.tb then cycle else x.sinceB
    heatA := if first ∨ ta ≠ x.ta then x.heater else x.heatA
    heatB := if first ∨ tb ≠ x.tb then x.heater else x.heatB
    excl := x.excl ||| (if a then 1 else 0) ||| (if b then 2 else 0) }

/-- A SENSOR record for what a column excludes newly (R424). -/
def sensorRecord (s : State) (t c : Nat) (before : BitVec 2) : State :=
  let e := (mget {} (meshOf s t).trims c : Trim).excl
  if e = before then s else record s 13 0 0 0 (meshUnit t) 0 (word (c + e.toNat * 2 ^ 8)) 0 0 0

/-- The two sensors of a column are sampled (R269). From outside: tile, column, readings A and B, and what the probe-derived phase error
says of a disagreement (0 undecided, 1 A lies further off, 2 B). -/
def execSensorSample (s : State) : Host.Outcome State Fault Refusal :=
  onFigures (fun s ns =>
    let t := ns.getD 0 0
    let c := min 67 (ns.getD 1 0)
    let x : Trim := mget {} (meshOf s t).trims c
    let y := sampled x (BitVec.ofNat 16 (ns.getD 2 0)) (BitVec.ofNat 16 (ns.getD 3 0)) s.cycle
    let apart := decide (y.excl = 0) && decide (192 < (y.ta.toInt - y.tb.toInt).natAbs)
    let w := ns.getD 4 0
    let y := { y with excl := if apart then (if w = 1 then 1 else if w = 2 then 2 else y.excl) else y.excl, undecided := apart && decide (w ≠ 1) && decide (w ≠ 2) }
    let s := sensorRecord (modTrim s t c fun _ => y) t c x.excl
    if y.undecided && !x.undecided then post s 2500000 (.sensorWitnessTimeout t c)
    else if x.undecided && !y.undecided then { s with sched := s.sched.filter fun e => e.2 ≠ .sensorWitnessTimeout t c }
    else s) s

/-- The witness has not decided within 1 ms: both sensors are excluded (R269). -/
def execSensorWitnessTimeout (tile col : Nat) (s : State) : Host.Outcome State Fault Refusal :=
  let x : Trim := mget {} (meshOf s tile).trims col
  .next (if x.undecided then sensorRecord (modTrim s tile col fun x => { x with excl := 3, undecided := false }) tile col x.excl else s)

/-! ## Recalibration (R248, R269, R270) -/

/-- Firmware changes calibration or patching: RECAL is set while both banks are converted again, for at most 2 ms. -/
def execRecalibration (tile : Nat) (s : State) : Host.Outcome State Fault Refusal :=
  .next (if (meshOf s tile).recal then s else post (modMesh s tile fun m => { m with recal := true, calib := m.calib + 1 }) 5000000 (.recalComplete tile))

/-- A column as a calibration leaves it: both sensors taken in, their mean the calibration temperature. -/
def recalTrim (x : Trim) : Trim := { x with excl := 0, undecided := false, cal := BitVec.ofInt 16 ((x.ta.toInt + x.tb.toInt) / 2) }

/-- A mesh as a calibration leaves it: sensors taken in again, declarations between their floors and 8 bits that the spec does not give,
in service unless a failure is not covered. -/
def calibrated (m : Mesh) (n : Nat) : Mesh :=
  { m with
    recal := false
    failing := false
    retired := m.uncovered
    trims := (m.trims.map fun (k, x) => (k, recalTrim x)).filter fun (_, x) => x ≠ {}
    single := 104 + (Config.freeWord n).toNat % 25
    diff := 120 + (Config.freeWord (n + 1)).toNat % 9
    upSingle := 0
    upDiff := 0
    probes := 0
    maxSingle := 0
    maxDiff := 0 }

/-- Both banks converted again from their logical copies (R248). -/
def reconverted (m : Mesh) : Mesh := { m with bank0 := converted m m.bank0, bank1 := converted m m.bank1 }

/-- A load or swap that RECAL has held goes on. -/
def heldByRecal (s : State) (t : Nat) : State :=
  let due (i : Instr) : Bool := s.sched.any fun e => e.2 == i
  if (meshOf s t).load.isSome && !due (.ploadDone t) then post s 64 (.ploadDone t)
  else if (meshOf s t).load.isNone && (meshOf s t).swap.isSome && !due (.pswapEffect t) then post s 0 (.pswapEffect t)
  else s

/-- The conversion ends: RECAL clears and waiting requests go on. -/
def execRecalComplete (tile : Nat) (s : State) : Host.Outcome State Fault Refusal :=
  let s := { s with sched := s.sched.filter fun e => match e.2 with | .sensorWitnessTimeout t _ => decide (t ≠ tile) | _ => true }
  let n := s.freeCount
  .next (meshAgain (heldByRecal (modMesh { s with freeCount := n + 2 } tile fun m => reconverted (calibrated m n)) tile) tile)

end Sys2Proof.Machine
end

