-- ==== Sys2Proof/Machine/Faults.lean ====
section
/-! DEFINITION. The fault log's own events, errors found by scrub and training, failed cores, device faults with their dump,
re-initialisation, reset, the management core's failover (R12, R106, R422 to R441). -/

namespace Sys2Proof.Machine

/-! ## The fault log (R422) -/

/-- PA of the ring is written: the records that wait go into it, oldest first. -/
def execFlogBaseWrite (s : State) : Host.Outcome State Fault Refusal := .next (drainRecords s)

/-- A BUSY notification Fill is tried again. -/
def execNotificationFillRetry (s : State) : Host.Outcome State Fault Refusal := .next (notifyLog s)

/-! ## Corrections and erasures (R424, R435, R436) -/

/-- One millisecond, and ten minutes. -/
def millisecond : Nat := 2500000
/-- Ten minutes. -/
def tenMinutes : Nat := 1500000000000

/-- A correction at a unit: a CORRECTED record at most once a millisecond, the others counted for the next. -/
def corrected (s : State) (unit pa structure_ : Nat) : State :=
  let (next, n) := mget (0, 0) s.faults.corrected unit
  if s.cycle < next then { s with faults := { s.faults with corrected := mset s.faults.corrected unit (next, n + 1) } }
  else record { s with faults := { s.faults with corrected := mset s.faults.corrected unit (s.cycle + millisecond, 0) } } 1 0 0 0 unit (word pa)
    (word structure_) (word (n + 1)) 0 0

/-- A stack's unit word. -/
def stackUnit (k : Nat) : Nat := 6 * 2 ^ 24 + k * 2 ^ 16

/-- The spare rows or banks of a stack (R438): one repair more; how many are left is a free value, since the spec does not count them. -/
def stackRepair (s : State) (k : Nat) : State :=
  let s := { s with faults := { s.faults with spares := mset s.faults.spares (10000 + k) (mget 0 s.faults.spares (10000 + k) + 1) } }
  let (left, s) := fresh s
  repairRecord s (stackUnit k) 10 (left.toNat % 2 ^ 16)

/-- A position corrected at 16 distinct addresses of its rank within ten minutes (R436): it is listed; where the list is full, the rows of its
first position are remapped and that position is removed to make room (log entry 74). -/
def badPosition (s : State) (rank pos pa : Nat) : State :=
  let k := (stackAddr s pa).1
  let all := mget [] s.faults.erasures rank
  let full := decide (4 ≤ all.length)
  let listed := if full then all.drop 1 else all
  let s := { s with faults := { s.faults with erasures := mset s.faults.erasures rank (sadd listed pos) } }
  record (if full then stackRepair s k else s) 11 0 0 0 (stackUnit k) (word pa) (word (rank * 2 ^ 8 + pos)) (word (listed.length + 1)) 0 0

/-- A listed position that lies in one bank: the bank is remapped at the next re-initialisation (R436). -/
def oneBank (rank pa : Nat) (s : State) (pos : Nat) : State :=
  if (mget [] s.faults.erasures rank).contains pos && !(s.faults.bankRepairs.any fun x => x.1 = (rank, pos)) then
    { s with faults := { s.faults with bankRepairs := s.faults.bankRepairs ++ [((rank, pos), (stackAddr s pa).1)] } }
  else s

/-- A position was corrected at an address; those of more than ten minutes ago no longer count. -/
def notePosition (rank pa : Nat) (s : State) (pos : Nat) : State :=
  let old := (mget [] s.faults.scrubbed rank).filter fun x => decide (s.cycle < x.2.2 + tenMinutes) && !(decide (x.1 = pos) && decide (x.2.1 = pa))
  let all := old ++ [(pos, pa, s.cycle)]
  if 16 ≤ (all.filter fun x => x.1 = pos).length then
    badPosition { s with faults := { s.faults with scrubbed := mset s.faults.scrubbed rank (all.filter fun x => x.1 ≠ pos) } } rank pos pa
  else { s with faults := { s.faults with scrubbed := mset s.faults.scrubbed rank all } }

/-- The half line at pa is uncorrectable (R425, R435): HBM's four words are marked, and the LLC's copy of each whose bytes it does not all hold
newer. -/
def poisonCodeword (s : State) (pa : Nat) : State :=
  (List.range 4).foldl (fun s i =>
    let l := pa + 8 * i
    let newer := (List.range 8).all fun j => (mfind s.llc (l + j)).isSome
    let s := putHbmBits s l ((hbmBits s l).1, true)
    match mfind s.llcBits l with
    | some b => if newer then s else { s with llcBits := mset s.llcBits l (b.1, true) }
    | none => if newer then { s with llcBits := mset s.llcBits l ((hbmBits s l).1, false) } else s) s

/-- A soft error that no code of the core detects changes a register of a pair's trailing strand (R432): core key, context, register, value. -/
def softError (s : State) (k ctx n v : Nat) : State :=
  let b : Agent := ⟨.compute, k, ctx⟩
  if (strandOf s b).run = .parked .trailing ∧ n < 128 then modStrand s b fun r => { r with regs := mset r.regs n (word v) } else s

/-- Patrol scrub reads a codeword (R435, R436); the event also brings on what other codes find (log entry 74): 1,000, a unit, a PA and the number
of a structure other than HBM for a correction there (R424); 2,000 and the figures of a soft error in a trailing strand. From outside: rank, PA, and the symbol positions found wrong, each with 256 added where its
corrections lie in one bank (log entry 74). It is corrected where twice the unlisted ones and the listed positions of the rank come to 7 at
most; else its four words are poisoned. -/
def execPatrolScrub (s : State) : Host.Outcome State Fault Refusal :=
  onFigures (fun s ns =>
    if ns.getD 0 0 = 1000 then (if [1, 2, 3, 4, 5, 7].contains (ns.getD 3 0) then corrected s (ns.getD 1 0) (ns.getD 2 0) (ns.getD 3 0) else s)
    else if ns.getD 0 0 = 2000 then softError s (ns.getD 1 0) (ns.getD 2 0) (ns.getD 3 0) (ns.getD 4 0)
    else
    let rank := ns.getD 0 0
    let pa := ns.getD 1 0 / 32 * 32
    let listed := mget [] s.faults.erasures rank
    let wrong := (ns.drop 2).map (· % 256)
    let other := wrong.filter fun p => !listed.contains p
    if wrong = [] then s
    else if 2 * other.length + listed.length ≤ 7 then
      let s := other.foldl (notePosition rank pa) (corrected s (stackUnit (stackAddr s pa).1) pa 6)
      (((ns.drop 2).filter (256 ≤ ·)).map (· % 256)).foldl (oneBank rank pa) s
    else poisonCodeword s pa) s

/-! ## Wires and cores (R106, R438) -/

/-- A wire of a group fails (R438): a spare takes its place at link retraining; with none left, a DECONFIG record (R437) and device fault 4, and
the tile that the group joins goes at the re-initialisation. From outside: the group, the physical tile. -/
def execDieToDieWireFailure (s : State) : Host.Outcome State Fault Refusal :=
  onFigures (fun s ns =>
    let g := ns.headD 0
    let left := mget 4 s.faults.spares (6000 + g)
    if left = 0 then
      let s := { s with faults := { s.faults with failed := mset s.faults.failed (60000 + ns.getD 1 0) 1 } }
      post (deconfigRecord s (8 * 2 ^ 24 + g * 2 ^ 16) 6) 0 (.deviceFault 4)
    else repairRecord { s with faults := { s.faults with spares := mset s.faults.spares (6000 + g) (left - 1) } } (8 * 2 ^ 24 + g * 2 ^ 16) 6 (left - 1)) s

/-- A core fails (R106, R438): the lines of its L1 are lost, every strand resident on it goes as by a contained kill, its regions
POISONED under the runtime; the core is out of use (`usableRegs`) and its tile is deconfigured at the next re-initialisation (R439). From outside: its key (`coreKey`). -/
def execCoreFailure (s : State) : Host.Outcome State Fault Refusal :=
  onFigures (fun s ns =>
    let k := ns.headD 0
    let s := { s with l1 := s.l1.filter fun l => l.core ≠ k, faults := { s.faults with failed := mset s.faults.failed k 2 } }
    let as := (s.strands.filter fun x => decide (coreKey (agentOfKey x.1) = k) && decide (x.2.run ≠ .free) && (decide (x.2.party ≠ 0) || pairLead s (agentOfKey x.1) != agentOfKey x.1)).map fun x => agentOfKey x.1
    as.foldl (fun s a => killWith .failed s a 1 0) s) s

/-! ## The state dump (R441) -/

/-- Every DEV and LINK register at 8 × its number. -/
def dumpRegisters (s : State) : Blob :=
  let dev := (List.range 0x180).flatMap fun i => if (sysRegOf (0x5000 + i)).isSome then (sparseBytes 0 (wordBytes (devRead s i))).map fun b => (8 * (0x5000 + i) + b.1, b.2) else []
  let link := (List.range 48).flatMap fun p => (List.range 3).flatMap fun i =>
    (sparseBytes 0 (wordBytes (sysRead s s.cur (.link p i)))).map fun b => (8 * (0x6000 + 64 * p + i) + b.1, b.2)
  ⟨8 * 0x7000, dev ++ link⟩

/-- The last 4,096 records of the fault log, oldest first: those of the ring, then those that wait for one (R422). -/
def dumpRecords (s : State) : List Blob :=
  let size := flogCapacity s
  let n := if s.faults.wrapped then size else min s.faults.head size
  let at_ (i : Nat) : Nat := fld s.faults.flogbase 51 12 * 4096 + (s.faults.head + 2 ^ 32 - n + i) % 2 ^ 32 % size * 64
  let ring := if fld s.faults.flogbase 51 12 = 0 then [] else (List.range n).map fun i => ⟨64, sparseBytes 0 (bytesBy (homeByte s) (at_ i) 64)⟩
  let all := ring ++ s.faults.queue.map blobOfWords
  all.drop (all.length - 4096)

/-- The TDU's state (type 8), in records of a form of the model's own (log entry 37): the partitions, the spawn queue, the bindings, the
groups with their members, the overflow list. -/
def dumpTdu (s : State) : List Blob :=
  let member (m : Member) : Word := word (m.party.toNat + (bitAt m.arrived 0 + bitAt m.required 1 + bitAt m.held 2) * 2 ^ 32)
  [mkRecord 1 (blobOfWords ((List.range 64).map (partWord s)))]
    ++ (s.tdu.spawns.zipIdx.map fun x => spawnRecord s (List.range 18) x.1 x.2)
    ++ (s.tdu.bindings.map fun b => mkRecord 3 (blobOfWords [word b.1, b.2.va, b.2.launch, word (b.2.asid + b.2.priv * 2 ^ 16 + bitAt b.2.once 24)]))
    ++ (s.tdu.groups.map fun g => mkRecord 4 (blobOfWords ([word g.1, word (g.2.phase.toNat + g.2.gone * 2 ^ 16)] ++ g.2.members.map member)))
    ++ s.overflow.map fun q => mkRecord 5 (blobOfWords (withdrawnWords q ++ [word q.loc, word q.asid]))

/-- A map from failed entries to spare ones, as a record of a form of the model's own (log entry 37). -/
def mapRecord (xs : List (Nat × Nat)) : Blob := mkRecord 1 (blobOfWords (xs.map fun x => word (x.1 + x.2 * 2 ^ 16)))

/-- A tile's record with its physical rows, then the spare rows, then the row map (R65, R441). -/
def dumpTile (s : State) (live : Shadow) (t : Nat) : List Blob :=
  let x := tileOf s t
  let main (e : Nat × BitVec 96) : Bool := decide (e.1 < 4096 * 64)
  [tileRecordOf s live t t (x.acc.filter main),
    mkRecord 2 ⟨128 * 768, (x.acc.filter fun e => !main e).flatMap fun e =>
      (sparseBytes 0 (leBytes 12 e.2.toNat)).map fun b => ((e.1 - 4096 * 64) * 12 + b.1, b.2)⟩,
    mapRecord x.rowMap]

/-- Erasure lists, spares left and failed units (type 11), in records of a form of the model's own (log entry 37). -/
def dumpRepair (s : State) : List Blob :=
  (s.faults.erasures.map fun x => mkRecord 1 (blobOfWords (word x.1 :: x.2.map word))) ++ (s.faults.spares.map fun x => mkRecord 2 (blobOfWords [word x.1, word x.2]))
    ++ s.faults.failed.map fun x => mkRecord 3 (blobOfWords [word x.1, word x.2])

/-- The state as the dump shows it: a word that could not be read appears as zero. -/
def dumpView (s : State) : State :=
  { s with
    mem := s.poison.foldl (fun m l => mclear m l (l + 8)) s.mem
    llc := s.llc.map fun x => if isPoison s (x.1 / 8 * 8) then (x.1, 0) else x }

/-- The sections of a dump by type, each with its records; physical units take the place of logical ones. -/
def dumpSections (s : State) : List (Nat × List Blob) :=
  let tiles := positions 18 fun t => bit s.caps.tilemask t
  let stackSet := positions 12 fun k => bit s.caps.memsplit k
  let live : Shadow := { cores := s.cores, sems := s.tiles.map fun t => (t.1, t.2.sems) }
  let strands := (s.strands.filter fun e => decide (e.1 < 30000) && decide (e.2.party ≠ 0)).map fun e =>
    let a := agentOfKey e.1
    let c := coreOf s (coreKey a)
    if a.kind = .stack then strandRecord e.2 (a.unit / 16) (a.unit % 16) a.ctx none []
    else strandRecord e.2 (a.unit / 8) (a.unit % 8) a.ctx (if c.lease = some a.ctx then some c.lv else none) []
  let lines := s.llc.foldl (fun (ls : List Nat) x => if ls.getLast? = some (x.1 / 64) then ls else ls ++ [x.1 / 64]) []
  [(1, dumpRecords s), (2, [dumpRegisters s]), (3, strands),
    (4, tiles.flatMap fun t => (List.range 8).flatMap fun k => [coreRecord (coreOf s (t * 8 + k)) t k, mapRecord (coreOf s (t * 8 + k)).regMap]),
    (5, tiles.flatMap (dumpTile s live)),
    (6, tiles.flatMap fun t => [quadRecord s (2 * t) (2 * t), quadRecord s (2 * t + 1) (2 * t + 1)]),
    (7, (s.entries.filter fun e => decide (e.1 < 65536)).map (fun e => blobOfWords (Entry.words e.2)) ++
      (s.shares.filter fun e => decide (e.1 < 131072)).map fun e => blobOfWords [Share.word0 e.2, 0]),
    (8, dumpTdu s), (9, lines.map fun l => joinBlobs [blobOfWords [word (64 * l)], ⟨64, sparseBytes 0 (bytesBy (homeByte s) (64 * l) 64)⟩,
      blobOfWords [word ((List.range 8).foldl (fun v i => v + bitAt (isFull s (64 * l + 8 * i)) i + bitAt (isPoison s (64 * l + 8 * i)) (8 + i)) 0)]]),
    (10, stackSet.flatMap fun k => (List.range 16).map fun c => stackRecord s (k * 16 + c) k),
    (11, dumpRepair s), (12, s.poison.map fun l => blobOfWords [word l])]

/-- The dump: header, digest, signature, directory, sections (R441). -/
def dumpOf (s : State) : Blob :=
  let secs := (dumpSections (dumpView s)).filter fun x => x.2 ≠ []
  let body := joinBlobs (secs.map fun x => joinBlobs x.2)
  let dir := (secs.foldl (fun (acc : Nat × List Word) x =>
    (acc.1 + (joinBlobs x.2).len, acc.2 ++ [word (x.1 + x.2.length % 2 ^ 32 * 2 ^ 16), word acc.1])) (4096, [])).2
  let head := blobOfWords [0x504D5544, word (1 + 4096 * 2 ^ 16), word (s.faults.epoch.toNat + s.faults.cause % 256 * 2 ^ 16), word s.faults.faultAt, s.caps.tilemask,
    word (4096 + body.len), 0, 0]
  let sig : BitVec 512 := BitVec.ofNat 512 ((Config.secret (2 * s.freeCount + 1)).toNat + (Config.secret (2 * s.freeCount + 3)).toNat * 2 ^ 256)
  joinBlobs [head, ⟨32, sparseBytes 0 (sm3 (denseBytes body.len 0 body.bytes))⟩, ⟨64, sparseBytes 0 (leBytes 64 sig.toNat)⟩, blobZeros 96,
    blobOfWords ((List.range 128).map fun i => dir.getD i 0), blobZeros 2816, body]

/-- Firmware has written the dump (R430): it stands in the region, complete and signed. -/
def execDumpComplete (s : State) : Host.Outcome State Fault Refusal :=
  .next (if s.faults.fstate = 1 ∧ s.faults.mgmtRunning then
      { s with faults := { s.faults with dump := (dumpOf s).bytes, dumpok := true }, freeCount := s.freeCount + 2 } else s)

/-! ## Device faults (R429, R430) -/

/-- Events that a device fault does not discard: what comes from outside, the board's, the management core's, the fault itself. -/
def outlivesFault : Instr → Bool
  | .deviceFault _ | .reset | .dumpComplete | .watchdogExpiry | .mgmtTakeover | .flogBaseWrite | .refillEpoch | .healthCertificate | .pldmFileTransfer
  | .p2pflush | .getVersion | .getCapabilities | .negotiateAlgorithms | .getDigests | .getCertificate | .hostLinkTimeout | .cxlReset
  | .notificationFillRetry | .linkEnable | .linkDisable | .retrain | .lock | .train | .up | .failed
  | .sensorSample | .patrolScrub | .reinitialisation | .ageingSample | .powerCapSet | .pldmFirmwareUpdate | .laserModuleFailure | .tjTrip
  | .modeOrCellFailure | .coreFailure | .dieToDieWireFailure | .laserModuleInsertion | .channelPatch | .linkLevelReplay
  | .memRd | .memRdData | .memWr | .memWrPtl | .dumpWindowRead | .tokenPortTret | .tokenPortUnshr | .tokenPortTqry | .tokenPortBadop
  | .bar4Write | .bar4Read | .challenge | .getMeasurements
  | .write | .ack | .nak | .tokreq | .tokrsp | .migrPacket | .migrrsp | .linkmsg | .reservedTypePacket => true
  | .mwaitTimeout a _ | .waitTimeout a _ | .strandTimerExpiry a => decide (a.kind = .mgmt)
  | .resultArrival a _ _ _ => decide (a.kind = .mgmt)
  | _ => false

/-- The management interrupt (R488), the alert pin (R412): every management strand in HALT goes on. -/
def managementInterrupt (s : State) : State :=
  (s.strands.filter fun x => decide (40000 ≤ x.1) && decide (x.2.run = .halted none)).foldl (fun s x => makeReady s (agentOfKey x.1)) s

/-- The alert pin is asserted; it restarts a management strand in HALT (R412). -/
def alertPin (s : State) : State := managementInterrupt { s with board := { s.board with alert := true } }

/-- Every request of the host that waits is answered (R430): a read or a write with a poisoned completion, a P2PFLUSH, behind which no write is left,
with zero. -/
def refuseHeld (s : State) : State :=
  let s := s.host.held.foldl (fun s h => match h with
    | .mem _ op off _ _ src => if op = 0 then refuseRead s off else refuseWrite s off src
    | .flush _ => answer s (.word 8 0)) s
  s.host.fills.foldl (fun s f => refuseWrite s f.off f.src) s

/-- A device fault (R429, R430): everything stops issuing and work in flight is discarded, the alert pin is asserted, a DEVFAULT record is
written, firmware writes the dump within 150 ms and re-initialises within 400 ms; a fault before the dump is complete abandons it and
re-initialisation starts at once (log entry 75); one behind a complete dump has a dump of its own. The requests of the host that wait are answered
with poisoned completions. The requests that wait for an entry of their home are kept for the dump alone. A code that the table does not give does
nothing. -/
def execDeviceFault (cause : Nat) (s : State) : Host.Outcome State Fault Refusal :=
  if cause = 0 ∨ 6 < cause then .next s
  else
    let second := decide (s.faults.fstate = 1) && !s.faults.dumpok
    let s := refuseHeld s
    let s := alertPin { s with
      sched := s.sched.filter fun e => outlivesFault e.2 && e.2 != .dumpComplete && e.2 != .reinitialisation
      tokenQueue := []
      waiters := s.waiters.filter fun q => q.who == .note
      reserved := []
      fabric := { s.fabric with writing := [] }
      faults := { s.faults with fstate := 1, cause := cause, faultAt := s.cycle, epoch := s.faults.epoch + 1, faults := s.faults.faults + 1,
                                dumpok := false, dump := [] }
      host := { s.host with held := [], fills := [] } }
    let s := record s 3 2 0 0 0 0 (word cause) (word s.faults.epoch.toNat) 0 0
    let s := if second || !s.faults.mgmtRunning then s else post s 375000000 .dumpComplete
    .next (post s (if second then 0 else 1000000000) .reinitialisation)

/-! ## Re-initialisation (R108, R431, R438, R439) -/

/-- Tiles that failures have taken out: a failed core or engine, a mesh that patching does not cover, a quad at the end of its guard
band, a wire group without spares. -/
def failedTile (s : State) (t : Nat) : Bool :=
  (s.faults.failed.any fun x => decide (x.1 < 1000) && decide (x.1 / 8 = t)) || (meshOf s t).uncovered || (quadOf s (2 * t)).eol || (quadOf s (2 * t + 1)).eol
    || (mfind s.faults.failed (60000 + t)).isSome || (List.range 5).any fun i => (mfind s.faults.failed (30000 + t * 5 + i)).isSome

/-- A mask of the positions. -/
def maskOfList (ps : List Nat) : Nat := ps.foldl (fun m i => m + 2 ^ i) 0

/-- The entries or rows of a unit that work, spare ones behind the n others. -/
def working (n spares : Nat) (bad : List Nat) : List Nat := (List.range (n + spares)).filter fun i => !bad.contains i

/-- Usable entries of a core: spares take the place of failed ones (R53, R438). -/
def usable (n spares : Nat) (bad : List Nat) : Nat := min n (working n spares bad).length

/-- The map that firmware makes: each failed entry below the usable count goes to a working one behind it, both in increasing order (R53, R65;
log entry 37). -/
def spareMap (n spares : Nat) (bad : List Nat) : List (Nat × Nat) :=
  let m := usable n spares bad
  (positions m bad.contains).zip ((working n spares bad).filter (m ≤ ·))

/-- The tiles that firmware finds whole, the rows of their accumulator stores too (R438). -/
def wholeTiles (s : State) (p : Plant) : List Nat :=
  positions 18 fun t => p.tiles.testBit t && !failedTile s t && decide (usable 4096 128 (mget [] p.badRows t) = 4096)

/-- The enabled tiles: sixteen of them. -/
def tilesOfPlant (s : State) (p : Plant) : List Nat := (wholeTiles s p).take 16

/-- Spares that are left of a unit with n entries or rows and so many spares: what works beyond n. -/
def sparesOf (n spares : Nat) (bad : List Nat) : Nat := (working n spares bad).length - n

/-- The spares left that a re-initialisation finds (R438): of tiles (4,000) and slices (5,000), and where some have gone, of each core (20,000 on)
and of each tile's rows (40,000 on). -/
def sparesFound (s : State) (p : Plant) : List (Nat × Nat) :=
  let kept := mset (mset (s.faults.spares.filter fun x => decide (x.1 < 20000)) 4000 ((wholeTiles s p).length - 16))
    5000 ((positions 200 fun i => p.slices.testBit i).length - 192)
  let cores := p.badRegs.map (fun x => (20000 + x.1, sparesOf 2048 128 x.2)) ++ p.badSRegs.map fun x => (21000 + x.1, sparesOf 1024 64 x.2)
  (cores ++ p.badRows.map fun x => (40000 + x.1, sparesOf 4096 128 x.2)).foldl (fun m x => mset m x.1 x.2) kept

/-- Spare entries of a core left. -/
def entrySpares (s : State) (k : Nat) : Nat := mget (if k < 1000 then 128 else 64) s.faults.spares (20000 + k)

/-- Spare rows of a tile left. -/
def rowSpares (s : State) (t : Nat) : Nat := mget 128 s.faults.spares (40000 + t)

/-- The physical slices in use, in the order of their logical numbers: die 0 first (R67), 192 at most. -/
def slicesOfPlant (p : Plant) : List Nat := (positions 200 fun i => p.slices.testBit i).take 192

/-- The capacity registers that firmware sets (R3, R25, R53, R68). -/
def capsOfPlant (s : State) (p : Plant) : Caps :=
  let tiles := tilesOfPlant s p
  let stackSet := positions 12 fun k => p.stackSet.testBit k
  let regs := tiles.flatMap fun t => (List.range 8).map fun k => usable 2048 128 (mget [] p.badRegs (t * 8 + k))
  let on (k : Nat) : Bool := (mfind s.faults.failed (1000 + k)).isNone
  let scores := stackSet.flatMap fun k => ((List.range 16).map (k * 16 + ·)).filter on
  let sregs := scores.map fun k => usable 1024 64 (mget [] p.badSRegs k)
  let least (l : List Nat) : Nat := l.foldl min (l.headD 0)
  let present (base n m : Nat) : Nat := maskOfList (positions n fun e => m.testBit e && (mfind s.faults.failed (30000 + base + e)).isNone)
  let slices := slicesOfPlant p
  { sliceMap := slices.zipIdx.map fun x => (x.2, x.1)
    tilemask := word (maskOfList tiles)
    llc := word ((slices.filter (· < 100)).length * 2 ^ 24 + 12 * 2 ^ 16 + 192 * 2 ^ 8 + slices.length)
    core := word (tiles.length * 2 ^ 40 + 8 * tiles.length * 2 ^ 32 + least regs * 2 ^ 16 + least sregs)
    stack := word (scores.length * 2 ^ 32 + stackSet.length * 2 ^ 16 + p.stackSet % 4096)
    engine := word (present 90 8 p.coll * 2 ^ 56 + present 98 48 p.links)
    memsplit := word (min 768 p.localUnits * 2 ^ 16 + p.stackSet % 4096) }

/-- Whether a device is legal (R439). -/
def legalDevice (c : Caps) : Bool :=
  decide (8 ≤ popNat 18 (fld c.tilemask 17 0)) && decide (96 ≤ fld c.llc 7 0) && decide (6 ≤ popNat 12 (fld c.stack 11 0))

/-- A core with n entries and so many spares, of which some have failed: its register map and CORE.REGCAP (R53). -/
def coreOfPlant (n spares : Nat) (bad : List Nat) : Core := { regMap := spareMap n spares bad, regcap := word (usable n spares bad) }

/-- Every core in use. -/
def coresOfPlant (s : State) (p : Plant) : List (Nat × Core) :=
  let comp := (tilesOfPlant s p).flatMap fun t => (List.range 8).map fun k => (t * 8 + k, coreOfPlant 2048 128 (mget [] p.badRegs (t * 8 + k)))
  let st := (positions 12 fun k => p.stackSet.testBit k).flatMap fun k => (((List.range 16).map (k * 16 + ·)).filter fun c => (mfind s.faults.failed (1000 + c)).isNone).map fun c =>
    (1000 + c, coreOfPlant 1024 64 (mget [] p.badSRegs c))
  comp ++ st

/-- Where a location lies once a set of stacks is enabled (R26, R47): a granule of the spread aperture stays in its stack, so its PA changes with
N; none where its stack is no longer enabled. Every other location stays. -/
def movedTo (s : State) (stackSet l : Nat) : Option Nat :=
  let was := fld s.caps.memsplit 11 0
  if 2 ^ 40 ≤ l ∨ was = 0 ∨ was = stackSet then some l
  else
    let x := stackAddr s l
    if stackSet.testBit x.1 then some ((x.2 / 4096 * popNat 12 stackSet + popNat x.1 stackSet) * 4096 + x.2 % 4096) else none

/-- What a memory holds below the side memories, at the places where a set of stacks puts it. -/
def movedMemory (s : State) (stackSet : Nat) : Memory :=
  s.mem.foldr (fun x m => match movedTo s stackSet x.1 with
    | some l => if x.1 < 2 ^ 52 ∧ l < 2 ^ 52 then mput memDefault m l x.2 else m
    | none => m) []

/-- The words of a set, moved likewise. -/
def movedSet (s : State) (stackSet : Nat) (ws : List Nat) : List Nat :=
  (ws.filter (· < 2 ^ 52)).foldl (fun m x => match movedTo s stackSet x with | some l => sadd m l | none => m) []

/-- What survives a re-initialisation in the fault side: the log, FSTAT, the dump, repair state; the banks that it remaps leave their positions
out of the lists (R436). -/
def faultsKept (f : FaultSide) : FaultSide :=
  { f with
    pairctl := 0
    tvecdef := 0
    corrected := []
    erasures := f.erasures.map fun x => (x.1, x.2.filter fun p => !f.bankRepairs.any fun b => b.1 = (x.1, p))
    bankRepairs := [] }

/-- What a quad keeps over a reset: its guard band and end of life (R469). -/
def quadKept (q : Quad) : Quad := { gband := q.gband, eol := q.eol, mv := 800 + q.gband * 5 / 2 }

/-- What a mesh keeps over a reset: its spares, the modes that its patching leaves out, the calibration tables in use. -/
def meshKept (m : Mesh) : Mesh := { spares := m.spares, uncovered := m.uncovered, avoid := m.avoid, calib := m.calib }

/-- A port as re-initialisation brings it up (R431): enabled, its bring-up about to begin (log entry 53). -/
def portTrained (s : State) (k : Nat) : Port :=
  { cfg := word (2 ^ 63 + 0x0FF), neighbour := (mget {} s.fabric.ports k : Port).neighbour, step := 1, due := s.cycle }

/-- The module as the boot ROM leaves it (R471, R473): an image delivered runs where its signature verifies under the key in fuses and its security
version is not below the anti-rollback counter; else the one before. Eight of the laser modules in their bays are lit. -/
def booted (m : Module) : Module :=
  let lit := (m.lit.filter m.bays.contains ++ m.bays.filter fun b => !m.lit.contains b).take 8
  let m := { m with lit := lit.foldl sadd [] }
  match m.imageNext with
  | some (n, key, v) => if key = keyDigest ∧ m.fuses ≤ v then { m with image := n, version := v, imageNext := none } else { m with imageNext := none }
  | none => m

/-- The device as re-initialisation leaves it (R431): registers at reset but for FSTAT and the log, holder tables free, translation
structures and the LLC empty, HBM with the words it held, register, row and slice maps rebuilt, meshes calibrated, capacity as firmware finds
it. -/
def reinitialised (s : State) (p : Plant) : State :=
  let caps := capsOfPlant s p
  let tiles := tilesOfPlant s p
  let n := s.freeCount
  { State.reset with
    cycle := s.cycle
    cur := s.cur
    sched := s.sched.filter fun e => outlivesFault e.2 && e.2 != .healthCertificate && e.2 != .dumpComplete && e.2 != .refillEpoch && e.2 != .reinitialisation
    inputs := s.inputs
    freeCount := n + 64
    caps := caps
    mem := movedMemory s (fld caps.memsplit 11 0)
    feb := movedSet s (fld caps.memsplit 11 0) s.feb
    poison := movedSet s (fld caps.memsplit 11 0) s.poison
    strands := s.strands.filter fun x => decide (40000 ≤ x.1)
    cores := coresOfPlant s p
    quads := (s.quads.map fun (k, q) => (k, quadKept q)).filter fun x => x.2 ≠ {}
    tiles := (positions 18 fun t => tiles.contains t || decide (meshKept (meshOf s t) ≠ {})).map fun t =>
      let m := meshKept (meshOf s t)
      (t, ({ rowMap := spareMap 4096 128 (mget [] p.badRows t), mesh := calibrated { m with calib := m.calib + 1 } (n + 2 * t) } : Tile))
    fabric := { chipid := BitVec.ofNat 12 p.chip, ports := (List.range 48).map fun k => (k, portTrained s k), sent := s.fabric.sent, sentMsgs := s.fabric.sentMsgs }
    host := { answers := s.host.answers, nextId := s.host.nextId }
    faults := { faultsKept s.faults with
      fstate := if legalDevice caps then 0 else 3
      spares := sparesFound s p }
    board := booted { s.board with alert := false } }

/-- The events of its own that the device has while it runs: refill epochs, the probes and trim loops of its meshes, the bring-up of its ports. -/
def startClocks (s : State) : State :=
  let tiles := positions 18 fun t => bit s.caps.tilemask t
  let s := post (post s 0 .healthCertificate) (2500 - s.cycle % 2500) .refillEpoch
  let s := (List.range 48).foldl (fun s _ => post s 0 .linkEnable) s
  tiles.foldl (fun s t => post (post s 27 (.probeSlot t)) 25000 (.trimLoop t)) s

/-- REPAIR records for register maps that have grown, those of compute cores first, and for row maps (R437, R438). -/
def mapRecords (s0 s : State) : State :=
  let cores := s.cores.filter fun x => decide ((coreOf s0 x.1).regMap.length < x.2.regMap.length)
  let tiles := s.tiles.filter fun x => decide ((tileOf s0 x.1).rowMap.length < x.2.rowMap.length)
  let s := cores.foldl (fun s x =>
    if x.1 < 1000 then repairRecord s (unitWord ⟨.compute, x.1, 0⟩) 1 (entrySpares s x.1)
    else repairRecord s (unitWord ⟨.stack, x.1 - 1000, 0⟩) 1 (entrySpares s x.1)) s
  tiles.foldl (fun s x => repairRecord s (meshUnit x.1) 2 (rowSpares s x.1)) s

/-- Records of the units that ran out of spares (R437, R438): a core whose REGCAP falls, a tile with rows or a mesh beyond repair, a stack that is
taken out. -/
def exhaustRecords (p : Plant) (s0 s : State) : State :=
  let tiles := positions 18 fun t => bit s0.caps.tilemask t
  let unit (k : Nat) : Nat := if k < 1000 then unitWord ⟨.compute, k, 0⟩ else unitWord ⟨.stack, k - 1000, 0⟩
  let fell := s.cores.filter fun x => match mfind s0.cores x.1 with | some c => decide (x.2.regcap.toNat < c.regcap.toNat) | none => false
  let s := fell.foldl (fun s x => deconfigRecord s (unit x.1) 1) s
  let s := (tiles.filter fun t => decide (usable 4096 128 (mget [] p.badRows t) < 4096)).foldl (fun s t => deconfigRecord s (meshUnit t) 2) s
  let s := (tiles.filter fun t => (meshOf s0 t).uncovered).foldl (fun s t => deconfigRecord s (meshUnit t) 3) s
  (positions 12 fun k => bit s0.caps.memsplit k && !bit s.caps.memsplit k).foldl (fun s k => deconfigRecord s (stackUnit k) 10) s

/-- Records of units of a kind that went and of those that came in their places: a REPAIR record for each spare brought in, the last with how many
are left, and a DECONFIG record for each unit that has no spare in its place (R437). `unit`: the unit word. -/
def exchangeRecords (kind left : Nat) (unit : Nat → Nat) (gone came : List Nat) (s : State) : State :=
  let s := came.zipIdx.foldl (fun s x => repairRecord s (unit x.1) kind (left + (came.length - 1 - x.2))) s
  (gone.drop came.length).foldl (fun s x => deconfigRecord s (unit x) kind) s

/-- Records of what a re-initialisation repairs and gives up (R436, R437): spare entries and rows, remapped banks, units without spares, and each
slice and tile that goes or comes. -/
def repairRecords (p : Plant) (s0 s : State) : State :=
  let s := if fld s0.caps.tilemask 17 0 = 0 then s else exhaustRecords p s0 (mapRecords s0 s)
  let s := s0.faults.bankRepairs.foldl (fun s b => stackRepair s b.2) s
  let slices (x : State) : List Nat := x.caps.sliceMap.map fun y => y.2
  let tiles (x : State) : List Nat := positions 18 fun t => bit x.caps.tilemask t
  let exchange (kind left cls : Nat) (was now : List Nat) (s : State) : State :=
    if was = [] then s
    else exchangeRecords kind left (fun u => cls * 2 ^ 24 + u * 2 ^ 16) (was.filter fun u => !now.contains u) (now.filter fun u => !was.contains u) s
  exchange 4 (mget 0 s.faults.spares 4000) 0 (tiles s0) (tiles s) (exchange 5 (mget 0 s.faults.spares 5000) 5 (slices s0) (slices s) s)

/-- Re-initialisation (R431). From outside: what firmware finds. -/
def execReinitialisation (s : State) : Host.Outcome State Fault Refusal :=
  match s.inputs with
  | .plant p :: r => .next (repairRecords p s (startClocks (reinitialised { s with inputs := r } p)))
  | _ => .next s

/-- The reset of R12: power-on or the reset pin. Guard bands, repair state, counts since manufacture, certificates and firmware images
outlast it (R469, R471, R472); every register has its reset value. -/
def resetDevice (s : State) : State :=
  { State.reset with
    inputs := s.inputs
    freeCount := s.freeCount
    quads := (s.quads.map fun (k, q) => (k, quadKept q)).filter fun x => x.2 ≠ {}
    tiles := (s.tiles.map fun (t, x) => (t, ({ mesh := meshKept x.mesh } : Tile))).filter fun x => x.2 ≠ {}
    fabric := { ports := s.fabric.ports.map fun (k, x) => (k, { neighbour := x.neighbour }), sent := s.fabric.sent, sentMsgs := s.fabric.sentMsgs }
    host := { answers := s.host.answers }
    faults := { erasures := s.faults.erasures, bankRepairs := s.faults.bankRepairs, spares := s.faults.spares, failed := s.faults.failed, mgmtCores := s.faults.mgmtCores,
                faults := s.faults.faults, kills := s.faults.kills }
    board := { s.board with alert := false, cap := 1600, hours := s.board.hours + s.cycle / 9000000000000 } }

/-- RESET (R12): the host, if it holds anything, is lost with it (R446): no token survives. -/
def execReset (s : State) : Host.Outcome State Fault Refusal := .next (resetDevice s)

/-! ## The management core (R440) -/

/-- The watchdog expires: the core is retired with what ran on it; the spare takes over within 500 ms; with no spare, a DECONFIG record, which waits
in the queue (R437), and device fault 6. -/
def execWatchdogExpiry (s : State) : Host.Outcome State Fault Refusal :=
  let s := { s with
    strands := s.strands.filter fun x => decide (x.1 < 40000)
    sched := s.sched.filter fun e => match e.2 with
      | .mwaitTimeout a _ | .waitTimeout a _ | .strandTimerExpiry a | .resultArrival a _ _ _ | .asyncTrapEntry a => decide (a.kind ≠ .mgmt)
      | .dumpComplete => false
      | _ => true
    faults := { s.faults with mgmtRunning := false, mgmtCores := s.faults.mgmtCores - 1, failoverLost := 0 } }
  .next (if s.faults.mgmtCores = 0 then post (deconfigRecord s (9 * 2 ^ 24) 9) 0 (.deviceFault 6) else post s 1250000000 .mgmtTakeover)

/-- The spare takes over: queued records are written, then an MGMTFAILOVER record with how many were lost, and the spare's REPAIR record. -/
def execMgmtTakeover (s : State) : Host.Outcome State Fault Refusal :=
  if s.faults.mgmtRunning ∨ s.faults.mgmtCores = 0 then .next s
  else
    let lost := s.faults.failoverLost
    let s := drainRecords { s with faults := { s.faults with mgmtRunning := true, failoverLost := 0 } }
    let s := record s 12 1 0 0 (9 * 2 ^ 24) 0 0 (word lost) 0 0
    .next (repairRecord s (9 * 2 ^ 24) 9 (s.faults.mgmtCores - 1))

end Sys2Proof.Machine
end

