-- ==== Sys2Proof/Machine/Power.lean ====
section
/-! DEFINITION. Power quanta, operating points, deep gating, ageing, temperature, the health certificate and the module
(R462 to R473, R487, R488). -/

namespace Sys2Proof.Machine

/-! ## Quanta (R463) -/

/-- Whether a core comes before another for the pool: fewer quanta, then the lower number. -/
def poorer (a b : Nat × Nat) : Bool := decide (a.1 < b.1) || (decide (a.1 = b.1) && decide (a.2 < b.2))

/-- A core placed among cores ordered by quanta. -/
def insertPoor (a : Nat × Nat) : List (Nat × Nat) → List (Nat × Nat)
  | [] => [a]
  | b :: r => if poorer a b then a :: b :: r else b :: insertPoor a r

/-- The pool handed out to cores in order, each filled up to 4,096; the new levels, and what is left. -/
def handOut : Nat → List (Nat × Nat) → List (Nat × Nat) × Nat
  | pool, [] => ([], pool)
  | pool, (l, c) :: r =>
    let k := min pool (4096 - l)
    let x := handOut (pool - k) r
    ((l + k, c) :: x.1, x.2)

/-- A pool handed out to the cores of a quad, the one with the fewest quanta first. -/
def sharePool (s : State) (q pool : Nat) : State × Nat :=
  let order := [0, 1, 2, 3].foldl (fun l i => insertPoor ((coreOf s (4 * q + i)).level, 4 * q + i) l) []
  let x := handOut pool order
  (x.1.foldl (fun s e => modCore s e.2 fun c => { c with level := e.1 }) s, x.2)

/-- Every core of a quad gains its GRANT; what exceeds 4,096 is the quad's pool. SLEEPEP counts the epochs in which the core slept. -/
def addGrants (s : State) (q : Nat) : State × Nat :=
  [0, 1, 2, 3].foldl (fun (x : State × Nat) i =>
    let c := coreOf x.1 (4 * q + i)
    let n := c.level + c.grant
    (modCore x.1 (4 * q + i) fun c => { c with level := min 4096 n, sleepep := if c.slept then min 65535 (c.sleepep + 1) else c.sleepep, slept := false },
      x.2 + (n - 4096))) (s, 0)

/-- Steps 1 and 2 of an epoch in one quad; the remainder is kept for the other quad of the tile. -/
def epochQuad (x : State × List (Nat × Nat)) (q : Nat) : State × List (Nat × Nat) :=
  let g := addGrants x.1 q
  let h := sharePool g.1 q g.2
  (h.1, x.2 ++ [(q, h.2)])

/-- A refill epoch (R463) on the quads of every enabled tile; the next one follows after 1 µs. -/
def execRefillEpoch (s : State) : Host.Outcome State Fault Refusal :=
  let qs := (positions 18 fun t => bit s.caps.tilemask t).flatMap fun t => [2 * t, 2 * t + 1]
  let x := qs.foldl epochQuad (s, [])
  let s := x.2.foldl (fun s r => (sharePool s (if r.1 % 2 = 0 then r.1 + 1 else r.1 - 1) r.2).1) x.1
  .next (post s 2500 .refillEpoch)

/-! ## Operating points (R464, R469) -/

/-- The clock switches (R464) to the highest point requested; after a fall the voltage follows in the next cycle. Cores of a partition that is being
halted stay at point 5 (R466). -/
def execOpPointSwitch (quad : Nat) (s : State) : Host.Outcome State Fault Refusal :=
  let halting := s.strands.any fun x => decide ((agentOfKey x.1).kind = .compute) && decide ((agentOfKey x.1).unit / 4 = quad)
    && (match x.2.run with | .halted _ => true | _ => false)
  let p := requestedPoint s quad
  .next (if halting then post s 2500 (.opPointSwitch quad)
    else if p < (quadOf s quad).pt then post (switchClock s quad p) 1 (.opPointSwitch quad)
    else setPoint s quad p)

/-! ## Deep gating (R467, R468) -/

/-- The strands resident on a quad. -/
def quadStrands (s : State) (q : Nat) : List (Agent × Strand) :=
  (s.strands.map fun x => (agentOfKey x.1, x.2)).filter fun x => decide (x.1.kind = .compute) && decide (x.1.unit / 4 = q) && decide (x.2.run ≠ .free)

/-- A wait with a timeout: its event is scheduled. -/
def timedWait (s : State) (a : Agent) : Bool :=
  s.sched.any fun e => match e.2 with | .mwaitTimeout b _ | .waitTimeout b _ => b == a | _ => false

/-- Copy engines of a quad. -/
def quadCopies (q : Nat) : List Nat := [q / 2 * 5 + q % 2 * 2, q / 2 * 5 + q % 2 * 2 + 1]

/-- Whether the partition of a quad's tile is BUSY. -/
def quadBusy (s : State) (q : Nat) : Bool := (List.range 64).any fun p => decide (partSt s p = 3) && (partTiles s p).contains (q / 2)

/-- The conditions of deep gating (R467). -/
def gateable (s : State) (q : Nat) : Bool :=
  ((quadStrands s q).all fun x => decide (x.2.run ≠ .ready) && !bit x.2.str.timer 63 && !timedWait s x.1
      && (match x.2.run with | .parked (.kickFull _) => false | _ => true))
    && ([0, 1, 2, 3].all fun i => vectorIdle (coreOf s (4 * q + i)) && decide ((coreOf s (4 * q + i)).meshQueue = []))
    && ((quadCopies q).all fun e => (engineOf s e).op.isNone && decide ((engineOf s e).queue = []))
    && !quadBusy s q

/-- Where a core's state is spilled to, in firmware memory outside both apertures (R25, R467; its place and its layout are log entry 58). -/
def spillBase (core : Nat) : Nat := 2 ^ 49 + 2 ^ 40 + core * 2 ^ 20

/-- What of a core the spill writes, as words that are not zero, by their offset: CORE.QWEIGHT, the ready queues, the long-vector bank, and of each
resident strand its registers and their full bits. -/
def spillWords (s : State) (core : Nat) : List (Nat × Word) :=
  let c := coreOf s core
  let strand (x : Agent × Strand) : List (Nat × Word) :=
    let at_ := 0x8000 + x.1.ctx * 2048
    x.2.regs.map (fun r => (at_ + 8 * r.1, r.2)) ++ x.2.empties.map fun n => (at_ + 1024 + 8 * n, 1)
  [(0, c.qweight)] ++ (c.rq.zipIdx.flatMap fun e => [(0x1000 + 16 * e.2, word (e.1.1 + 2 ^ 63)), (0x1008 + 16 * e.2, e.1.2)])
    ++ (c.lv.flatMap fun v => (List.range 64).map fun i => (0x2000 + 512 * v.1 + 8 * i, word (v.2.toNat / 2 ^ (64 * i) % 2 ^ 64)))
    ++ ((quadStrands s (core / 4)).filter fun x => x.1.unit = core).flatMap strand

/-- The spill of a core: its area holds exactly those words. -/
def spillCore (s : State) (core : Nat) : State :=
  let lo := spillBase core
  (spillWords s core).foldl (fun s e => storeAt true s (lo + e.1) (wordBytes e.2))
    { s with mem := mclear s.mem lo (lo + 2 ^ 20), llc := mclear s.llc lo (lo + 2 ^ 20) }

/-- An idle quad spills and gates (R467): first its dirty lines are written back, and its registers, banks, ready queues and weights are written to
firmware memory; 2 µs later its L1 caches and TLBs have lost their entries and it is gated. The spilled registers, in which results arrive
and from which a wake or a halt takes them (R468), are held in the strands' own fields (log entry 58). -/
def execDeepGateEntry (quad : Nat) (s : State) : Host.Outcome State Fault Refusal :=
  if (quadOf s quad).gate = 0 ∧ gateable s quad then
    let s := [0, 1, 2, 3].foldl (fun s i => spillCore s (4 * quad + i)) (sweepLines s fun l => l.core / 4 = quad)
    .next (post (modQuad s quad fun x => { x with gate := 1 }) 5000 (.deepGateEntry quad))
  else if (quadOf s quad).gate = 1 then
    let kept (t : Tlb) : Bool := decide (t.unit < 1000) || decide ((t.unit - 1000) / 4 ≠ quad)
    .next (modQuad { s with icache := s.icache.filter (fun l => l.core / 4 ≠ quad), tlbs := s.tlbs.filter kept } quad fun x => { x with gate := 2 })
  else .next s

/-- A wake event (R468): the spilled state is restored within 4 µs; one that comes during the spill follows it at once. -/
def execWakeEvent (quad : Nat) (s : State) : Host.Outcome State Fault Refusal :=
  match (quadOf s quad).gate with
  | 1 => .next (match s.sched.find? fun e => e.2 == .deepGateEntry quad with | some e => post s (e.1 - s.cycle) (.wakeEvent quad) | none => s)
  | 2 => .next (post (modQuad s quad fun x => { x with gate := 3 }) 10000 (.wakeComplete quad))
  | _ => .next s

/-- The quad's strands issue again (R468). -/
def execWakeComplete (quad : Nat) (s : State) : Host.Outcome State Fault Refusal :=
  .next (modQuad s quad fun x => if x.gate = 3 then { x with gate := 0, idleSince := s.cycle } else x)

/-- Whether something on a deep-gated quad wakes it (R468): a strand READY, a trap pending, a copy engine with work. Monitor hits, results and puts
to a ready queue are wake events where they happen (`rouse`); the halt takes a strand as it is, and a trap pending on it wakes nothing. -/
def wakes (s : State) (q : Nat) : Bool :=
  ((quadStrands s q).any fun x => decide (x.2.run = .ready) || (decide (x.2.pending ≠ {}) && !x.2.run.isHalted))
    || ((quadCopies q).any fun e => (engineOf s e).op.isSome || decide ((engineOf s e).queue ≠ []))

/-! ## Ageing and temperature (R469, R470, R473, R487, R488) -/

/-- Firmware samples a quad's monitors (R469): below 30 ps the guard band rises a step; with none left the quad is at its end of life,
held at point 4, its cores recorded as failed (R470). From outside: quad, least margin in ps, drift. -/
def execAgeingSample (s : State) : Host.Outcome State Fault Refusal :=
  onFigures (fun s ns =>
    let q := ns.getD 0 0
    let m := ns.getD 1 0
    let s := modQuad s q fun x => { x with margin := min 255 m, drift := ns.getD 2 0 % 65536 }
    if 30 ≤ m then s
    else if (quadOf s q).gband < 32 then modQuad s q fun x => { x with gband := x.gband + 1, mv := pointVoltage x.pt (x.gband + 1) }
    else
      let s := modQuad s q fun x => { x with eol := true }
      requestPoint { s with faults := { s.faults with failed := [0, 1, 2, 3].foldl (fun f i => mset f (4 * q + i) 1) s.faults.failed } } q) s

/-- A quad's sensors (R473, R487): TEMP, HIT where it has reached TRIP, the interrupt at HIT's rise; at 105 °C the alert pin, and firmware steps
the quad's LEVEL (by 1 at each sample: log entry 65); device fault 5 at 115 °C. From outside: quad, temperature in 1/64 °C. -/
def execTjTrip (s : State) : Host.Outcome State Fault Refusal :=
  onFigures (fun s ns =>
    let q := ns.getD 0 0
    let t := BitVec.ofNat 16 (ns.getD 1 0)
    let was := quadOf s q
    let hit := decide (was.trip.toInt ≤ t.toInt)
    let s := modQuad s q fun x => { x with temp := t, hit := x.hit || hit }
    let s := if hit && !was.hit then managementInterrupt s else s
    let s := if 6720 ≤ t.toInt then modQuad (alertPin s) q fun x => { x with levelNew := min 6 (x.levelNew + 1) } else s
    if 7360 ≤ t.toInt then post s 0 (.deviceFault 5) else s) s

/-! ## The module (R471 to R473) -/

/-- The least figure of a list, or the one that an empty list has. -/
def leastOf (d : Nat) (l : List Nat) : Nat := match l with | [] => d | x :: r => r.foldl min x

/-- Spares of a kind left, the least over its units (R438, R472); a figure that the spec does not count is a free value. -/
def sparesLeft (s : State) (k : Nat) : Nat :=
  let tiles := positions 18 fun t => bit s.caps.tilemask t
  match k with
  | 1 => leastOf 128 (s.cores.map fun x => entrySpares s x.1)
  | 2 => leastOf 128 (tiles.map (rowSpares s))
  | 5 => mget 0 s.faults.spares 5000
  | 3 => leastOf 4 (tiles.map fun t => (meshOf s t).spares)
  | 4 => mget 2 s.faults.spares 4000
  | 6 => leastOf 4 ((s.faults.spares.filter fun x => decide (6000 ≤ x.1) && decide (x.1 < 7000)).map (·.2))
  | 7 => leastOf 2 (s.fabric.ports.map fun x => 10 - min 10 (8 + popNat 10 (fld x.2.cfg 21 12)))
  | 8 => s.board.bays.length - 8
  | 9 => s.faults.mgmtCores - 1
  | _ => (Config.freeWord (s.freeCount + k)).toNat % 256

/-- The bytes of the certificate that a stack's row gives: erasures over its ranks are counted for the device's ranks that the scrub has
named with that stack's number (log entry 37). -/
def stackWords (s : State) (k : Nat) : Nat :=
  ((s.faults.erasures.filter fun x => decide (x.1 % 12 = k)).map fun x => x.2.length).foldl (· + ·) 0 % 65536 + mget 0 s.faults.spares (10000 + k) % 65536 * 65536

/-- The health certificate (R472). DESIGN CHOICE (log entry 76): a tile that works and is not in use shows [2], deconfigured, as does every physical
tile outside TILEMASK. -/
def certificate (s : State) : List Word :=
  let half (a b : Nat) : Word := word (a % 2 ^ 32 + b % 2 ^ 32 * 2 ^ 32)
  let digest (d : Nat) : List Word := (List.range 4).map fun i => word (d / 2 ^ (64 * i))
  let prev := if s.board.certSeq = 0 then 0 else (digestOf (sm3 (s.board.cert.flatMap wordBytes))).toNat
  let serial := (fixedDigest 20).toNat
  let tile (t : Nat) : Nat := max (quadOf s (2 * t)).gband (quadOf s (2 * t + 1)).gband % 256 + (meshOf s t).single % 256 * 2 ^ 8 + (meshOf s t).diff % 256 * 2 ^ 16
    + (bitAt (meshOf s t).retired 0 + bitAt ((quadOf s (2 * t)).eol || (quadOf s (2 * t + 1)).eol) 1 + bitAt (!bit s.caps.tilemask t) 2) * 2 ^ 24
  let sig := (Config.secret (2 * s.freeCount + 1)).toNat + (Config.secret (2 * s.freeCount + 3)).toNat * 2 ^ 256
  [0x48544C48, word (1 + 512 * 2 ^ 16 + s.board.certSeq % 2 ^ 32 * 2 ^ 32)] ++ digest prev ++ [word serial, word (serial / 2 ^ 64)]
    ++ [word (s.board.hours + s.cycle / 9000000000000), Config.freeWord (s.freeCount + 20), s.caps.tilemask,
        word (fld s.caps.llc 7 0 + fld s.caps.stack 11 0 * 2 ^ 8 + s.faults.mgmtCores % 16 * 2 ^ 24)]
    ++ [word (leNat ((List.range 8).map fun i => BitVec.ofNat 8 (sparesLeft s (i + 1)))), word (sparesLeft s 9 % 256 + sparesLeft s 10 % 256 * 256), 0, 0]
    ++ ((List.range 9).map fun i => half (tile (2 * i)) (tile (2 * i + 1))) ++ List.replicate 7 0
    ++ ((List.range 6).map fun i => half (stackWords s (2 * i)) (stackWords s (2 * i + 1))) ++ List.replicate 2 0
    ++ [word s.faults.faults, word s.faults.kills] ++ digest (fixedDigest (100 + s.board.image)).toNat ++ List.replicate 10 0
    ++ (List.range 8).map fun i => word (sig / 2 ^ (64 * i))

/-- Firmware issues a health certificate (R472); the next one follows after 24 h. -/
def execHealthCertificate (s : State) : Host.Outcome State Fault Refusal :=
  .next (post { s with board := { s.board with cert := certificate s, certSeq := s.board.certSeq + 1 }, freeCount := s.freeCount + 32 } 216000000000000 .healthCertificate)

/-- The board sets the power cap (R473), 600 to 1,600 W; firmware's GRANTs follow. From outside: watts. -/
def execPowerCapSet (s : State) : Host.Outcome State Fault Refusal :=
  onFigures (fun s ns => { s with board := { s.board with cap := max 600 (min 1600 (ns.headD 0)) } }) s

/-- A firmware image is delivered (R471, R473): it takes effect at the next re-initialisation, where the boot ROM accepts it (`booted`). From outside:
the image's number, the digest of the key under which its signature verifies, its security version. -/
def execPldmFirmwareUpdate (s : State) : Host.Outcome State Fault Refusal :=
  onFigures (fun s ns => { s with board := { s.board with imageNext := some (ns.headD 0, BitVec.ofNat 256 (ns.getD 1 0), ns.getD 2 0) } }) s

/-- A PLDM sensor (R473): 0 a quad's temperature in 1/64 °C, 1 its voltage in mV; any other, power and coolant, a figure of the plant's, which is
free. -/
def sensorWord (s : State) (kind unit : Nat) : Word × State :=
  match kind with
  | 0 => ((quadOf s unit).temp.signExtend 64, s)
  | 1 => (word (quadOf s unit).mv, s)
  | _ => fresh s

/-- The board reads file 1, the current health certificate, or, where a kind and a unit come with the event, a sensor (R473; log entry 65). -/
def execPldmFileTransfer (s : State) : Host.Outcome State Fault Refusal :=
  match s.inputs with
  | .figures [kind, unit] :: r =>
    let x := sensorWord { s with inputs := r } kind unit
    .next (answer x.2 (.word (kind * 2 ^ 8 + unit) x.1))
  | _ => .next (answer s (.file s.board.cert))

/-- A lit laser module fails (R438, R473): the spare is lit and every mesh recalibrates; fewer than eight lit is device fault 5. From
outside: its bay. -/
def execLaserModuleFailure (s : State) : Host.Outcome State Fault Refusal :=
  onFigures (fun s ns =>
    let b := ns.headD 0
    let bays := s.board.bays.filter (· ≠ b)
    let lit := s.board.lit.filter (· ≠ b)
    if !s.board.lit.contains b then { s with board := { s.board with bays := bays } }
    else match bays.find? fun x => !lit.contains x with
      | none => post (deconfigRecord { s with board := { s.board with bays := bays, lit := lit } } 0 8) 0 (.deviceFault 5)
      | some n =>
        let s := repairRecord { s with board := { s.board with bays := bays, lit := sadd lit n } } 0 8 (bays.length - 8)
        (positions 18 fun t => bit s.caps.tilemask t).foldl (fun s t => post s 1 (.recalibration t)) s) s

/-- A module is inserted while the device runs (R473); it is lit where fewer than the eight needed are. From outside: its bay. -/
def execLaserModuleInsertion (s : State) : Host.Outcome State Fault Refusal :=
  onFigures (fun s ns =>
    let b := ns.headD 0
    if b < 9 then
      { s with board := { s.board with bays := sadd s.board.bays b, lit := if s.board.lit.length < 8 then sadd s.board.lit b else s.board.lit } }
    else s) s

end Sys2Proof.Machine
end

