-- ==== Sys2Proof/Machine/Dispatch.lean ====
section
/-! DEFINITION. The dispatch: one arm for each constructor of the instructions and events. -/

namespace Sys2Proof.Machine

/-- The meaning of an instruction or event. -/
def exec (i : Instr) (s : State) : Host.Outcome State Fault Refusal :=
  match i with
  | .add d a b => Sys2Proof.Machine.execAdd d a b s
  | .sub d a b => Sys2Proof.Machine.execSub d a b s
  | .mul d a b => Sys2Proof.Machine.execMul d a b s
  | .mulh d a b => Sys2Proof.Machine.execMulh d a b s
  | .mulhu d a b => Sys2Proof.Machine.execMulhu d a b s
  | .div d a b => Sys2Proof.Machine.execDiv d a b s
  | .divu d a b => Sys2Proof.Machine.execDivu d a b s
  | .rem d a b => Sys2Proof.Machine.execRem d a b s
  | .remu d a b => Sys2Proof.Machine.execRemu d a b s
  | .and d a b => Sys2Proof.Machine.execAnd d a b s
  | .or d a b => Sys2Proof.Machine.execOr d a b s
  | .xor d a b => Sys2Proof.Machine.execXor d a b s
  | .andn d a b => Sys2Proof.Machine.execAndn d a b s
  | .shl d a b => Sys2Proof.Machine.execShl d a b s
  | .shr d a b => Sys2Proof.Machine.execShr d a b s
  | .sar d a b => Sys2Proof.Machine.execSar d a b s
  | .ror d a b => Sys2Proof.Machine.execRor d a b s
  | .min d a b => Sys2Proof.Machine.execMin d a b s
  | .max d a b => Sys2Proof.Machine.execMax d a b s
  | .minu d a b => Sys2Proof.Machine.execMinu d a b s
  | .maxu d a b => Sys2Proof.Machine.execMaxu d a b s
  | .seq d a b => Sys2Proof.Machine.execSeq d a b s
  | .slt d a b => Sys2Proof.Machine.execSlt d a b s
  | .sltu d a b => Sys2Proof.Machine.execSltu d a b s
  | .sel d a b => Sys2Proof.Machine.execSel d a b s
  | .clz d a => Sys2Proof.Machine.execClz d a s
  | .ctz d a => Sys2Proof.Machine.execCtz d a s
  | .popc d a => Sys2Proof.Machine.execPopc d a s
  | .bfx d a b => Sys2Proof.Machine.execBfx d a b s
  | .bfi d a b => Sys2Proof.Machine.execBfi d a b s
  | .brev d a => Sys2Proof.Machine.execBrev d a s
  | .adds d a b => Sys2Proof.Machine.execAdds d a b s
  | .subs d a b => Sys2Proof.Machine.execSubs d a b s
  | .addsu d a b => Sys2Proof.Machine.execAddsu d a b s
  | .subsu d a b => Sys2Proof.Machine.execSubsu d a b s
  | .li d x_i => Sys2Proof.Machine.execLi d x_i s
  | .liz d x_i => Sys2Proof.Machine.execLiz d x_i s
  | .lsi d x_i => Sys2Proof.Machine.execLsi d x_i s
  | .addi d x_i => Sys2Proof.Machine.execAddi d x_i s
  | .andi d x_i => Sys2Proof.Machine.execAndi d x_i s
  | .ori d x_i => Sys2Proof.Machine.execOri d x_i s
  | .xori d x_i => Sys2Proof.Machine.execXori d x_i s
  | .shli d x_i => Sys2Proof.Machine.execShli d x_i s
  | .shri d x_i => Sys2Proof.Machine.execShri d x_i s
  | .sari d x_i => Sys2Proof.Machine.execSari d x_i s
  | .slti d x_i => Sys2Proof.Machine.execSlti d x_i s
  | .nop => Sys2Proof.Machine.execNop s
  | .paddI8 d a b => Sys2Proof.Machine.execPaddI8 d a b s
  | .paddI16 d a b => Sys2Proof.Machine.execPaddI16 d a b s
  | .paddI32 d a b => Sys2Proof.Machine.execPaddI32 d a b s
  | .psubI8 d a b => Sys2Proof.Machine.execPsubI8 d a b s
  | .psubI16 d a b => Sys2Proof.Machine.execPsubI16 d a b s
  | .psubI32 d a b => Sys2Proof.Machine.execPsubI32 d a b s
  | .paddsI8 d a b => Sys2Proof.Machine.execPaddsI8 d a b s
  | .paddsI16 d a b => Sys2Proof.Machine.execPaddsI16 d a b s
  | .paddsI32 d a b => Sys2Proof.Machine.execPaddsI32 d a b s
  | .psubsI8 d a b => Sys2Proof.Machine.execPsubsI8 d a b s
  | .psubsI16 d a b => Sys2Proof.Machine.execPsubsI16 d a b s
  | .psubsI32 d a b => Sys2Proof.Machine.execPsubsI32 d a b s
  | .fadd r t d a b => Sys2Proof.Machine.execFadd r t d a b s
  | .fsub r t d a b => Sys2Proof.Machine.execFsub r t d a b s
  | .fmul r t d a b => Sys2Proof.Machine.execFmul r t d a b s
  | .fdiv r t d a b => Sys2Proof.Machine.execFdiv r t d a b s
  | .fma r t d a b => Sys2Proof.Machine.execFma r t d a b s
  | .fsqrt r t d a => Sys2Proof.Machine.execFsqrt r t d a s
  | .fcvt r d a x_s t => Sys2Proof.Machine.execFcvt r d a x_s t s
  | .fmin t d a b => Sys2Proof.Machine.execFmin t d a b s
  | .fmax t d a b => Sys2Proof.Machine.execFmax t d a b s
  | .fcmp t d a b => Sys2Proof.Machine.execFcmp t d a b s
  | .ffun t d a r fn => Sys2Proof.Machine.execFfun t d a r fn s
  | .ld8 sx d a o => Sys2Proof.Machine.execLd8 sx d a o s
  | .ld16 sx d a o => Sys2Proof.Machine.execLd16 sx d a o s
  | .ld32 sx d a o => Sys2Proof.Machine.execLd32 sx d a o s
  | .ld64 d a o => Sys2Proof.Machine.execLd64 d a o s
  | .st8 d a o => Sys2Proof.Machine.execSt8 d a o s
  | .st16 d a o => Sys2Proof.Machine.execSt16 d a o s
  | .st32 d a o => Sys2Proof.Machine.execSt32 d a o s
  | .st64 d a o => Sys2Proof.Machine.execSt64 d a o s
  | .lds d a o => Sys2Proof.Machine.execLds d a o s
  | .stf d a o => Sys2Proof.Machine.execStf d a o s
  | .ldp d a o => Sys2Proof.Machine.execLdp d a o s
  | .ste a o => Sys2Proof.Machine.execSte a o s
  | .aadd d a o => Sys2Proof.Machine.execAadd d a o s
  | .aand d a o => Sys2Proof.Machine.execAand d a o s
  | .aor d a o => Sys2Proof.Machine.execAor d a o s
  | .amin d a o => Sys2Proof.Machine.execAmin d a o s
  | .amax d a o => Sys2Proof.Machine.execAmax d a o s
  | .axch d a o => Sys2Proof.Machine.execAxch d a o s
  | .acas d a o => Sys2Proof.Machine.execAcas d a o s
  | .fenceQ d => Sys2Proof.Machine.execFenceQ d s
  | .fenceT d => Sys2Proof.Machine.execFenceT d s
  | .fenceD d => Sys2Proof.Machine.execFenceD d s
  | .fenceS d => Sys2Proof.Machine.execFenceS d s
  | .marm d a slot => Sys2Proof.Machine.execMarm d a slot s
  | .marmDis d slot => Sys2Proof.Machine.execMarmDis d slot s
  | .mwait d a => Sys2Proof.Machine.execMwait d a s
  | .semw d a b => Sys2Proof.Machine.execSemw d a b s
  | .semsig d a b => Sys2Proof.Machine.execSemsig d a b s
  | .semrd d a => Sys2Proof.Machine.execSemrd d a s
  | .semset d a b => Sys2Proof.Machine.execSemset d a b s
  | .tret d a => Sys2Proof.Machine.execTret d a s
  | .unshr d a b => Sys2Proof.Machine.execUnshr d a b s
  | .tqry d a => Sys2Proof.Machine.execTqry d a s
  | .bez a o => Sys2Proof.Machine.execBez a o s
  | .bnz a o => Sys2Proof.Machine.execBnz a o s
  | .bltz a o => Sys2Proof.Machine.execBltz a o s
  | .bgez a o => Sys2Proof.Machine.execBgez a o s
  | .bgtz a o => Sys2Proof.Machine.execBgtz a o s
  | .blez a o => Sys2Proof.Machine.execBlez a o s
  | .call d o => Sys2Proof.Machine.execCall d o s
  | .jr d a => Sys2Proof.Machine.execJr d a s
  | .rep nm1 km1 st => Sys2Proof.Machine.execRep nm1 km1 st s
  | .spawn d a b => Sys2Proof.Machine.execSpawn d a b s
  | .exit a => Sys2Proof.Machine.execExit a s
  | .yield => Sys2Proof.Machine.execYield s
  | .tbind d a b => Sys2Proof.Machine.execTbind d a b s
  | .tunb d a => Sys2Proof.Machine.execTunb d a s
  | .rqput d a b => Sys2Proof.Machine.execRqput d a b s
  | .rqtake d => Sys2Proof.Machine.execRqtake d s
  | .rqtakeW d => Sys2Proof.Machine.execRqtakeW d s
  | .migr d a b => Sys2Proof.Machine.execMigr d a b s
  | .join d a => Sys2Proof.Machine.execJoin d a s
  | .leave d a => Sys2Proof.Machine.execLeave d a s
  | .gbar d a => Sys2Proof.Machine.execGbar d a s
  | .trap a => Sys2Proof.Machine.execTrap a s
  | .rft => Sys2Proof.Machine.execRft s
  | .srr d n => Sys2Proof.Machine.execSrr d n s
  | .srw d n => Sys2Proof.Machine.execSrw d n s
  | .halt => Sys2Proof.Machine.execHalt s
  | .wait a => Sys2Proof.Machine.execWait a s
  | .venter => Sys2Proof.Machine.execVenter s
  | .vexit => Sys2Proof.Machine.execVexit s
  | .vld d a o => Sys2Proof.Machine.execVld d a o s
  | .vst d a o => Sys2Proof.Machine.execVst d a o s
  | .vadd t d a b => Sys2Proof.Machine.execVadd t d a b s
  | .vsub t d a b => Sys2Proof.Machine.execVsub t d a b s
  | .vmul t d a b => Sys2Proof.Machine.execVmul t d a b s
  | .vfma t d a b => Sys2Proof.Machine.execVfma t d a b s
  | .vmin t d a b => Sys2Proof.Machine.execVmin t d a b s
  | .vmax t d a b => Sys2Proof.Machine.execVmax t d a b s
  | .vcmp t d a b => Sys2Proof.Machine.execVcmp t d a b s
  | .vsel t d a b => Sys2Proof.Machine.execVsel t d a b s
  | .vand t d a b => Sys2Proof.Machine.execVand t d a b s
  | .vor t d a b => Sys2Proof.Machine.execVor t d a b s
  | .vxor t d a b => Sys2Proof.Machine.execVxor t d a b s
  | .vshf t d a b => Sys2Proof.Machine.execVshf t d a b s
  | .vred t d a lg op => Sys2Proof.Machine.execVred t d a lg op s
  | .vscan t d a ex lg op => Sys2Proof.Machine.execVscan t d a ex lg op s
  | .vperm t d a b => Sys2Proof.Machine.execVperm t d a b s
  | .vsf t d a r fn => Sys2Proof.Machine.execVsf t d a r fn s
  | .vcvt t d a x_s r part => Sys2Proof.Machine.execVcvt t d a x_s r part s
  | .vqnt d a x_s r f => Sys2Proof.Machine.execVqnt d a x_s r f s
  | .vdq t d a r f => Sys2Proof.Machine.execVdq t d a r f s
  | .vdot t d a x_s sat => Sys2Proof.Machine.execVdot t d a x_s sat s
  | .vmma t d c a b => Sys2Proof.Machine.execVmma t d c a b s
  | .vmovg d a b => Sys2Proof.Machine.execVmovg d a b s
  | .vmovv d a b => Sys2Proof.Machine.execVmovv d a b s
  | .mfmt d a c => Sys2Proof.Machine.execMfmt d a c s
  | .pload d a c => Sys2Proof.Machine.execPload d a c s
  | .pswap d c => Sys2Proof.Machine.execPswap d c s
  | .mpass d a b c => Sys2Proof.Machine.execMpass d a b c s
  | .mtran d a b c => Sys2Proof.Machine.execMtran d a b c s
  | .mprobe d c => Sys2Proof.Machine.execMprobe d c s
  | .aclr d a b c => Sys2Proof.Machine.execAclr d a b c s
  | .ard t d a x c => Sys2Proof.Machine.execArd t d a x c s
  | .awr d a b x c => Sys2Proof.Machine.execAwr d a b x c s
  | .mstat d a c => Sys2Proof.Machine.execMstat d a c s
  | .cpy d a b c => Sys2Proof.Machine.execCpy d a b c s
  | .cpy2d d a b c => Sys2Proof.Machine.execCpy2d d a b c s
  | .cpyg d a b c => Sys2Proof.Machine.execCpyg d a b c s
  | .stdec d a c => Sys2Proof.Machine.execStdec d a c s
  | .lend d a b c => Sys2Proof.Machine.execLend d a b c s
  | .lendGive d a b c => Sys2Proof.Machine.execLendGive d a b c s
  | .share d a b c => Sys2Proof.Machine.execShare d a b c s
  | .split d a b c => Sys2Proof.Machine.execSplit d a b c s
  | .merge d a b c => Sys2Proof.Machine.execMerge d a b c s
  | .kick d a b c => Sys2Proof.Machine.execKick d a b c s
  | .svld d a o => Sys2Proof.Machine.execSvld d a o s
  | .svst d a o => Sys2Proof.Machine.execSvst d a o s
  | .sgath t d a x_i => Sys2Proof.Machine.execSgath t d a x_i s
  | .sscat t d a x_i => Sys2Proof.Machine.execSscat t d a x_i s
  | .sscan t d a ex op v => Sys2Proof.Machine.execSscan t d a ex op v s
  | .sred d a t op => Sys2Proof.Machine.execSred d a t op s
  | .scmpr t d a m => Sys2Proof.Machine.execScmpr t d a m s
  | .shist d a b => Sys2Proof.Machine.execShist d a b s
  | .ssort t d k desc j => Sys2Proof.Machine.execSsort t d k desc j s
  | .svalu t op d a b => Sys2Proof.Machine.execSvalu t op d a b s
  | .blkrd d a b => Sys2Proof.Machine.execBlkrd d a b s
  | .blkwr d a b => Sys2Proof.Machine.execBlkwr d a b s
  | .blkred d a b => Sys2Proof.Machine.execBlkred d a b s
  | .lsend d a b => Sys2Proof.Machine.execLsend d a b s
  | .jrot d a => Sys2Proof.Machine.execJrot d a s
  | .gphase d a b => Sys2Proof.Machine.execGphase d a b s
  | .phq d => Sys2Proof.Machine.execPhq d s
  | .svnrm d => Sys2Proof.Machine.execSvnrm d s
  | .stwr d a b => Sys2Proof.Machine.execStwr d a b s
  | .walkReturn unit asid vpage => Sys2Proof.Machine.execWalkReturn unit asid vpage s
  | .resultArrival a ds fl vf => Sys2Proof.Machine.execResultArrival a ds fl vf s
  | .fenceEcho a slice => Sys2Proof.Machine.execFenceEcho a slice s
  | .transferComplete key => Sys2Proof.Machine.execTransferComplete key s
  | .atomicFill a loc v => Sys2Proof.Machine.execAtomicFill a loc v s
  | .overflowForward home => Sys2Proof.Machine.execOverflowForward home s
  | .hostFillBound id => Sys2Proof.Machine.execHostFillBound id s
  | .engineBusyRetry e => Sys2Proof.Machine.execEngineBusyRetry e s
  | .mwaitTimeout a due => Sys2Proof.Machine.execMwaitTimeout a due s
  | .waitTimeout a due => Sys2Proof.Machine.execWaitTimeout a due s
  | .strandTimerExpiry a => Sys2Proof.Machine.execStrandTimerExpiry a s
  | .asyncTrapEntry a => Sys2Proof.Machine.execAsyncTrapEntry a s
  | .longWait a => Sys2Proof.Machine.execLongWait a s
  | .reportFill asid va v => Sys2Proof.Machine.execReportFill asid va v s
  | .leaseGrant core => Sys2Proof.Machine.execLeaseGrant core s
  | .wvuComplete core => Sys2Proof.Machine.execWvuComplete core s
  | .meshAccept tile => Sys2Proof.Machine.execMeshAccept tile s
  | .ploadDone tile => Sys2Proof.Machine.execPloadDone tile s
  | .pswapEffect tile => Sys2Proof.Machine.execPswapEffect tile s
  | .vectorAccadd tile => Sys2Proof.Machine.execVectorAccadd tile s
  | .passComplete tile => Sys2Proof.Machine.execPassComplete tile s
  | .probeSlot tile => Sys2Proof.Machine.execProbeSlot tile s
  | .declarationUpdate tile => Sys2Proof.Machine.execDeclarationUpdate tile s
  | .trimLoop tile => Sys2Proof.Machine.execTrimLoop tile s
  | .sensorWitnessTimeout tile col => Sys2Proof.Machine.execSensorWitnessTimeout tile col s
  | .recalibration tile => Sys2Proof.Machine.execRecalibration tile s
  | .recalComplete tile => Sys2Proof.Machine.execRecalComplete tile s
  | .kickAccept e => Sys2Proof.Machine.execKickAccept e s
  | .copy e => Sys2Proof.Machine.execCopy e s
  | .copy2d e => Sys2Proof.Machine.execCopy2d e s
  | .gather e => Sys2Proof.Machine.execGather e s
  | .stencilDecomposition e => Sys2Proof.Machine.execStencilDecomposition e s
  | .fabricTokenRequest e => Sys2Proof.Machine.execFabricTokenRequest e s
  | .linkMessageSend e => Sys2Proof.Machine.execLinkMessageSend e s
  | .noroutine e => Sys2Proof.Machine.execNoroutine e s
  | .endOp e status detail => Sys2Proof.Machine.execEndOp e status detail s
  | .hostApertureCompletion e err va => Sys2Proof.Machine.execHostApertureCompletion e err va s
  | .errorConsumed a va => Sys2Proof.Machine.execErrorConsumed a va s
  | .engineError e => Sys2Proof.Machine.execEngineError e s
  | .deviceFault cause => Sys2Proof.Machine.execDeviceFault cause s
  | .opPointSwitch quad => Sys2Proof.Machine.execOpPointSwitch quad s
  | .deepGateEntry quad => Sys2Proof.Machine.execDeepGateEntry quad s
  | .wakeEvent quad => Sys2Proof.Machine.execWakeEvent quad s
  | .wakeComplete quad => Sys2Proof.Machine.execWakeComplete quad s
  | .fabricResend dst tc => Sys2Proof.Machine.execFabricResend dst tc s
  | .peerDeclaredLost chip => Sys2Proof.Machine.execPeerDeclaredLost chip s
  | .acceptanceWindowEnd tv => Sys2Proof.Machine.execAcceptanceWindowEnd tv s
  | .hostPortBusyRetry id => Sys2Proof.Machine.execHostPortBusyRetry id s
  | .reset => Sys2Proof.Machine.execReset s
  | .tlbinvPage => Sys2Proof.Machine.execTlbinvPage s
  | .tlbinvAsid => Sys2Proof.Machine.execTlbinvAsid s
  | .tlbinvNonglobal => Sys2Proof.Machine.execTlbinvNonglobal s
  | .tlbinvAll => Sys2Proof.Machine.execTlbinvAll s
  | .invalidationComplete => Sys2Proof.Machine.execInvalidationComplete s
  | .icinvLine => Sys2Proof.Machine.execIcinvLine s
  | .icinvAll => Sys2Proof.Machine.execIcinvAll s
  | .icinvComplete => Sys2Proof.Machine.execIcinvComplete s
  | .create => Sys2Proof.Machine.execCreate s
  | .destroy => Sys2Proof.Machine.execDestroy s
  | .reclaim => Sys2Proof.Machine.execReclaim s
  | .seize => Sys2Proof.Machine.execSeize s
  | .htBadop => Sys2Proof.Machine.execHtBadop s
  | .placement => Sys2Proof.Machine.execPlacement s
  | .tduAdmit => Sys2Proof.Machine.execTduAdmit s
  | .preempt => Sys2Proof.Machine.execPreempt s
  | .haltStart => Sys2Proof.Machine.execHaltStart s
  | .shadowSwap => Sys2Proof.Machine.execShadowSwap s
  | .resume => Sys2Proof.Machine.execResume s
  | .save => Sys2Proof.Machine.execSave s
  | .restore => Sys2Proof.Machine.execRestore s
  | .release => Sys2Proof.Machine.execRelease s
  | .sizeq => Sys2Proof.Machine.execSizeq s
  | .badcmd => Sys2Proof.Machine.execBadcmd s
  | .dumpComplete => Sys2Proof.Machine.execDumpComplete s
  | .watchdogExpiry => Sys2Proof.Machine.execWatchdogExpiry s
  | .mgmtTakeover => Sys2Proof.Machine.execMgmtTakeover s
  | .flogBaseWrite => Sys2Proof.Machine.execFlogBaseWrite s
  | .refillEpoch => Sys2Proof.Machine.execRefillEpoch s
  | .healthCertificate => Sys2Proof.Machine.execHealthCertificate s
  | .pldmFileTransfer => Sys2Proof.Machine.execPldmFileTransfer s
  | .p2pflush => Sys2Proof.Machine.execP2pflush s
  | .getVersion => Sys2Proof.Machine.execGetVersion s
  | .getCapabilities => Sys2Proof.Machine.execGetCapabilities s
  | .negotiateAlgorithms => Sys2Proof.Machine.execNegotiateAlgorithms s
  | .getDigests => Sys2Proof.Machine.execGetDigests s
  | .getCertificate => Sys2Proof.Machine.execGetCertificate s
  | .hostLinkTimeout => Sys2Proof.Machine.execHostLinkTimeout s
  | .cxlReset => Sys2Proof.Machine.execCxlReset s
  | .commit => Sys2Proof.Machine.execCommit s
  | .notificationFillRetry => Sys2Proof.Machine.execNotificationFillRetry s
  | .linkEnable => Sys2Proof.Machine.execLinkEnable s
  | .linkDisable => Sys2Proof.Machine.execLinkDisable s
  | .retrain => Sys2Proof.Machine.execRetrain s
  | .lock => Sys2Proof.Machine.execLock s
  | .train => Sys2Proof.Machine.execTrain s
  | .up => Sys2Proof.Machine.execUp s
  | .failed => Sys2Proof.Machine.execFailed s
  | .sensorSample => Sys2Proof.Machine.execSensorSample s
  | .patrolScrub => Sys2Proof.Machine.execPatrolScrub s
  | .reinitialisation => Sys2Proof.Machine.execReinitialisation s
  | .ageingSample => Sys2Proof.Machine.execAgeingSample s
  | .powerCapSet => Sys2Proof.Machine.execPowerCapSet s
  | .pldmFirmwareUpdate => Sys2Proof.Machine.execPldmFirmwareUpdate s
  | .laserModuleFailure => Sys2Proof.Machine.execLaserModuleFailure s
  | .tjTrip => Sys2Proof.Machine.execTjTrip s
  | .modeOrCellFailure => Sys2Proof.Machine.execModeOrCellFailure s
  | .coreFailure => Sys2Proof.Machine.execCoreFailure s
  | .dieToDieWireFailure => Sys2Proof.Machine.execDieToDieWireFailure s
  | .laserModuleInsertion => Sys2Proof.Machine.execLaserModuleInsertion s
  | .channelPatch => Sys2Proof.Machine.execChannelPatch s
  | .linkLevelReplay => Sys2Proof.Machine.execLinkLevelReplay s
  | .memRd => Sys2Proof.Machine.execMemRd s
  | .memRdData => Sys2Proof.Machine.execMemRdData s
  | .memWr => Sys2Proof.Machine.execMemWr s
  | .memWrPtl => Sys2Proof.Machine.execMemWrPtl s
  | .dumpWindowRead => Sys2Proof.Machine.execDumpWindowRead s
  | .tokenPortTret => Sys2Proof.Machine.execTokenPortTret s
  | .tokenPortUnshr => Sys2Proof.Machine.execTokenPortUnshr s
  | .tokenPortTqry => Sys2Proof.Machine.execTokenPortTqry s
  | .tokenPortBadop => Sys2Proof.Machine.execTokenPortBadop s
  | .bar4Write => Sys2Proof.Machine.execBar4Write s
  | .bar4Read => Sys2Proof.Machine.execBar4Read s
  | .challenge => Sys2Proof.Machine.execChallenge s
  | .getMeasurements => Sys2Proof.Machine.execGetMeasurements s
  | .write => Sys2Proof.Machine.execWrite s
  | .ack => Sys2Proof.Machine.execAck s
  | .nak => Sys2Proof.Machine.execNak s
  | .tokreq => Sys2Proof.Machine.execTokreq s
  | .tokrsp => Sys2Proof.Machine.execTokrsp s
  | .migrPacket => Sys2Proof.Machine.execMigrPacket s
  | .migrrsp => Sys2Proof.Machine.execMigrrsp s
  | .linkmsg => Sys2Proof.Machine.execLinkmsg s
  | .reservedTypePacket => Sys2Proof.Machine.execReservedTypePacket s

end Sys2Proof.Machine
end

