-- ==== Sys2Proof/Machine/Poll.lean ====
section
/-! DEFINITION. The end of a cycle: clocks (R9, R464), parks whose condition has come about (R161, R164), waits (R150, R412), asynchronous
traps of parked strands (R421), strand timers (R202), long waits (R199), throttles (R465), sleep (R463), deep gating (R467, R468). -/

namespace Sys2Proof.Machine

/-! ## Strands -/

/-- Whether the condition that a park waits for, and that no event of its own reports, has come about. -/
def parkOver (s : State) (a : Agent) (r : Strand) : Park → Bool
  | .regs ns => ns.all fun n => !r.isEmpty n
  | .transit key => !(entryOf s key).transit
  | .fence => r.fence.isNone
  | .spawnFull => decide (s.tdu.spawns.length < spawnCapacity)
  | .exitWait => exitReady s a
  | .requests => decide ((waitingOf s a).length < requestLimit)
  | .earlier => !earlierPending s a
  | .kickFull e => decide ((engineOf s e).queue.length < kickDepth)
  | .binding l => !spawnPending s l
  | _ => false

/-- Posts an event unless it is scheduled already. -/
def postOnce (s : State) (d : Nat) (i : Instr) : State := if s.sched.any fun e => e.2 == i then s else post s d i

/-- The timer of a resident strand falls by 1 in each cycle of its core (R202). -/
def timerStep (s : State) (a : Agent) : State :=
  let r := strandOf s a
  let n := fld r.str.timer 31 0
  if bit r.str.timer 63 && decide (n ≠ 0) && !r.run.isHalted && ticks (clockOf s a) s.cycle then
    let s := modStrand s a fun r => { r with str := { r.str with timer := setFld r.str.timer 31 0 (n - 1) } }
    if n = 1 then post s 0 (.strandTimerExpiry a) else s
  else s

/-- One strand at the end of a cycle. -/
def pollStrand (s : State) (a : Agent) : State :=
  if (strandOf s a).run = .free then s
  else
    let s := timerStep s a
    let s := if (strandOf s a).run.isHalted then s else pollFence s a
    let r := strandOf s a
    match r.run with
    | .parked p =>
      if parkOver s a r p then makeReady s a
      else
        let s := if canTakeAsync r && parkYields p then postOnce s 0 (.asyncTrapEntry a) else s
        if !r.boost && decide (r.parkedAt + fld s.tdu.boost 31 0 ≤ s.cycle) && longWaitPark s a p then postOnce s 0 (.longWait a) else s
    | .mwait dst resumed => if mwaitReady r resumed then mwaitReturn s a dst false resumed else s
    | .wait => if canTakeAsync r then waitReturn s a else s
    | _ => s

/-! ## Cores, quads, meshes -/

/-- A quad at the end of a cycle: in each of its cycles the WVU starts one instruction (R178), the cycles that its throttle forbids are counted,
a level written takes effect at the next block of 8 (R465); a gated quad with something to do wakes, an idle one gates after DEEPDLY µs
(R467, R468). -/
def pollQuad (s : State) (q : Nat) : State :=
  let s := if ticks (clockOf s ⟨.compute, 4 * q, 0⟩) s.cycle ∧ (quadOf s q).gate = 0 then wvuCycle s q else s
  let x := quadOf s q
  let f := clockOf s ⟨.compute, 4 * q, 0⟩
  let i := ownIndex s ⟨.compute, 4 * q, 0⟩ % 8
  let x := if ticks f s.cycle then
      { x with blocked := if 8 - x.level ≤ i then min (2 ^ 32 - 1) (x.blocked + 1) else x.blocked, level := if i = 7 then x.levelNew else x.level }
    else x
  let free := x.gate = 0 ∧ x.deepdly ≠ 0 ∧ gateable s q
  let x := if free then x else { x with idleSince := s.cycle }
  let s := { s with quads := mput {} s.quads q x }
  if free ∧ x.idleSince + 2500 * x.deepdly ≤ s.cycle then postOnce s 0 (.deepGateEntry q)
  else if x.gate = 2 ∧ wakes s q then postOnce s 0 (.wakeEvent q)
  else s

/-- A tile's mesh looks at a request that can begin or be accepted. -/
def pollMesh (s : State) (t : Nat) : State :=
  match (if (meshOf s t).recal then none else (meshOf s t).accepted.head?), nextRequester s t with
  | some (q, _), _ => if meshBlocked s t q then s else postOnce s 1 (.meshAccept t)
  | none, some (core, q) => if meshHeld s t core q then s else postOnce s 1 (.meshAccept t)
  | none, none => s

/-! ## Operations behind a transfer (R92) -/

/-- The entries that an operation that waits names now. -/
def keysNow (s : State) : TokenWait → List Nat
  | .strand _ x op va _ _ => tokenKeys s x op va
  | .slot _ w va => slotKeys s w va
  | .peer p m => peerKeys s p m
  | .command _ ctx w => ((commandRegion s ctx w).map (·.1)).toList
  | .engine e va => ((regionFor s (engineActor s e) va.toNat).map (·.1)).toList
  | .settle _ _ _ => []

/-- An operation that waited is carried out. -/
def performWaiting (s : State) : TokenWait → State
  | .strand a x op va d sig => performToken s a x op va d sig
  | .slot n w va => match slotToken w with | some op => slotPerform s n w va op | none => s
  | .peer p m => peerToken s p m
  | .command by_ ctx w => performCommand s by_ ctx w
  | .engine e va => returnRegion s e va
  | .settle asid p fate => settle s (some asid) p fate

/-- Whether an earlier operation holds one up that names no entry: a settlement waits for its strand's own operations (R354). -/
def behindOwn (kept : List (List Nat × TokenWait)) : TokenWait → Bool
  | .settle asid p _ => kept.any fun q => match q.2 with | .strand _ x _ _ _ _ => decide (x.asid = asid) && x.party == p | _ => false
  | _ => false

/-- The operations that wait, in their order of arrival: each that no transfer and no earlier one holds up is carried out; `kept` stays. -/
def pollTokens : List (List Nat × TokenWait) → List (List Nat × TokenWait) → State → State
  | [], kept, s => { s with tokenQueue := kept ++ s.tokenQueue }
  | q :: r, kept, s =>
    let keys := keysNow s q.2
    if mustWait s kept keys || behindOwn kept q.2 then pollTokens r (kept ++ [(keys, q.2)]) s else pollTokens r kept (performWaiting s q.2)

/-- Cores that slept in this cycle for want of quanta (R462, R463): with fewer than 16 at its start, which are those that have them at its end and
did not issue in it. -/
def markSleep (s : State) : State :=
  { s with cores := s.cores.map fun (k, c) => (k, if k < 1000 ∧ c.level < 16 ∧ c.issuedAt ≠ some s.cycle then { c with slept := true } else c) }

/-- What the end of a cycle brings on beside the strands: quads, meshes, operations and requests that wait. -/
def pollUnits (s : State) : State :=
  let tiles := positions 18 fun t => bit s.caps.tilemask t
  let s := tiles.foldl (fun s t => pollQuad (pollQuad s (2 * t)) (2 * t + 1)) s
  let asks (t : Nat) : Bool := decide ((meshOf s t).accepted ≠ []) || (List.range 8).any fun i => decide ((coreOf s (t * 8 + i)).meshQueue ≠ [])
  let s := (tiles.filter asks).foldl pollMesh s
  let s := graceOver (markSleep s)
  let s := if s.tokenQueue = [] then s else pollTokens s.tokenQueue [] { s with tokenQueue := [] }
  let s := if s.host.held = [] then s else pollHost s.host.held [] s
  pollWrites s

/-- The end of a cycle. During a device fault nothing goes on but the management core's strands (R430). -/
def endCycle (s : State) : State :=
  let fault := decide (s.faults.fstate = 1)
  let s := (s.strands.filter fun x => !fault || decide (40000 ≤ x.1)).foldl (fun s x => pollStrand s (agentOfKey x.1)) s
  let s := if fault then s else pollUnits s
  { s with cycle := s.cycle + 1, unit := 0 }

end Sys2Proof.Machine
end

