-- ==== Sys2Proof/Machine/Issue.lean ====
section
/-! DEFINITION. Which strand issues in a cycle (R166 to R170), what it fetches (R36, R59, R173, R184, R275, R285), what it costs (R462). -/

namespace Sys2Proof.Machine

/-! ## Units and their strands -/

/-- The place of an engine among the engine harts, by party id (R80, R139). -/
def engineRank (e : Nat) : Nat := if e < 90 then (if e % 5 = 4 then 100 + e / 5 else e) else 30 + e

/-- The place of an agent's unit in a cycle (R139): engine harts, compute cores, stack cores, the management core. -/
def unitRank (a : Agent) : Nat :=
  match a.kind with | .engine => engineRank a.unit | .compute => 1000 + a.unit | .stack => 2000 + a.unit | .mgmt => 3000

/-- The agent of context 0 of a unit that has a resident strand. -/
def unitOf (x : Nat × Strand) : Option Agent := if x.2.run = .free then none else some { agentOfKey x.1 with ctx := 0 }

/-- The next unit with a resident strand that has not had its turn in this cycle. -/
def nextUnit (s : State) : Option Agent :=
  (s.strands.filterMap unitOf).foldl (fun b a => match b with
    | none => if s.unit ≤ unitRank a then some a else none
    | some c => if s.unit ≤ unitRank a ∧ unitRank a < unitRank c then some a else b) none

/-- The strands of a unit, by context. -/
def unitStrands (s : State) (u : Agent) : List (Nat × Strand) :=
  (s.strands.filter fun x => unitOf x == some { u with ctx := 0 }).map fun x => ((agentOfKey x.1).ctx, x.2)

/-! ## Events in a cycle (R139) -/

/-- The place of an event in its cycle (R139): an engine's operation has its hart's, an atomic's Fill and a Signal that comes with a result their
core's; requests of the host and of the fabric come last; every other event comes first. -/
def eventRank : Instr → Nat
  | .copy e | .copy2d e | .gather e | .stencilDecomposition e | .fabricTokenRequest e | .linkMessageSend e | .endOp e _ _ | .engineBusyRetry e
  | .hostApertureCompletion e _ _ => engineRank e
  | .atomicFill a _ _ => unitRank a
  | .resultArrival a ds _ _ => if ds.any fun d => d.1 == 193 then unitRank a else 0
  | .hostPortBusyRetry _ | .memRd | .memRdData | .memWr | .memWrPtl | .tokenPortTret | .tokenPortUnshr | .tokenPortTqry | .tokenPortBadop | .bar4Write | .bar4Read | .hostFillBound _ => 4000
  | .write | .ack | .nak | .tokreq | .tokrsp | .migrPacket | .migrrsp | .linkmsg | .reservedTypePacket => 5000
  | _ => 0

/-- The event that comes next among those due at a cycle, with the others: the first of the least place. -/
def nextDue (cycle : Nat) (sched : List (Nat × Instr)) : Option ((Nat × Instr) × List (Nat × Instr)) :=
  let due := sched.takeWhile fun e => decide (e.1 ≤ cycle)
  match due with
  | [] => none
  | e :: _ =>
    let least := due.foldl (fun m x => min m (eventRank x.2)) (eventRank e.2)
    takeFirst (fun x : Nat × Instr => eventRank x.2 == least) sched

/-- Whether a unit may issue in this cycle: its clock, the device and firmware running, its quad not gated and not throttled, its core
with 16 quanta (R430, R440, R462, R465, R467). -/
def mayIssue (s : State) (a : Agent) : Bool :=
  ticks (clockOf s a) s.cycle && match a.kind with
    | .mgmt => s.faults.mgmtRunning
    | .compute =>
      let q := quadOf s (a.unit / 4)
      decide (s.faults.fstate = 0) && decide (q.gate = 0) && decide (ownIndex s a % 8 < 8 - q.level) && decide (16 ≤ (coreOf s (coreKey a)).level)
    | _ => decide (s.faults.fstate = 0)

/-- Whether a strand is eligible (R166, R168): READY, three of its core's cycles since its last issue, no retry still to come, and for a pair the
trailing strand's core with 16 quanta too (R432, R462). An engine hart issues in every cycle (R182). -/
def eligible (s : State) (a : Agent) (r : Strand) : Bool :=
  decide (r.run = .ready) && decide (r.retryAt ≤ s.cycle) && (r.pair.all fun b => decide (16 ≤ (coreOf s (coreKey b)).level)) && match (if a.kind = .engine then none else r.lastIssue) with
    | none => true
    | some n => decide (n + 4 ≤ ownIndex s a)

/-! ## The turn list (R167, R169, R199) -/

/-- Weight of a queue. -/
def weightOf (c : Core) (q : Nat) : Nat := fld c.qweight (4 * q + 3) (4 * q)

/-- w turns round-robin over contexts from the first at or after p; the context that the next round starts from. -/
def roundRobin (cs : List Nat) (p w : Nat) : List Nat × Nat :=
  let order := cs.filter (fun c => decide (p ≤ c)) ++ cs.filter fun c => decide (c < p)
  let ts := (List.range w).map fun i => order.getD (i % order.length) 0
  (ts, (ts.getLast?.map (· + 1)).getD p)

/-- The extra turns of the weighted queues, queue 0's first, with their pointers. -/
def extraTurns (rs : List (Nat × Strand)) (c : Core) : List Nat × List (Nat × Nat) :=
  (List.range 8).foldl (fun (acc : List Nat × List (Nat × Nat)) q =>
    let cs := (rs.filter fun x => decide (x.2.run = .ready) && decide (fld x.2.str.sched 2 0 = q)).map (·.1)
    if weightOf c q = 0 ∨ cs = [] then acc
    else
      let x := roundRobin cs (mget 0 acc.2 q) (weightOf c q)
      (acc.1 ++ x.1, mput 0 acc.2 q x.2)) ([], c.extra)

/-- A new turn list: strands that resumed from a long wait first, a base turn for each READY strand, then the extra turns. -/
def newTurns (rs : List (Nat × Strand)) (c : Core) : Core :=
  let ready := rs.filter fun x => x.2.run = .ready
  let base := (ready.filter fun x => x.2.boost).map (·.1) ++ (ready.filter fun x => !x.2.boost).map (·.1)
  let x := extraTurns rs c
  { c with turns := base ++ x.1, extra := x.2, yielded := [] }

/-- At a rotation boundary the unit's core has a new list; first turns after a long wait are given once. -/
def rotate (s : State) (a : Agent) (rs : List (Nat × Strand)) : State :=
  if (coreOf s (coreKey a)).turns ≠ [] then s
  else
    let s := modCore s (coreKey a) (newTurns rs)
    (rs.filter fun x => decide (x.2.run = .ready) && x.2.boost).foldl (fun s x => modStrand s { a with ctx := x.1 } fun r => { r with boost := false }) s

/-- The context that issues, and its core's record after: the first turn whose strand is eligible, else a spare issue. -/
def pick (s : State) (a : Agent) (rs : List (Nat × Strand)) (c : Core) : Option (Nat × Core) :=
  let can (x : Nat) : Bool := match rs.find? fun y => y.1 = x with | some y => eligible s { a with ctx := x } y.2 | none => false
  match c.turns.findIdx? can with
  | some i => some (c.turns.getD i 0, { c with turns := c.turns.eraseIdx i })
  | none =>
    let spare (y : Nat × Strand) : Bool := eligible s { a with ctx := y.1 } y.2 && !shas c.yielded y.1
    match (rs.find? fun y => decide (c.spare ≤ y.1) && spare y).or (rs.find? spare) with
    | some y => some (y.1, { c with spare := (y.1 + 1) % 64 })
    | none => none

/-- The strand that a unit issues from in this cycle, with the state in which it issues. Its core's list is built anew at the start of any of its
cycles in which it is empty, one in which the core sleeps or is throttled too (R167, R466). -/
def selected (s : State) (a : Agent) : Option (Agent × State) × State :=
  let s := if ticks (clockOf s a) s.cycle then rotate s a (unitStrands s a) else s
  if !mayIssue s a then (none, s)
  else
    match pick s a (unitStrands s a) (coreOf s (coreKey a)) with
    | none => (none, s)
    | some (x, c) =>
      let b := { a with ctx := x }
      let t := modCore s (coreKey a) fun _ => { c with cost := 0, issuedAt := some s.cycle }
      (some (b, modStrand { t with cur := b } b fun r => { r with lastIssue := some (ownIndex s b) }), s)

/-! ## Fetch (R36, R59, R184, R185, R275) -/

/-- The class of an agent (R182, R290). -/
def clsOf (a : Agent) : Cls :=
  match a.kind with
  | .compute => .compute
  | .stack => .stack
  | .mgmt => .mgmt
  | .engine => if a.unit < 90 then (if a.unit % 5 = 4 then .stencilE else .copyE) else if a.unit < 98 then .collE else .linkE

/-- Location of a byte of an engine's microcode store (log entry 40). -/
def microLoc (e o : Nat) : Nat := 2 ^ 55 + e * 2 ^ 32 + o % 2 ^ 32

/-- The 32-bit word of bytes by a reader. -/
def codeAt (f : Nat → Byte) (l : Nat) : Nat := word32 (f l) (f (l + 1)) (f (l + 2)) (f (l + 3))

/-- A line becomes the most recently used of its set: 256 sets of 4 ways; a full set loses the line used longest ago (R52; log entry 6). -/
def cacheCode (s : State) (x : ILine) : State :=
  let rest := s.icache.filter fun y => !(decide (y.core = x.core) && decide (y.line = x.line))
  let same (y : ILine) : Bool := decide (y.core = x.core) && decide (y.line % 256 = x.line % 256)
  { s with icache := x :: (if (rest.filter same).length < 4 then rest else dropLast same rest) }

/-- A word through a core's instruction cache: a line that is not there is filled from the LLC home (R59). DESIGN CHOICE (log entry 72): of a
line overwritten with no FENCE.d and DEV.ICINV behind, of which R59 allows the old or the new contents, a core reads the old ones while its
cache holds them. DEDUCED (log entry 76): the L1 of R69 is the data cache of R55, and a miss here sets no touched-slice bit. -/
def cachedCode (s : State) (key pa : Nat) : Nat × State :=
  match s.icache.find? fun x => x.core = key ∧ x.line = pa / 64 with
  | some x => (codeAt (fun i => lineByte x.data (i % 64)) (pa % 64), cacheCode s x)
  | none =>
    let d := (List.range 64).foldl (fun d i => lineSet d i (homeByte s (pa / 64 * 64 + i))) 0
    (codeAt (homeByte s) pa, cacheCode s ⟨key, pa / 64, d⟩)

/-- The instruction word at an address for the executing agent, or what the fetch comes to: an engine's from its microcode store, a
management strand's from physical memory, a strand's by the checks of a fetch; every fetch at a target that JR took with bits [63:56] set faults
NONCANON (R18, R328). DESIGN CHOICE (log entry 40): an engine's pc counts in its microcode store modulo 2^32. -/
def fetchWord (s : State) (va : Word) : Except Res (Nat × State) :=
  match s.cur.kind with
  | .engine =>
    if 2 ^ 56 ≤ va.toNat then .error (onBad s (xlateBad .fetch (1, 0) va.toNat))
    else .ok (codeAt (hbmByte s) (microLoc s.cur.unit va.toNat), s)
  | .mgmt =>
    match place s (myself s) none .fetch va.toNat with
    | .ok _ => .ok (codeAt (homeByte s) va.toNat, s)
    | .error b => .error (onBad s b)
  | _ =>
    match access s (myself s) (myTlb s) .fetch va.toNat 4 with
    | .ok ps => .ok (cachedCode (noteParts s (myself s) ps) (coreKey s.cur) (partLoc ps))
    | .error b => .error (onBad s b)

/-- The trap of a word that is no instruction (R285): PROFILE, or ILLEGAL. -/
def rejectTrap : Reject → Trap
  | .profile => { code := 2 }
  | _ => { code := 1 }

/-- Quanta that an opcode takes (R462). -/
def quanta (op : Nat) : Nat :=
  if op < 0x40 then 1 else if op < 0x80 then 2 else if op < 0xA0 then 1 else if op = 0xB8 then 16 else if op < 0xC0 then 8 else if op < 0xD0 then 4
  else if op < 0xE0 then 2 else 1

/-- The executing compute core pays for an issue (R462); the core of a pair's trailing strand, which runs the same instruction, pays too (R432). -/
def charge (s : State) (n : Nat) : State :=
  if s.cur.kind = .compute then
    let s := match (me s).pair with
      | some b => modCore s (coreKey b) fun c => { c with level := c.level - n, issuedAt := some s.cycle }
      | none => s
    modCore s (coreKey s.cur) fun c => { c with level := c.level - n, cost := n }
  else s

/-- The opcode of an instruction. -/
def opcodeOf (i : Instr) : Nat := ((encode i).headD 0).toNat / 2 ^ 24

/-- The index in its body of the instruction that a repetition is at. -/
def bodyIndex (r : Strand) : Nat := fld r.str.rep 59 56

/-- The instruction at the executing strand's pc, fetched and decoded; the opcode is checked before a second word is fetched (R291). -/
def fetchNew (s : State) : Except Res (Instr × State) :=
  let pc := (me s).pc
  match fetchWord s pc with
  | .error e => .error e
  | .ok (w, s) =>
    let op := bitsOf w 31 24
    let paid := charge s (quanta op)
    match opCheck (clsOf s.cur) op with
    | .error e => .error (.trap paid (rejectTrap e))
    | .ok _ =>
      if isLong op then
        match fetchWord s (pc + 4) with
        | .error e => .error e
        | .ok (w1, s) => match decodeWords (clsOf s.cur) w (some w1) with
          | .ok i => .ok (i, s)
          | .error e => .error (.trap (charge s (quanta op)) (rejectTrap e))
      else match decodeWords (clsOf s.cur) w none with
        | .ok i => .ok (i, s)
        | .error e => .error (.trap paid (rejectTrap e))

/-- The next instruction of the executing strand: from its repetition buffer, or fetched; a body's first pass fills the buffer (R173). -/
def fetchInstr (s : State) : Except Res (Instr × State) :=
  let r := me s
  if bit r.str.rep 63 then
    match mfind r.repBuf (bodyIndex r) with
    | some i => .ok (i, s)
    | none => match fetchNew s with
      | .ok (i, s) => .ok (i, modStrand s s.cur fun r => { r with repBuf := mset r.repBuf (bodyIndex r) i })
      | .error e => .error e
  else fetchNew s

/-- The trap of a request that DESTROY dropped (R144): UNOWNED. -/
def droppedTrap (w : Word) : Trap := { code := 6, va := word (fld w 55 0), holdf := some (holdfWord 1 (fld w 57 56) none) }

end Sys2Proof.Machine
end

