-- ==== Sys2Proof/Machine/Entry.lean ====
section
/-! DEFINITION. What it takes for one instruction to be the next that is fetched and run (log entry 41): a strand of the class that runs
it, READY at an address that its fetch may read, its unit next in turn. -/

namespace Sys2Proof.Machine

/-- The agent that runs instructions of a class. -/
def agentFor : Cls → Agent
  | .compute => ⟨.compute, 0, 0⟩
  | .stack => ⟨.stack, 0, 0⟩
  | .mgmt => ⟨.mgmt, 0, 0⟩
  | .copyE => ⟨.engine, 0, 0⟩
  | .stencilE => ⟨.engine, 4, 0⟩
  | .collE => ⟨.engine, 90, 0⟩
  | .linkE => ⟨.engine, 98, 0⟩

/-- The address that the instruction stands at. -/
def entryVa (a : Agent) : Nat := match a.kind with | .engine => 0 | .mgmt => 2 ^ 49 + 2 ^ 20 | _ => 2 ^ 20

/-- Where its bytes stand. -/
def entryLoc (a : Agent) : Nat := match a.kind with | .engine => microLoc a.unit 0 | .mgmt => 2 ^ 49 + 2 ^ 20 | _ => 2 ^ 20

/-- The first cycle from n on that a clock has. -/
def alignTick (f n : Nat) : Nat := ((List.range 25).find? fun i => ticks f (n + i)).getD 0 + n

/-- The strand that runs it: what it was where it is resident, else a strand of the runtime's privilege with 128 registers. -/
def entryStrand (a : Agent) (r : Strand) : Strand :=
  let r : Strand := if r.run = .free then { str := { part := 128, sched := 0x100 }, party := if a.kind = .engine then engineParty a.unit else if a.kind = .stack then 0x40000001 else if a.kind = .mgmt then 0 else 0x10000001 } else r
  { r with run := .ready, pc := word (entryVa a), lastIssue := none, retryAt := 0, pending := {}, dropped := none, walkFault := none, fence := none
           str := { r.str with rep := setFld r.str.rep 63 63 0 } }

/-- The strand stands ready, alone in its unit's turn list, with a core and a device that may issue. -/
def entryReady (s : State) (a : Agent) : State :=
  let r := entryStrand a (strandOf s a)
  let s := putStrand s a r
  let s := modCore s (coreKey a) fun c => { c with turns := [a.ctx], level := max 4096 c.level }
  let s := if a.kind = .compute then modQuad s (a.unit / 4) fun q => { q with gate := 0, level := 0 } else s
  let n := alignTick (clockOf s a) s.cycle
  { s with
    cycle := n
    unit := unitRank a
    sched := s.sched.map fun e => (max e.1 (n + 1), e.2)
    faults := if a.kind = .mgmt then { s.faults with mgmtRunning := true } else { s.faults with fstate := 0 } }

/-- The page of the instruction is mapped and its region held by the runtime, for an agent that translates. -/
def entryMapped (s : State) (a : Agent) : State :=
  let asid := (strandOf s a).str.asid.toNat
  let va := entryVa a
  let caps := if isPopulated s va then s.caps else { s.caps with memsplit := 0xFFF }
  let leaf : Word := 0x1F ||| word (va / 2 ^ 16 * 2 ^ 16)
  { s with
    caps := caps
    tlbs := ⟨tlbUnit a, asid, va / 2 ^ 16 * 2 ^ 16, 0, leaf⟩ :: s.tlbs
    icache := s.icache.filter fun x => !(decide (x.core = coreKey a) && decide (x.line = va / 64))
    entries := mset (s.entries.filter fun x => !(decide (x.1 < 65536) && decide (x.2.asid = asid) && decide (x.2.base ≤ va / 256) && decide (va / 256 < x.2.base + x.2.len)))
      65535 { asid := asid, base := va / 256, len := 1, holder := (strandOf s a).party, state := 1 } }

/-- One instruction, given by its bytes, placed so that the next step runs it. -/
def placeWord (s : State) (c : Cls) (bs : List Byte) : State :=
  let a := agentFor c
  let s := entryReady s a
  let s := match a.kind with
    | .compute | .stack => entryMapped s a
    | _ => s
  writeBy putHbm { s with llc := mclear s.llc (entryLoc a) (entryLoc a + bs.length) } (entryLoc a) bs

end Sys2Proof.Machine
end

