-- ==== Sys2Proof/Machine/Pair.lean ====
section
/-! DEFINITION. Paired strands (R432): the trailing context runs each instruction in the step in which the leading strand issues it, so the
load-value queue and the store comparator are empty between steps (log entry 62). -/

namespace Sys2Proof.Machine

/-- How an instruction of a paired strand is compared (R432): an output, register arithmetic or control that the trailing strand computes
too, or a value from outside (vector and mesh instructions among them) that it takes from the queue. -/
inductive PairKind where
  | output | own | queued
deriving DecidableEq, Repr

/-- The kind of an opcode. -/
def pairKindOf (op : Nat) : PairKind :=
  if op < 0x60 ∨ (0x80 ≤ op ∧ op ≤ 0x88) ∨ op = 0x92 ∨ op = 0x9B ∨ op = 0x9C then .own
  else if (0x64 ≤ op ∧ op ≤ 0x67) ∨ op = 0x69 ∨ (0x6B ≤ op ∧ op ≤ 0x72) ∨ (0x7A ≤ op ∧ op ≤ 0x7C) ∨ op = 0x90 ∨ op = 0x91 ∨ op = 0x93 ∨ op = 0x94
    ∨ op = 0x95 ∨ op = 0x9E ∨ (0xD0 ≤ op ∧ op ≤ 0xD8) then .output
  else .queued

/-- The registers in which the executing strand's trailing context differs from it, with the trailing values. -/
def trailingCopies (s : State) : List (Nat × Word) := match (me s).pair with | some b => (strandOf s b).regs | none => []

/-- The state in which the trailing strand runs the instruction: its own values in those registers. -/
def trailingView (s : State) (xs : List (Nat × Word)) : State :=
  modStrand s s.cur fun r => { r with regs := xs.foldl (fun m x => mput 0 m x.1 x.2) r.regs }

/-- A register's value after an instruction of an agent: the result on its way, or what the register holds. -/
def valueOnWay (s : State) (a : Agent) (n : Nat) : Word :=
  match s.sched.findSome? fun e => match e.2 with | .resultArrival b ds _ _ => if b = a then (ds.find? fun d => d.1 = n).map (·.2) else none | _ => none with
  | some v => v
  | none => (strandOf s a).reg n

/-- What of a state the comparator sees: all but the strand's registers and the values that a withdrawn request would give back. -/
def comparedState (s : State) (a : Agent) : State :=
  modStrand { s with waiters := s.waiters.map fun q => { q with old := 0 } } a fun r => { r with regs := [] }

/-- Whether the two strands' outcomes differ: an output in anything; register arithmetic and control in where the strand goes on, in a trap
taken, or in a repetition. -/
def pairDiffers (k : PairKind) (a : Agent) (x y : State) : Bool :=
  match k with
  | .output => comparedState x a != comparedState y a
  | .own =>
    let r := strandOf x a
    let q := strandOf y a
    r.run != q.run || r.pc != q.pc || r.str != q.str
  | .queued => false

/-- The trailing strand's differing registers after an instruction: its own results of register arithmetic; a register that the leading
strand writes otherwise is the same in both. `s`, `x`, `y`: before, after by the leading strand, after by the trailing one. -/
def copiesAfter (k : PairKind) (a : Agent) (s x y : State) (xs : List (Nat × Word)) : List (Nat × Word) :=
  match k with
  | .own => (List.range 128).filterMap fun n => if valueOnWay x a n = valueOnWay y a n then none else some (n, valueOnWay y a n)
  | _ => xs.filter fun e => decide ((strandOf x a).isEmpty e.1 = (strandOf s a).isEmpty e.1) && decide ((strandOf x a).reg e.1 = (strandOf s a).reg e.1)

/-- An instruction of the executing strand. Where its trailing context holds a register with another value, both run it: a difference
kills the pair with cause 2, with no output performed; else the leading strand's outcome stands (R432). -/
def runPaired (i : Instr) (s : State) : Host.Outcome State Fault Refusal :=
  match (me s).pair, trailingCopies s with
  | none, _ | _, [] => exec i s
  | some b, e :: es =>
    let k := pairKindOf (opcodeOf i)
    match exec i s, exec i (trailingView s (e :: es)) with
    | .next x, .next y =>
      if pairDiffers k s.cur x y then .next (killStrand s s.cur 2 0)
      else if (strandOf x s.cur).pair = some b then .next (modStrand x b fun r => { r with regs := copiesAfter k s.cur s x y (e :: es) })
      else .next x
    | o, _ => o

end Sys2Proof.Machine
end

