-- ==== Sys2Proof/Machine/Step.lean ====
section
/-! DEFINITION. One step of the machine: an event that is due, an issue, or the end of a cycle; and the placing of one instruction where
the next step fetches. -/

namespace Sys2Proof.Machine

/-- The executing strand issues: UNOWNED for a request that DESTROY dropped comes first (R144), then a pending trap that can be taken, once
no atomic of the strand awaits its Fill (R145, R421), then the next instruction, run by both strands of a pair. -/
def issueNow (s : State) : Host.Outcome State Fault Refusal :=
  match (me s).dropped with
  | some w => .next (takeTrap (modStrand s s.cur fun r => { r with dropped := none }) s.cur (droppedTrap w) 4)
  | none =>
    if canTakeAsync (me s) then (if betweenHalves s s.cur then .next s else exec (.asyncTrapEntry s.cur) s)
    else match fetchInstr s with
      | .error r => finish 4 r
      | .ok (i, t) => runPaired i (charge t (quanta (opcodeOf i)))

/-- A unit's turn in the cycle. -/
def issueUnit (s : State) (u : Agent) : Host.Outcome State Fault Refusal :=
  match selected s u with
  | (some (_, t), _) => issueNow t
  | (none, t) => .next t

/-- Whether an event comes before the next unit of the cycle (R139). -/
def eventFirst (i : Instr) : Option Agent → Bool
  | some u => decide (eventRank i ≤ unitRank u)
  | none => true

/-- One step (R139): of the events due and the units that have not had their turn in the cycle, the one that comes next in the cycle's order;
then the end of the cycle. -/
def step (s : State) : Host.Outcome State Fault Refusal :=
  let units : Host.Outcome State Fault Refusal := match nextUnit s with
    | some u => issueUnit { s with unit := unitRank u + 1 } u
    | none => .next (endCycle s)
  match nextDue s.cycle s.sched with
  | some (e, rest) => if eventFirst e.2 (nextUnit s) then exec e.2 { s with sched := rest } else units
  | none => units

/-- The state with an instruction of the table's numbering where the next step fetches (Entry.lean says what that takes). -/
def State.withFetchWord (s : State) (nbits w : Nat) : State := placeWord s (tableCls (w % 2 ^ nbits)) (tableBytes (w % 2 ^ nbits))

end Sys2Proof.Machine
end

