-- ==== Sys2Proof/Safety.lean ====
section
/-! DEFINITION. What the statements speak of: operands that are ready, the states that results leave, what stays as it was, the
canonical form of memory. -/

namespace Sys2Proof.Machine

/-! ## When an instruction issues -/

/-- Every register that an instruction names lies in its range and is full (R163, R164): the instruction issues. -/
def Full (s : State) (us : List Use) : Prop := (us.any fun u => u.beyond (partSize s.cur (me s))) = false ∧ emptyUses (me s) us = []

/-- An event of memory or synchronisation can issue: the registers are ready and no fence of the strand is in progress (R113). -/
def Open (s : State) (us : List Use) : Prop := Full s us ∧ (me s).fence = none

/-- The checks of a memory operand succeed with these parts (R332). -/
def Granted (s : State) (m : Mode) (va : Word) (n : Nat) (ps : List Part) : Prop := access s (myself s) (myTlb s) m va.toNat n = .ok ps

/-! ## What stays as it was -/

/-- Memory reads as it did: bytes, full bits and poison. -/
def SameMemory (s t : State) : Prop :=
  ∀ l, homeByte t l = homeByte s l ∧ hbmByte t l = hbmByte s l ∧ isFull t l = isFull s l ∧ isPoison t l = isPoison s l

/-- The frame of an instruction that writes registers only: nothing but the executing strand's record and the scheduled events differs;
in the record, the registers outside `ds`, every STR register but the repetition's count (which the pc's advance moves) and the flags
`fl` added to STR.FPCTL, the stack-vector registers and the party stay; memory reads as before. -/
structure Frame (s t : State) (ds : List Nat) (fl : Word) : Prop where
  rest : ∃ r q, t = { putStrand s s.cur r with sched := q }
  regs : ∀ n, n ∉ ds → (me t).reg n = (me s).reg n ∧ (me t).isEmpty n = (me s).isEmpty n
  str : { (me t).str with rep := 0 } = { (me s).str with rep := 0, fpctl := (me s).str.fpctl ||| fl }
  svs : (me t).svs = (me s).svs
  party : (me t).party = (me s).party
  memory : SameMemory s t

/-- Outside a repetition the pc stands at the next instruction (R275). -/
def Passed (len : Nat) (s t : State) : Prop := bit (me s).str.rep 63 = false → (me t).pc = (me s).pc + word len

/-! ## What results leave -/

/-- The state after an instruction of len bytes whose effect, beside the pc's advance, is the state s. -/
def wentOn (len : Nat) (s : State) : State := modStrand s s.cur fun r => advanced r len

/-- An instruction of len bytes has written v to its destination at once (R305, R306), with flags fl, and nothing else. -/
structure Wrote (len : Nat) (s t : State) (d : Option Nat) (v : Word) (fl : Word) : Prop where
  value : ∀ n, d = some n → (me t).reg n = v ∧ (me t).isEmpty n = false
  frame : Frame s t d.toList fl
  pc : Passed len s t

/-- An instruction of len bytes has a result v with flags fl on its way for `lat` device cycles (R54, R306): its destination is empty and
keeps its value until then, and nothing else changes. `can` says whether the instruction can raise a flag at all (R237); `own` is the mark
of a delay that counts in the quad's own cycles (R9). -/
structure Sent (len : Nat) (s t : State) (d : Option Nat) (v : Word) (fl : Flags) (lat : Nat) (can : Bool := false)
    (own : List (Nat × Word) := []) : Prop where
  value : ∀ n, d = some n →
    (me t).isEmpty n = true ∧ (me t).reg n = (me s).reg n ∧ (s.cycle + lat, Instr.resultArrival s.cur (resultOf d v can ++ own) fl 0) ∈ t.sched
  discarded : d = none → (fl ≠ 0 ∨ can = true) → (s.cycle + lat, Instr.resultArrival s.cur (resultOf d v can ++ own) fl 0) ∈ t.sched
  frame : Frame s t d.toList 0
  pc : Passed len s t

/-! ## Values of the integer instructions, as the tables of spec/11 give them -/

/-- R309 and R310: each two-operand instruction with the value of D. -/
def integerTable (d : GDst) (a b : Src) (x y : Word) : List (Instr × Word) :=
  let c := y.toNat % 64
  [(.add d a b, wordOfInt (x.toInt + y.toInt)), (.sub d a b, wordOfInt (x.toInt - y.toInt)),
   (.and d a b, x &&& y), (.or d a b, x ||| y), (.xor d a b, x ^^^ y), (.andn d a b, x &&& ~~~y),
   (.min d a b, if x.toInt ≤ y.toInt then x else y), (.max d a b, if y.toInt ≤ x.toInt then x else y),
   (.minu d a b, if x.toNat ≤ y.toNat then x else y), (.maxu d a b, if y.toNat ≤ x.toNat then x else y),
   (.seq d a b, if x = y then 1 else 0), (.slt d a b, if x.toInt < y.toInt then 1 else 0), (.sltu d a b, if x.toNat < y.toNat then 1 else 0),
   (.shl d a b, word (x.toNat * 2 ^ c)), (.shr d a b, word (x.toNat / 2 ^ c)), (.sar d a b, wordOfInt (x.toInt / 2 ^ c)),
   (.ror d a b, x.rotateRight c)]

/-- R315: each immediate instruction with the value of D, where z is D's value before (zero for 192). -/
def immediateTable (d : GDst) (i : BitVec 16) (k : BitVec 6) (z : Word) : List (Instr × Word) :=
  [(.li d i, wordOfInt i.toInt), (.liz d i, word i.toNat), (.lsi d i, word (z.toNat * 2 ^ 16) ||| word i.toNat),
   (.addi d i, wordOfInt (z.toInt + i.toInt)), (.andi d i, z &&& word i.toNat), (.ori d i, z ||| word i.toNat), (.xori d i, z ^^^ word i.toNat),
   (.shli d k, word (z.toNat * 2 ^ k.toNat)), (.shri d k, word (z.toNat / 2 ^ k.toNat)), (.sari d k, wordOfInt (z.toInt / 2 ^ k.toNat)),
   (.slti d i, if z.toInt < i.toInt then 1 else 0)]

/-- R309 (MUL) and R311: each multiply and division with the value of D, whether it divides by zero, and its latency (R307). -/
def multiplyTable (d : GDst) (a b : Src) (x y : Word) : List (Instr × Word × Bool × Nat) :=
  let z := decide (y = 0)
  [(.mul d a b, wordOfInt (x.toInt * y.toInt), false, 6), (.mulh d a b, wordOfInt (x.toInt * y.toInt / 2 ^ 64), false, 6),
   (.mulhu d a b, word (x.toNat * y.toNat / 2 ^ 64), false, 6),
   (.div d a b, if y = 0 then 0xFFFFFFFFFFFFFFFF else wordOfInt (x.toInt.tdiv y.toInt), z, 36),
   (.divu d a b, if y = 0 then 0xFFFFFFFFFFFFFFFF else word (x.toNat / y.toNat), z, 36),
   (.rem d a b, if y = 0 then x else wordOfInt (x.toInt - y.toInt * x.toInt.tdiv y.toInt), z, 36),
   (.remu d a b, if y = 0 then x else word (x.toNat % y.toNat), z, 36)]

/-- R312: each saturating instruction with its exact value and range. -/
def saturatingTable (d : GDst) (a b : Src) (x y : Word) : List (Instr × Int × Int × Int) :=
  [(.adds d a b, x.toInt + y.toInt, -2 ^ 63, 2 ^ 63 - 1), (.subs d a b, x.toInt - y.toInt, -2 ^ 63, 2 ^ 63 - 1),
   (.addsu d a b, (x.toNat : Int) + y.toNat, 0, 2 ^ 64 - 1), (.subsu d a b, (x.toNat : Int) - y.toNat, 0, 2 ^ 64 - 1)]

/-- R317: each wrapping packed instruction with its lane width and the exact value of a lane. -/
def packedTable (d : GDst) (a b : Src) : List (Instr × Nat × (Int → Int → Int)) :=
  [(.paddI8 d a b, 8, (· + ·)), (.paddI16 d a b, 16, (· + ·)), (.paddI32 d a b, 32, (· + ·)),
   (.psubI8 d a b, 8, (· - ·)), (.psubI16 d a b, 16, (· - ·)), (.psubI32 d a b, 32, (· - ·))]

/-- R317: each saturating packed instruction with its lane width and the exact value of a lane. -/
def packedSatTable (d : GDst) (a b : Src) : List (Instr × Nat × (Int → Int → Int)) :=
  [(.paddsI8 d a b, 8, (· + ·)), (.paddsI16 d a b, 16, (· + ·)), (.paddsI32 d a b, 32, (· + ·)),
   (.psubsI8 d a b, 8, (· - ·)), (.psubsI16 d a b, 16, (· - ·)), (.psubsI32 d a b, 32, (· - ·))]

/-- What a saturating result leaves: written with its flag, or, where IS is raised with ISE set, the arithmetic trap with the flag set
and nothing written (R236, R312, R317). -/
def Saturated (i : Instr) (s : State) (d : Option Nat) (v : Word) (is_ : Bool) : Prop :=
  if is_ = true ∧ flagIS &&& enables (me s) ≠ 0 then
    exec i s = .next (takeTrap (raise s flagIS) s.cur { code := 10, flags := flagIS.toNat } 4)
  else ∃ t, exec i s = .next t ∧ Wrote 4 s t d v (if is_ then flagIS.setWidth 64 else 0)

/-- The state after an instruction whose delayed result, `lat` device cycles away, holds its strand, since an enable was set (R325). -/
def held (len : Nat) (s : State) (d : Option Nat) (v : Word) (fl : Flags) (lat : Nat) : State :=
  modStrand (parkAs (post (emptyDst s d) lat (.resultArrival s.cur (answerOf d v ++ ownMark) fl 0)) s.cur .answer) s.cur fun r => advanced r len

/-- What an instruction with a delayed result and flags does (R236, R306, R325): with a raised flag enabled, the arithmetic trap with
the flags set and nothing written; else, with any enable set and a flag possible, the strand issues nothing until the result is there;
else the result is on its way, `lat` of the agent's own cycles (R307). -/
def Delivers (i : Instr) (s : State) (d : Option Nat) (v : Word) (fl : Flags) (can : Bool) (lat : Nat) : Prop :=
  if fl &&& enables (me s) ≠ 0 then exec i s = .next (takeTrap (raise s fl) s.cur { code := 10, flags := fl.toNat } 4)
  else if enables (me s) ≠ 0 ∧ can = true then exec i s = .next (held 4 s d v fl (mine s lat))
  else ∃ t, exec i s = .next t ∧ Sent 4 s t d v fl (mine s lat) can ownMark

/-- R319, R320: each floating instruction of one type with its result, before the flush of R239, and its latency (R307); x, y and z are
the values of a, b and D, ca and cb the codes of a and b. -/
def floatTable (r : Rm) (t : FTy) (d : GReg) (a b : Src) (ca cb : Nat) (x y z : Num) : List (Instr × (Nat × Flags) × Nat) :=
  let p := FTy.fp t
  let short := if t = .d then 8 else 6
  let long := if t = .d then 36 else 20
  [(.fadd r t d a b, p.add r x y, short), (.fsub r t d a b, p.add r x (if y.isNan then y else y.neg), short),
   (.fmul r t d a b, p.mul r x y, short), (.fdiv r t d a b, p.div r x y, long), (.fma r t d a b, p.fma r x y z, short),
   (.fsqrt r t d a, p.sqrt r x, long),
   (.fmin t d a b, p.minmax false ca cb x y, short), (.fmax t d a b, p.minmax true ca cb x y, short)]

/-- Whether an access to a part goes through the L1 data cache: a compute strand's DRAM access to an EXCL or SHARED region for a load, to
an EXCL region for a store (R55 to R57, R111). -/
def Cached (x : Actor) (p : Part) : Prop :=
  x.path = .strand ∧ (∃ pa na, p.place = .dram pa na) ∧ (p.state = 1 ∨ p.state = 2)

/-- R37, R91: the state after the trap of a refused access: TRANSLATION with STR.XLATE, or the cause of the holder check with STR.HOLDF; a
walk and a region in transit park instead. -/
def badTrap (s : State) : Bad → Option State
  | .xlate w va => some (takeTrap s s.cur { code := 5, va := va, xlate := some w } 4)
  | .holder c w va => some (takeTrap s s.cur { code := 5 + c, va := va, holdf := some w } 4)
  | .walk _ _ _ => none
  | .transit _ => none

/-- R337, R340: each synchronisation instruction on the word at [a + o × 8], with its request at the home, its destination and its operands. -/
def syncTable (s : State) (d : GDst) (v a : Src) (o : BitVec 8) : List (Instr × SyncKind × Option Nat × Word × Word × List Use) :=
  let g := gdstUse s d ++ srcUse s a
  [(.lds d a o, .take, dstOf s d, 0, 0, g), (.stf v a o, .fill, none, srcVal s v, 0, srcUse s v ++ srcUse s a),
   (.ldp d a o, .peek, dstOf s d, 0, 0, g), (.ste a o, .empty, none, 0, 0, srcUse s a),
   (.aadd d a o, .aadd, dstOf s d, gdstVal s d, 0, g), (.aand d a o, .aand, dstOf s d, gdstVal s d, 0, g),
   (.aor d a o, .aor, dstOf s d, gdstVal s d, 0, g), (.amin d a o, .amin, dstOf s d, gdstVal s d, 0, g),
   (.amax d a o, .amax, dstOf s d, gdstVal s d, 0, g), (.axch d a o, .axch, dstOf s d, gdstVal s d, 0, g),
   (.acas d a o, .acas, dstOf s d, gdstVal s d, nextVal s (dstOf s d), g ++ nextUse (dstOf s d))]

/-- The request that a synchronisation instruction sends (R140). -/
def requestOf (s : State) (k : SyncKind) (d : Option Nat) (v v2 va : Word) (l : Nat) (na : Bool) : SyncReq :=
  { who := .agent s.cur, kind := k, loc := l, home := homeOf s l, va := va, asid := (myself s).asid, v := v, v2 := v2, dst := d,
    old := (match d with | some n => (me s).reg n | none => 0), listed := false, poison := false, na := na }

/-! ## Long vectors (spec/13) -/

/-- An instruction of the wide vector unit issues: its strand holds the lease, its registers are ready, no fence is in progress, the
dispatch queue has room (R176 to R178, R361). -/
def VReady (s : State) (us : List Use) : Prop :=
  holdsLease s = true ∧ Open s us ∧ (coreOf s (coreKey s.cur)).dispatch.length < 16

/-- What a long-vector instruction with a long-vector destination leaves: lane j of width w of register d holds L j for j below n; the
other registers of the bank stay; it stands at the end of the dispatch queue with its latency and its flags, until the WVU starts it; no
general register and no byte of memory changes, and nothing but the strand's record, its core's and the scheduled events. -/
structure VWrote (s t : State) (d w n : Nat) (L : Nat → Nat) (fl : Flags) (lat : Nat) : Prop where
  value : ∀ j, j < n → laneOf (lvVal t d) w j = L j % 2 ^ w
  others : ∀ m, m ≠ d → lvVal t m = lvVal s m
  queue : ∃ v, (coreOf t (coreKey s.cur)).dispatch = (coreOf s (coreKey s.cur)).dispatch ++ [v] ∧ v.by_ = s.cur ∧ v.kind ≠ 0 ∧ v.lat = lat
    ∧ v.writes = [d] ∧ v.gs = [] ∧ v.flags = fl
  frame : Frame { s with cores := t.cores } t [] 0
  cores : ∀ c, c ≠ coreKey s.cur → coreOf t c = coreOf s c
  pc : Passed 4 s t

/-- Flags of n lanes. -/
def laneFlags (n : Nat) (f : Nat → Nat × Flags) : Flags := (List.range n).foldl (fun g j => g ||| (f j).2) 0

/-- R364 to R373, R375: each long-vector instruction with its lane width and count, the value of each lane, its flags and its latency; x, y
and z are the lanes of A, of B and of D before, v the lanes of A read as another type. -/
def vectorTable (s : State) (t x_ : LTy) (d : LReg) (a b : LSrc) (m : LReg) (ga gb : Src) (op : ScanOp) (ex sat : Bool) (lg : BitVec 4)
    (part : BitVec 3) (r : Rm) (fn : BitVec 6) (f : Fin 6) : List (Instr × Nat × Nat × (Nat → Nat) × Flags × Nat) :=
  let x := fun j => (lsrcLanes s t a).getD j 0
  let y := fun j => (lsrcLanes s t b).getD j 0
  let z := fun j => (lvLanes s t (lregOf s d)).getD j 0
  let v := fun j => (lsrcLanes s x_ a).getD j 0
  let w := t.width
  let n := t.lanes
  let elem := fun (i : Instr) (g : Nat → Nat × Flags) (lat : Nat) => (i, w, n, (fun j => (g j).1), laneFlags n g, lat)
  let g := 2 ^ lg.toNat
  let group := fun k => (List.range g).map fun i => x (k * g + i)
  let scan := fun e k => scanGroup t op e (group k) (scanIdentity t op)
  [elem (.vadd t d a b) (fun j => laneAdd t (x j) (y j)) 6,
   elem (.vsub t d a b) (fun j => laneOp t (· - ·) (fun p u v => p.add .rn u (if v.isNan then v else v.neg)) (x j) (y j)) 6,
   elem (.vmul t d a b) (fun j => laneOp t (· * ·) (fun p u v => p.mul .rn u v) (x j) (y j)) 6,
   elem (.vmin t d a b) (fun j => laneMinMax false t (x j) (y j)) 6, elem (.vmax t d a b) (fun j => laneMinMax true t (x j) (y j)) 6,
   elem (.vfma t d a b) (fun j => laneFma t (x j) (y j) (z j)) 8,
   elem (.vcmp t d a b) (fun j => (cmpMask (laneNum t (x j)) (laneNum t (y j)), if t.fmt.isInt then 0 else cmpFlags t.fp (laneNum t (x j)) (laneNum t (y j)))) 6,
   elem (.vsel t d a b) (fun j => (if z j ≠ 0 then x j else y j, 0)) 6,
   elem (.vand t d a b) (fun j => (x j &&& y j, 0)) 6, elem (.vor t d a b) (fun j => (x j ||| y j, 0)) 6,
   elem (.vxor t d a b) (fun j => (x j ^^^ y j, 0)) 6, elem (.vshf t d a b) (fun j => (laneShift t (x j) (y j), 0)) 6,
   (.vred t d a lg op, w, n, (fun j => if j < n / g then (scan false j).2.1 else 0),
     (List.range (n / g)).foldl (fun h k => h ||| (scan false k).2.2) 0, 4 + 2 * lg.toNat),
   (.vscan t d a ex lg op, w, n, (fun j => (scan ex (j / g)).1.getD (j % g) 0),
     (List.range (n / g)).foldl (fun h k => h ||| (scan ex k).2.2) 0, 4 + 2 * lg.toNat),
   elem (.vperm t d a b) (fun j => (if y j < n then x (y j) else 0, 0)) 10,
   elem (.vsf t d a r fn) (fun j => laneFun t r fn.toNat (x j)) 24,
   (.vcvt t d a x_ r part, w, n,
     (fun j => if x_.width < w then (laneCvt x_ t r (v (part.toNat * n + j))).1
       else if part.toNat * x_.lanes ≤ j ∧ j < part.toNat * x_.lanes + x_.lanes then (laneCvt x_ t r (v (j - part.toNat * x_.lanes))).1 else z j),
     (if x_.width < w then laneFlags n fun j => laneCvt x_ t r (v (part.toNat * n + j)) else laneFlags x_.lanes fun j => laneCvt x_ t r (v j)), 12),
   elem (.vdq t d a r f) (fun j => let u := lvOf t (lsrcLanes s t a)
     laneFlush t (convert (mxFmt f) t.fmt r (mxValue (mxFmt f) (laneOf u 8 (480 + j / 32)) (laneOf u (mxFmt f).width j)))) 12,
   elem (.vdot t d m x_ sat) (fun j =>
     let k := w / x_.width
     let ps := (List.range k).map fun i => (laneOf (lvVal s (lregOf s m)) x_.width (j * k + i), laneOf (lvVal s (lregOf s m + 1)) x_.width (j * k + i))
     if t.fmt.isInt then let e := idot sat (ps.map fun q => (laneInt x_ q.1, laneInt x_ q.2)) (laneInt t (z j)); (wrap 32 e.1, e.2)
     else laneFlush t (fdot (laneNum t (z j)) (ps.map fun q => (laneNum x_ q.1, laneNum x_ q.2)))) 12,
   (.vmovv d ga gb, 64, 64, (fun j => if j = fld (srcVal s gb) 5 0 then (srcVal s ga).toNat else laneOf (lvVal s (lregOf s d)) 64 j), 0, 6)]

/-- The registers that a long-vector instruction of the table names. -/
def vectorUses (s : State) (d : LReg) (a b : LSrc) (m : LReg) (ga gb : Src) : Instr → List Use
  | .vdot .. => [.lv (lregOf s d), .lv (lregOf s m), .lv (lregOf s m + 1)]
  | .vmovv .. => [.lv (lregOf s d)] ++ srcUse s ga ++ srcUse s gb
  | .vred .. | .vscan .. | .vsf .. | .vcvt .. | .vdq .. | .vqnt .. => [.lv (lregOf s d)] ++ lsrcUse s a
  | _ => vuses s d a b

/-- R374: element (i, j) of VMMA's result with its flags: the exact sum of products of row i of A and column j of B added to the
element, for a combination code. -/
def mmaElement (s : State) (t : LTy) (d : LReg) (c : Nat) (a b : LReg) (i j : Nat) : Nat × Flags :=
  let ta := (mmaTypes c).1
  let tb := (mmaTypes c).2
  let k := 512 / ta.width
  let half := tb.lanes
  let bl := fun n => if n < half then laneOf (lvVal s (lregOf s b)) tb.width n else laneOf (lvVal s (lregOf s b + 1)) tb.width (n - half)
  let ps := (List.range k).map fun x => (laneOf (lvVal s (lregOf s a)) ta.width (k * i + x), bl (16 * x + j))
  let z := laneOf (lvVal s (lregOf s d)) t.width (16 * i + j)
  if t.fmt.isInt then let e := idot (c == 6) (ps.map fun q => (laneInt ta q.1, laneInt tb q.2)) (laneInt t z); (wrap 32 e.1, e.2)
  else laneFlush t (fdot (laneNum t z) (ps.map fun q => (laneNum ta q.1, laneNum tb q.2)))

/-! ## The stack profile (spec/13 R403) -/

/-- What an instruction with a stack-vector destination leaves: register d is empty, and its value, lane j of width w of which is L j for j
below n, is on its way with the flags, `lat` device cycles after the vector unit can take the instruction (R360, R402, R493); every register
keeps its value, and memory stays. -/
structure SvSent (s t : State) (d w n : Nat) (L : Nat → Nat) (fl : Flags) (lat : Nat) : Prop where
  value : ∃ v, (max s.cycle (coreOf s (coreKey s.cur)).svFree + lat, Instr.resultArrival s.cur (svWords d v) 0 fl) ∈ t.sched
    ∧ ∀ j, j < n → laneOf v w j = L j % 2 ^ w
  empty : (me t).isEmpty (svMark d) = true
  bank : ∀ m, svVal t m = svVal s m
  regs : ∀ m, (me t).reg m = (me s).reg m ∧ (m ≠ svMark d → (me t).isEmpty m = (me s).isEmpty m)
  memory : SameMemory s t
  pc : Passed 4 s t

/-- R403: SVALU, SSCAN and SCMPR with the lane width and count, the value of each lane, the flags and the latency in stack cycles. -/
def stackTable (s : State) (t : LTy) (op : SvOp) (sop : ScanOp) (ex : Bool) (d a m : SvReg) (b : SvSrc) (c : Src) (v : SvReg) :
    List (Instr × List Use × (Nat → Nat) × Flags × Nat) :=
  let x := fun j => (svLanesOf s t (svregOf s a)).getD j 0
  let y := fun j => (svsrcLanes s t b).getD j 0
  let carry := match c with | .k n => broadcast t (some n) 0 | c => (srcVal s c).toNat % 2 ^ t.width
  let scan := scanGroup t sop ex (svLanesOf s t v.val) carry
  let mask := (List.range t.svLanes).filter fun j => !laneZero t ((svLanesOf s t (svregOf s m)).getD j 0)
  [(.svalu t op d a b, [.sv (svregOf s d), .sv (svregOf s a)] ++ svsrcUse s b, (fun j => (svLaneOp t op (x j) (y j)).1),
     laneFlags t.svLanes fun j => svLaneOp t op (x j) (y j), if op = .mul then 6 else 4),
   (.sscan t d c ex sop v, [.sv (svregOf s d), .sv v.val] ++ srcUse s c, (fun j => scan.1.getD j 0), scan.2.2, 4 + Nat.log2 t.svLanes),
   (.scmpr t d a m, [.sv (svregOf s d), .sv (svregOf s a), .sv (svregOf s m)], (fun j => (mask.map x).getD j 0), 0, 6)]

/-! ## Long instructions: clauses, tokens, the mesh -/

/-- A wait clause lets its instruction issue (R152, R279). -/
def Waited (s : State) (c : Clauses) : Prop := ∀ i th, c.wait = some (i, th) → (me s).clauseOk = true ∨ th.toNat ≤ semCount s (myTile s) i.toNat

/-- An operation that is sent only after every earlier event has been performed can issue (R113, R348, R415). -/
def Ordered (s : State) : Prop := (me s).fence = none ∧ earlierPending s s.cur = false

/-- A token instruction issues: its registers are ready, its clauses legal and met, every earlier event performed (R348). -/
def TokenReady (s : State) (us : List Use) (c : Clauses) : Prop := Full s us ∧ clauseIllegal s c = false ∧ Waited s c ∧ Ordered s

/-- No region of an operation is in transit (R92). -/
def Settled (r : Option (Nat × Entry)) : Prop := ∀ k e, r = some (k, e) → e.transit = false

/-- The executing strand is live: it holds its own context (R92). -/
def Live (s : State) : Prop := holds s s.cur ((myself s).asid, (myself s).party) = true

/-- What a token operation that is done at its home leaves: the state u of the regions, D empty and the strand parked until the status word
arrives with the signal, `tokenOp` cycles later (R92, R101, R347). -/
def answeredBy (len : Nat) (s u : State) (d : GDst) (c : Clauses) (v : Word) : State :=
  wentOn len (parkAs (post u Config.lat.tokenOp (.resultArrival s.cur (answerOf (dstOf s d) v ++ signalOf c.sig) 0 0)) s.cur .answer)

/-- The outcome of LEND or TRET, with D empty in u: a transfer under way with the strand parked until it completes, or the status word. -/
def tokenOutcome (len : Nat) (s u : State) (d : GDst) (c : Clauses) (r : Option (Nat × Entry)) (x : Nat × Option Transfer) : State :=
  match x with
  | (_, some t) =>
    wentOn len (parkAs (beginTransfer u ((r.map (·.1)).getD 0) { t with who := some s.cur, dst := dstOf s d, sig := c.sig }) s.cur .answer)
  | (st, none) => answeredBy len s u d c (tokenWord (r.map (·.1)) st)

/-- R349 to R353: each token instruction with its length, its clauses, its registers, its operation and its addresses. -/
def tokenTable (s : State) (d : GDst) (a b : Src) (c : Clauses) : List (Instr × Nat × Clauses × List Use × TokenOp × List Word) :=
  let va := srcVal s a 8
  let vb := srcVal s b 8
  let two := srcUse s a ++ srcUse s b
  [(.lend d a b c, 8, c, two, .lend vb false, [va]), (.lendGive d a b c, 8, c, two, .lend vb true, [va]), (.share d a b c, 8, c, two, .share vb, [va]),
   (.split d a b c, 8, c, two, .split vb, [va, vb]), (.merge d a b c, 8, c, two, .merge vb, [va, vb]),
   (.tret d a, 4, noClauses, srcUse s a, .tret, [srcVal s a]), (.tqry d a, 4, noClauses, srcUse s a, .tqry, [srcVal s a]),
   (.unshr d a b, 4, noClauses, two, .unshr (fld (srcVal s b) 7 0), [srcVal s a])]

/-- What a token operation of the executing strand on the region of an address comes to, with D empty in u (R92 to R97). -/
def tokenDone (len : Nat) (s u : State) (d : GDst) (c : Clauses) (op : TokenOp) (va : Word) : State :=
  let x := myself s
  let r := regionFor u x va.toNat
  let key := r.map (·.1)
  match op with
  | .lend b give => tokenOutcome len s u d c r (lendStatus u x r b give)
  | .tret => tokenOutcome len s u d c r (tretStatus u x r)
  | .share b => answeredBy len s (shareOp u x r b).2 d c (tokenWord key (shareOp u x r b).1)
  | .unshr n => answeredBy len s (unshrOp u x r n).2 d c (tokenWord key (unshrOp u x r n).1)
  | .split cut => answeredBy len s (splitOp u x r cut).2.2 d c (tokenWord (r.map fun _ => (splitOp u x r cut).2.1) (splitOp u x r cut).1)
  | .merge upper =>
    let r2 := regionFor u x upper.toNat
    answeredBy len s (mergeOp u x r r2).2 d c (tokenWord (if r2.isSome then key else none) (mergeOp u x r r2).1)
  | .tqry => answeredBy len s u d c (queryWord u x r)

/-- R377 to R388: each mesh request with its kind, its registers and the operands that it captures. -/
def meshTable (s : State) (d : GDst) (a b : Src) (c : Clauses) : List (Instr × Nat × List Use × Word × Word) :=
  let va := srcVal s a 8
  let vb := srcVal s b 8
  [(.mfmt d a c, 0, srcUse s a, va, 0), (.pload d a c, 1, srcUse s a, va, 0), (.pswap d c, 2, [], 0, 0),
   (.mpass d a b c, 3, srcUse s a ++ srcUse s b, va, vb), (.mtran d a b c, 4, srcUse s a ++ srcUse s b, va, vb), (.mprobe d c, 5, [], 0, 0),
   (.aclr d a b c, 6, srcUse s a ++ srcUse s b, va, vb), (.mstat d a c, 7, srcUse s a, va, 0)]

/-- A tile's row map sends its 4,096 logical rows to rows of their own (R65). -/
def RowsApart (x : Tile) : Prop := ∀ i j, i < 4096 → j < 4096 → mget i x.rowMap i = mget j x.rowMap j → i = j

/-- R389, R390, R394: each kick instruction with its registers, the device window bit, its slot and its kick word. -/
def kickTable (s : State) (d : GDst) (a b : Src) (c : Clauses) : List (Instr × List Use × Bool × Nat × Word) :=
  let va := srcVal s a 8
  let vb := srcVal s b 8
  let engine := s.cur.unit % 8 / 4 * 2 + fld vb 0 0
  let two := srcUse s a ++ srcUse s b
  [(.cpy d a b c, two, false, engine, routineWord 0 va), (.cpy2d d a b c, two, false, engine, routineWord 1 va),
   (.cpyg d a b c, two, false, engine, routineWord 2 va), (.stdec d a c, srcUse s a, false, 4, routineWord 3 va),
   (.kick d a b c, two, bit vb 8, fld vb 5 0, va)]

/-! ## Fetching (spec/02, spec/06, spec/10) -/

/-- The four bytes that the executing agent fetches as the word at an address (R36, R59, R184, R185), and the state u that the fetch leaves:
an engine's, at a canonical address, from its microcode store, a management strand's from physical memory, with nothing changed; a strand's, where the fetch is
granted, from its core's instruction cache if the line is there, else from the line's home, with the caches that the fetch went through. -/
def FetchesAt (s : State) (va : Word) (bs : List Byte) (u : State) : Prop :=
  match s.cur.kind with
  | .engine => va.toNat < 2 ^ 56 ∧ bs = bytesBy (hbmByte s) (microLoc s.cur.unit va.toNat) 4 ∧ u = s
  | .mgmt => (∃ p, place s (myself s) none .fetch va.toNat = .ok p) ∧ bs = bytesBy (homeByte s) va.toNat 4 ∧ u = s
  | _ => ∃ ps, Granted s .fetch va 4 ps ∧ partLoc ps % 4 = 0 ∧
    let v := noteParts s (myself s) ps
    u = (cachedCode v (coreKey s.cur) (partLoc ps)).2
      ∧ bs = match v.icache.find? (fun x => x.core = coreKey s.cur ∧ x.line = partLoc ps / 64) with
        | some x => (List.range 4).map fun k => lineByte x.data (partLoc ps % 64 + k)
        | none => bytesBy (homeByte v) (partLoc ps) 4

/-- The next turn of the cycle is that of a strand which issues in the state t: no event that is due comes before it (R139, R166 to R170). -/
def Issues (s t : State) : Prop :=
  (∀ e r, nextDue s.cycle s.sched = some (e, r) → eventFirst e.2 (nextUnit s) = false)
    ∧ ∃ u b, nextUnit s = some u ∧ (selected { s with unit := unitRank u + 1 } u).1 = some (b, t)

/-! ## The fabric (spec/18) -/

/-- A packet of a type stands at the head of the inputs with its trailer, at a port that is UP, sound (R452), of an accepted topology version, for this device, from a peer
that is not lost, and no device fault holds: the device performs it, in the state u (R430, R453, R455, R456). -/
def Heard (s u : State) (typ : Nat) (p : Packet) : Prop :=
  ∃ port c r, s.inputs = .packet port p c :: r ∧ packetSound p c = true ∧ p.typ = typ ∧ (mget {} s.fabric.ports port).state = 4 ∧ versionOk s p = true
    ∧ p.dst = s.fabric.chipid.toNat ∧ s.faults.fstate ≠ 1 ∧ s.fabric.lostPeers.contains p.src = false ∧ u = { s with inputs := r }

end Sys2Proof.Machine
end

