-- ==== Sys2Proof/Certificates/Slice0/Obligations.lean ====
section
/-! DEFINITION. The statements for the provers. -/

open Sys2Proof Sys2Proof.Machine

/-! ## Integer instructions (spec/11) -/

/-- R309, R310: each two-operand integer instruction, its operands ready, writes D the value of the table and nothing else.
R315, R316: each immediate instruction, D ready, writes D the value of the table and nothing else; NOP changes only the pc.
R313, R314: the bit instructions, SEL and the bitfield instructions, their operands ready, write D the value that the rules give. -/
def Obligations.IntegerResults : Prop :=
  (∀ (s : State) (d : GDst) (a b : Src), Full s (uses3 s d a b) →
    ∀ p ∈ integerTable d a b (srcVal s a) (srcVal s b), ∃ t, exec p.1 s = .next t ∧ Wrote 4 s t (dstOf s d) p.2 0)
  ∧ ((∀ (s : State) (d : GDst) (i : BitVec 16) (k : BitVec 6), Full s (gdstUse s d) →
    ∀ p ∈ immediateTable d i k (gdstVal s d), ∃ t, exec p.1 s = .next t ∧ Wrote 4 s t (dstOf s d) p.2 0)
  ∧ ∀ s : State, ∃ t, exec .nop s = .next t ∧ Wrote 4 s t none 0 0)
  ∧ ((∀ (s : State) (d : GDst) (a : Src), Full s (gdstUse s d ++ srcUse s a) →
    let x := srcVal s a
    (∃ t n, exec (.clz d a) s = .next t ∧ Wrote 4 s t (dstOf s d) (word n) 0 ∧ n ≤ 64
      ∧ (∀ i, 64 - n ≤ i → bit x i = false) ∧ (n < 64 → bit x (63 - n) = true))
    ∧ (∃ t n, exec (.ctz d a) s = .next t ∧ Wrote 4 s t (dstOf s d) (word n) 0 ∧ n ≤ 64
      ∧ (∀ i, i < n → bit x i = false) ∧ (n < 64 → bit x n = true))
    ∧ (∃ t, exec (.popc d a) s = .next t ∧ Wrote 4 s t (dstOf s d) (word ((List.range 64).countP fun i => bit x i)) 0)
    ∧ (∃ t v, exec (.brev d a) s = .next t ∧ Wrote 4 s t (dstOf s d) v 0 ∧ ∀ i, i < 64 → bit v i = bit x (63 - i)))
  ∧ ∀ (s : State) (d : GDst) (a b : Src), Full s (uses3 s d a b) →
    let x := srcVal s a
    let c := srcVal s b
    let z := gdstVal s d
    let pos := fld c 5 0
    let len := min (fld c 14 8) (64 - pos)
    (∃ t, exec (.sel d a b) s = .next t ∧ Wrote 4 s t (dstOf s d) (if z ≠ 0 then x else c) 0)
    ∧ (∃ t, exec (.bfx d a b) s = .next t ∧ Wrote 4 s t (dstOf s d) (word (x.toNat / 2 ^ pos % 2 ^ len)) 0)
    ∧ (∃ t v, exec (.bfi d a b) s = .next t ∧ Wrote 4 s t (dstOf s d) v 0
      ∧ ∀ i, i < 64 → bit v i = if pos ≤ i ∧ i < pos + len then bit x (i - pos) else bit z i))

/-- R236, R306, R307, R309, R311, R325: the multiplies and divisions, their operands ready, deliver the value of the table; a division
by zero raises DZ, and DZE = 1 then makes it trap. -/
def Obligations.MultiplyDivideResults : Prop :=
  ∀ (s : State) (d : GDst) (a b : Src), Full s (uses3 s d a b) →
    ∀ p ∈ multiplyTable d a b (srcVal s a) (srcVal s b),
      Delivers p.1 s (dstOf s d) p.2.1 (if p.2.2.1 then flagDZ else 0) (decide (p.2.2.2 = 36)) p.2.2.2

/-- R312: D receives the exact value clamped to the range; IS is raised where it lay outside.
R317: the packed instructions, lane by lane; a saturating one raises IS once when it clamps any lane. -/
def Obligations.SaturatingResults : Prop :=
  (∀ (s : State) (d : GDst) (a b : Src), Full s (uses3 s d a b) →
    ∀ p ∈ saturatingTable d a b (srcVal s a) (srcVal s b),
      Saturated p.1 s (dstOf s d) (wordOfInt (max p.2.2.1 (min p.2.2.2 p.2.1))) (decide (p.2.1 < p.2.2.1 ∨ p.2.2.2 < p.2.1)))
  ∧ (∀ (s : State) (d : GDst) (a b : Src), Full s (uses3 s d a b) →
    let x := srcVal s a
    let y := srcVal s b
    (∀ p ∈ packedTable d a b, ∃ t v, exec p.1 s = .next t ∧ Wrote 4 s t (dstOf s d) v 0
      ∧ ∀ i, i < 64 / p.2.1 → laneOf v p.2.1 i = wrap p.2.1 (p.2.2 (laneOf x p.2.1 i) (laneOf y p.2.1 i)))
    ∧ ∀ p ∈ packedSatTable d a b, ∃ v,
      let w := p.2.1
      let e := fun i => p.2.2 (signedOf w (laneOf x w i)) (signedOf w (laneOf y w i))
      let out := fun i => decide (e i < -2 ^ (w - 1) ∨ 2 ^ (w - 1) - 1 < e i)
      Saturated p.1 s (dstOf s d) v ((List.range (64 / w)).any out)
      ∧ ∀ i, i < 64 / w → signedOf w (laneOf v w i) = max (-2 ^ (w - 1)) (min (2 ^ (w - 1) - 1) (e i)))

/-! ## Scalar floating point (spec/11, spec/08) -/

/-- R238, R239, R318, R319, R320: the floating instructions of one type, their registers ready. A subnormal operand with FTZ = 0 takes the
assist trap; else the result of the table, flushed where FTZ says so, is delivered with its flags. -/
def Obligations.FloatResults : Prop :=
  ∀ (s : State) (r : Rm) (t : FTy) (d : GReg) (a b : Src), Full s (fuses s d a b) →
    let p := FTy.fp t
    let ca := srcCode s p a
    let cb := srcCode s p b
    let cd := ((me s).reg (gregOf s d)).toNat % 2 ^ p.width
    let fl := fun c => if ftz (me s) && p.subnormal c then p.zeroCode (c.testBit (p.eb + p.mb)) else c
    ∀ q ∈ floatTable r t d a b (fl ca) (fl cb) (scalarNum s p ca) (scalarNum s p cb) (scalarNum s p cd),
      let ops := if q.1 = .fsqrt r t d a then [ca] else if q.1 = .fma r t d a b then [ca, cb, cd] else [ca, cb]
      if (!ftz (me s) && ops.any p.subnormal) = true then exec q.1 s = .next (takeTrap s s.cur { code := 9 } 4)
      else Delivers q.1 s (some (gregOf s d)) (word (scalarFlush s p q.2.1).1) (scalarFlush s p q.2.1).2 true q.2.2

/-- R321: FCMP writes a mask with exactly one bit set, by the order of the exact values; only a signalling NaN raises NV.
R322, R233: FCVT delivers the converted value; a subnormal source of a format with the assist traps with FTZ = 0.
R323, R307: FUN. Codes 0 to 2 invert the sign bit, clear it or classify, with no flag and no assist; codes 3 to 11 deliver the rounded
function value with its flags, after the assist of a subnormal operand with FTZ = 0. -/
def Obligations.FloatFunctions : Prop :=
  (∀ (s : State) (t : FTy) (d : GReg) (a b : Src), Full s (fuses s d a b) →
    let p := FTy.fp t
    let ca := srcCode s p a
    let cb := srcCode s p b
    let x := scalarNum s p ca
    let y := scalarNum s p cb
    let sig := fun n : Sys2Proof.Num => match n with | .nan _ _ g => g | _ => false
    if (!ftz (me s) && (p.subnormal ca || p.subnormal cb)) = true then exec (.fcmp t d a b) s = .next (takeTrap s s.cur { code := 9 } 4)
    else ∃ m, Delivers (.fcmp t d a b) s (some (gregOf s d)) (word m) (if sig x || sig y then flagNV else 0) true (if t = .d then 8 else 6)
      ∧ (m = 1 ∨ m = 2 ∨ m = 4 ∨ m = 8) ∧ (m = 8 ↔ (x.isNan || y.isNan) = true)
      ∧ ∀ n1 m1 e1 n2 m2 e2, x = .fin n1 m1 e1 → y = .fin n2 m2 e2 →
          let u : Int := (if n1 then -1 else 1) * (m1 : Int) * 2 ^ (e1 + 2000).toNat
          let v : Int := (if n2 then -1 else 1) * (m2 : Int) * 2 ^ (e2 + 2000).toNat
          (m = 1 ↔ u < v) ∧ (m = 2 ↔ u = v) ∧ (m = 4 ↔ v < u))
  ∧ (∀ (s : State) (r : Rm) (d : GReg) (a : Src) (x t : Fmt), Full s ([.g (gregOf s d)] ++ srcUse s a) →
    let c := cvtCode s x a
    let sub := match Fmt.fp x with | some p => x.assists && p.subnormal c | none => false
    let v := cvtFlush s t (convert x t r (cvtNum s x c))
    if (sub && !ftz (me s)) = true then exec (.fcvt r d a x t) s = .next (takeTrap s s.cur { code := 9 } 4)
    else Delivers (.fcvt r d a x t) s (some (gregOf s d)) (t.toReg v.1) v.2 true (if x = .d ∨ t = .d then 8 else 6))
  ∧ (∀ (s : State) (t : FTy) (d : GReg) (a : Src) (r : Rm) (fn : BitVec 6), Full s ([.g (gregOf s d)] ++ srcUse s a) →
    let p := FTy.fp t
    let c := srcCode s p a
    let top := 2 ^ (p.eb + p.mb)
    let x := scalarNum s p c
    let i := Instr.ffun t d a r fn
    let n := fn.toNat
    (n = 0 → Delivers i s (some (gregOf s d)) (word ((c + top) % (2 * top))) 0 false (if t = .d then 8 else 6))
    ∧ (n = 1 → Delivers i s (some (gregOf s d)) (word (c % top)) 0 false (if t = .d then 8 else 6))
    ∧ (n = 2 → Delivers i s (some (gregOf s d)) (word (p.classMask c)) 0 false (if t = .d then 8 else 6))
    ∧ (3 ≤ n →
        let v := scalarFlush s p (if n = 3 then p.rint r x else p.func r n x)
        if (!ftz (me s) && p.subnormal c) = true then exec i s = .next (takeTrap s s.cur { code := 9 } 4)
        else Delivers i s (some (gregOf s d)) (word v.1) v.2 true
          (if t = .d then (if n = 3 then 8 else if n ≤ 5 then 36 else 48) else (if n = 3 then 6 else if n ≤ 5 then 20 else 28))))

/-- R217, R232, R318: rounding to nearest. A positive rational rounded without overflow into binary32 or binary64 gives a code whose value
no finite code of the format is nearer to; NX is raised exactly when the value differs. -/
def Obligations.RoundingIsNearest : Prop :=
  ∀ (f : FP), f = fpF ∨ f = fpD → ∀ (n d : Nat), 0 < n → 0 < d →
    let r := f.round .rn false false n d
    r.2 &&& flagOF = 0 →
    ∃ m e, f.value r.1 = .fin false m e
      ∧ (r.2 &&& flagNX = 0 ↔ m * 2 ^ (e + 1200).toNat * d = n * 2 ^ 1200)
      ∧ ∀ c m' e' neg, f.value c = .fin neg m' e' →
        let err := fun (s : Bool) (m : Nat) (e : Int) => (((if s then -1 else 1) * (m : Int) * 2 ^ (e + 1200).toNat * d - n * 2 ^ 1200)).natAbs
        err false m e ≤ err neg m' e'

/-! ## Control flow (spec/11 R326 to R330) -/

/-- R326: each conditional branch, its register ready and outside a repetition body, goes to PC + 4 × SignExt(OFF, 64) where its condition
holds and to the next instruction where it does not; nothing else changes.
R327, R328: CALL and JR write the address of the next instruction to D and go to their target, which JR reads before the link is
written; a target that is not word-aligned traps with no effect. -/
def Obligations.BranchesCallsAndJumps : Prop :=
  (∀ (s : State) (a : Src) (o : BitVec 16), Full s (srcUse s a) → inBody s = false →
    let v := (srcVal s a).toInt
    ∀ p ∈ [(Instr.bez a o, decide (v = 0)), (.bnz a o, decide (v ≠ 0)), (.bltz a o, decide (v < 0)), (.bgez a o, decide (0 ≤ v)),
        (.bgtz a o, decide (0 < v)), (.blez a o, decide (v ≤ 0))],
      ∃ t, exec p.1 s = .next t ∧ (me t).pc = (if p.2 then (me s).pc + wordOfInt (4 * o.toInt) else (me s).pc + 4) ∧ Frame s t [] 0)
  ∧ ((∀ (s : State) (d : GDst) (o : BitVec 16), Full s (gdstUse s d) → inBody s = false →
    ∃ t, exec (.call d o) s = .next t ∧ (me t).pc = (me s).pc + wordOfInt (4 * o.toInt)
      ∧ (∀ n, dstOf s d = some n → (me t).reg n = (me s).pc + 4 ∧ (me t).isEmpty n = false) ∧ Frame s t (dstOf s d).toList 0)
  ∧ ∀ (s : State) (d : GDst) (a : Src), Full s (gdstUse s d ++ srcUse s a) → inBody s = false →
    let w := srcVal s a
    if w.toNat % 4 ≠ 0 then exec (.jr d a) s = .next (takeTrap s s.cur { code := 4, va := w } 4)
    else ∃ t, exec (.jr d a) s = .next t ∧ (me t).pc = w
      ∧ (∀ n, dstOf s d = some n → (me t).reg n = (me s).pc + 4 ∧ (me t).isEmpty n = false) ∧ Frame s t (dstOf s d).toList 0)

/-- R173, R330: REP outside a repetition body begins one behind it: STR.REP active with its counts, STR.REPPC and the pc at the next
instruction, the buffer empty; every other register of the strand and everything else stays.
R174, R285: a branch, CALL, JR, REP, EXIT or RFT in a repetition body is an illegal use and traps ILLEGAL. -/
def Obligations.Repetition : Prop :=
  (∀ (s : State) (n : BitVec 4) (k : BitVec 12) (st : BitVec 7), inBody s = false →
    ∃ t, exec (.rep n k st) s = .next t ∧ (me t).pc = (me s).pc + 4 ∧ (me t).repBuf = []
      ∧ (me t).str = { (me s).str with rep := (me t).str.rep, reppc := (me s).pc + 4 }
      ∧ bit (me t).str.rep 63 = true ∧ fld (me t).str.rep 59 56 = 0 ∧ fld (me t).str.rep 55 52 = n.toNat ∧ fld (me t).str.rep 51 40 = 0
      ∧ fld (me t).str.rep 39 28 = k.toNat ∧ fld (me t).str.rep 6 0 = st.toNat
      ∧ (∀ m, (me t).reg m = (me s).reg m ∧ (me t).isEmpty m = (me s).isEmpty m) ∧ (∃ r, t = putStrand s s.cur r) ∧ SameMemory s t)
  ∧ (∀ (s : State) (d : GDst) (a : Src) (o : BitVec 16) (n : BitVec 4) (k : BitVec 12) (st : BitVec 7), inBody s = true →
    ∀ i ∈ [Instr.bez a o, .bnz a o, .bltz a o, .bgez a o, .bgtz a o, .blez a o, .call d o, .jr d a, .rep n k st, .exit a, .rft],
      exec i s = .next (takeTrap s s.cur { code := 1 } 4))

/-! ## Loads, stores, synchronisation words (spec/12, spec/05) -/

/-- R333 to R336: each load, its registers ready, its access granted and no poison read, sends D the bytes of its parts, zero- or
sign-extended, with the latency of the slowest part; nothing else changes beyond what reading the parts does. -/
def Obligations.LoadResults : Prop :=
  ∀ (s : State) (sx : Bool) (d : GReg) (a : Src) (o : BitVec 8), Open s ([.g (gregOf s d)] ++ srcUse s a) →
    ∀ p ∈ [(Instr.ld8 sx d a o, (1 : Nat), sx), (.ld16 sx d a o, 2, sx), (.ld32 sx d a o, 4, sx), (.ld64 d a o, 8, false)],
      let n := p.2.1
      let va := srcVal s a + wordOfInt (o.toInt * n)
      windowMisaligned s va n = false → ∀ ps, Granted s .load va n ps → poisonedVa s (myself s) ps = none →
        let r := readParts s (myself s) ps
        ∃ t, exec p.1 s = .next t
          ∧ Sent 4 r.2.2 t (some (gregOf s d)) (if p.2.2 then wordOfInt (signedOf (8 * n) (leNat r.1)) else word (leNat r.1)) 0 r.2.1

/-- R333 to R336: each store to places other than kick windows, its registers ready, its access granted and not held back, writes its parts
with the low bytes of its operand, little-endian, and moves the pc on.
R363: a store into what the staging of an accepted pass has still to read forfeits its slot and is tried again. -/
def Obligations.StoreResults : Prop :=
  ∀ (s : State) (v a : Src) (o : BitVec 8), Open s (srcUse s v ++ srcUse s a) →
    ∀ p ∈ [(Instr.st8 v a o, 1), (.st16 v a o, 2), (.st32 v a o, 4), (.st64 v a o, 8)],
      let n := p.2
      let va := srcVal s a + wordOfInt (o.toInt * 8)
      windowMisaligned s va n = false → ∀ ps, Granted s .store va n ps →
        ((∀ q ∈ ps, ∀ dev t k, q.place ≠ .kick dev t k) → stagingHeld s ps = false →
          ∃ t, exec p.1 s = .next t ∧ t = wentOn 4 (writeParts s (myself s) ps ((List.range n).map (byteOf (srcVal s v)))))
        ∧ (stagingHeld s ps = true → exec p.1 s = .next (settleRes 4 (retryMe s 1)))

/-- R37, R91, R308, R332, R335: each load, store or synchronisation instruction whose access does not translate takes the TRANSLATION trap
with the faulting address and STR.XLATE; one that fails its holder check takes the trap of its cause with STR.HOLDF.
R335: each load or store of another size or alignment than the accumulator, kick and other strict windows allow traps MISALIGNED with no
effect.
R337, R338, R340: a synchronisation word operation on an address that is not 8-byte aligned traps MISALIGNED with no effect. -/
def Obligations.AccessTraps : Prop :=
  (∀ (s : State) (sx : Bool) (d : GReg) (a : Src) (o : BitVec 8), Open s ([.g (gregOf s d)] ++ srcUse s a) →
    ∀ p ∈ [(Instr.ld8 sx d a o, (1 : Nat)), (.ld16 sx d a o, 2), (.ld32 sx d a o, 4), (.ld64 d a o, 8)],
      let va := srcVal s a + wordOfInt (o.toInt * p.2)
      (windowMisaligned s va p.2 = true → exec p.1 s = .next (takeTrap s s.cur { code := 4, va := va } 4))
      ∧ ∀ b t, badTrap s b = some t → windowMisaligned s va p.2 = false → access s (myself s) (myTlb s) .load va.toNat p.2 = .error b →
        exec p.1 s = .next t)
  ∧ (∀ (s : State) (v a : Src) (o : BitVec 8), Open s (srcUse s v ++ srcUse s a) →
    ∀ p ∈ [(Instr.st8 v a o, (1 : Nat)), (.st16 v a o, 2), (.st32 v a o, 4), (.st64 v a o, 8)],
      let va := srcVal s a + wordOfInt (o.toInt * 8)
      (windowMisaligned s va p.2 = true → exec p.1 s = .next (takeTrap s s.cur { code := 4, va := va } 4))
      ∧ ∀ b t, badTrap s b = some t → windowMisaligned s va p.2 = false → access s (myself s) (myTlb s) .store va.toNat p.2 = .error b →
        exec p.1 s = .next t)
  ∧ (∀ (s : State) (d : GDst) (v a : Src) (o : BitVec 8),
    let va := srcVal s a + wordOfInt (o.toInt * 8)
    ∀ p ∈ syncTable s d v a o, Open s p.2.2.2.2.2 →
      (va.toNat % 8 ≠ 0 → exec p.1 s = .next (takeTrap s s.cur { code := 4, va := va } 4))
      ∧ ∀ b t, badTrap s b = some t → va.toNat % 8 = 0 →
        access s (myself s) (myTlb s) (if p.2.1 = .peek then .peek else .sync) va.toNat 8 = .error b → exec p.1 s = .next t)

/-- R137 to R143, R337 to R340: a synchronisation instruction, its registers ready, its access granted and fewer than four requests of
the strand waiting, sends its request: performed or waiting at the home, its destination is empty and the pc moves on; answered BUSY, it is
tried again after the gap of STR.SYNCRETRY while the count is below its limit, after 16 cycles by an engine hart, and at the limit it goes
to the overflow list. With four requests waiting the strand parks. -/
def Obligations.SyncInstructions : Prop :=
  ∀ (s : State) (d : GDst) (v a : Src) (o : BitVec 8),
    let va := srcVal s a + wordOfInt (o.toInt * 8)
    va.toNat % 8 = 0 → ∀ p ∈ syncTable s d v a o, Open s p.2.2.2.2.2 →
      ∀ ps, Granted s (if p.2.1 = .peek then .peek else .sync) va 8 ps →
        let l := partLoc ps
        let n := noteParts s (myself s) ps
        let u := if l < 2 ^ 52 then touchSlice n n.cur l else n
        let q := requestOf s p.2.1 p.2.2.1 p.2.2.2.1 p.2.2.2.2.1 va l (partNa ps)
        let sent := fun (v : State) => exec p.1 s = .next (wentOn 4 (emptyDst (modStrand v v.cur fun r => { r with busy := 0 }) p.2.2.1))
        let again := fun (d : Nat) => exec p.1 s = .next (settleRes 4 (retryMe (modStrand u u.cur fun r => { r with busy := r.busy + 1 }) d))
        (4 ≤ (waitingOf s s.cur).length → exec p.1 s = .next (settleRes 4 (parkMe s .requests)))
        ∧ ((waitingOf s s.cur).length < 4 →
          ((arrive u q).1 ≠ .busy → sent (arrive u q).2)
          ∧ ((arrive u q).1 = .busy → s.cur.kind = .engine → again 16)
          ∧ ((arrive u q).1 = .busy → s.cur.kind ≠ .engine →
            ((me u).busy < fld (me u).str.syncretry 7 0 → again (mine u (4 * max 1 (fld (me u).str.syncretry 15 8))))
            ∧ (fld (me u).str.syncretry 7 0 ≤ (me u).busy → sent { u with overflow := u.overflow ++ [{ q with listed := true }] })))

/-- R136, R137, R145: what a request may do and does at its word. A Take, a Fill, an Empty and an atomic proceed by the full bit and the
reservation, a Peek unless the word is reserved for its own agent (R113, R341); a Take and an Empty leave the word empty with its value; a
Fill writes its value and leaves it full; an atomic leaves it empty and reserved with its new value, whose Fill is scheduled; a Peek changes
neither.
R340: the new value of each atomic.
R145: the Fill of an atomic on its reserved word, with no request waiting there and no binding, writes the new value, leaves the word
full, ends the reservation, and changes no byte outside the word. -/
def Obligations.WordProtocol : Prop :=
  (∀ (s : State) (q : SyncReq),
    let free := mfind s.reserved q.loc = none
    let bound := mfind s.tdu.boundFull q.loc = none
    let t := performReq s q
    (q.kind = .peek → (canProceed s q = true ↔ ∀ r, mfind s.reserved q.loc = some r → q.who ≠ .agent r.agent) ∧ isFull t q.loc = isFull s q.loc ∧ homeWord t q.loc = homeWord s q.loc)
    ∧ (q.kind = .take → (canProceed s q = true ↔ isFull s q.loc = true ∧ free ∧ bound) ∧ isFull t q.loc = false ∧ homeWord t q.loc = homeWord s q.loc)
    ∧ (q.kind = .empty → (canProceed s q = true ↔ free ∧ bound) ∧ isFull t q.loc = false ∧ homeWord t q.loc = homeWord s q.loc)
    ∧ (q.kind = .fill → (canProceed s q = true ↔ isFull s q.loc = false ∧ free) ∧ isFull t q.loc = true ∧ homeWord t q.loc = q.v)
    ∧ (q.kind.isAtomic = true → (canProceed s q = true ↔ isFull s q.loc = true ∧ free ∧ bound)
      ∧ ∀ a, q.who = .agent a → isFull t q.loc = false ∧ homeWord t q.loc = homeWord s q.loc
        ∧ mfind t.reserved q.loc = some ⟨a, homeWord s q.loc, atomicNew q.kind (homeWord s q.loc) q.v q.v2, q.home, q.va, q.na⟩
        ∧ (t.cycle + 2 * syncLatency (hitLine (setFull s q.loc false q.na) q.loc) q.who q.loc, Instr.atomicFill a q.loc (atomicNew q.kind (homeWord s q.loc) q.v q.v2)) ∈ t.sched))
  ∧ (∀ old d d2 : Word, atomicNew .aadd old d d2 = wordOfInt (old.toInt + d.toInt) ∧ atomicNew .aand old d d2 = old &&& d
    ∧ atomicNew .aor old d d2 = old ||| d ∧ atomicNew .amin old d d2 = (if d.toInt < old.toInt then d else old)
    ∧ atomicNew .amax old d d2 = (if old.toInt < d.toInt then d else old) ∧ atomicNew .axch old d d2 = d
    ∧ atomicNew .acas old d d2 = (if old = d then d2 else old))
  ∧ (∀ (s : State) (a : Agent) (l : Nat) (v : Word) (r : Reservation), mfind s.reserved l = some r → r.agent = a →
    (∀ q ∈ s.waiters, q.loc ≠ l) → mfind s.tdu.bindings l = none →
    ∃ t, exec (.atomicFill a l v) s = .next t ∧ homeWord t l = v ∧ isFull t l = true ∧ mfind t.reserved l = none
      ∧ ∀ m, (m < l ∨ l + 8 ≤ m) → homeByte t m = homeByte s m)

/-- R55, R57, R111: bytes of one line that a core stores to its L1 data cache are the bytes that it loads from there under the same entry
and generation.
R73, R74, R76, R111: a write of a part of this device that no L1 cache takes is read back by the same actor, and leaves every byte outside the
part as it was, at its home and below it. (What host memory holds is the host's: log entry 3.)
R73, R77, R111: reading parts that no L1 cache takes changes no byte, no full bit, no poison and no cache line beyond what the holder caches'
replacement writes back (R89), which only a compute core's does. -/
def Obligations.MemoryReadsAndWrites : Prop :=
  (∀ (s : State) (a : Agent) (t : LineTag) (pa : Nat) (bs : List Byte), bs ≠ [] → pa % 64 + bs.length ≤ 64 →
    (l1Load (l1Store s a t pa bs) a t pa bs.length).1 = bs)
  ∧ (∀ (s : State) (x : Actor) (p : Part) (bs : List Byte) (b : Nat), ¬Cached x p → (∀ pa, p.place ≠ .hostMem pa) → p.place.loc = some b → p.n = bs.length →
    let t := writePart s x p bs
    (readPart t x p).1 = bs ∧ ∀ l, (l < b ∨ b + p.n ≤ l) → homeByte t l = homeByte s l ∧ hbmByte t l = hbmByte s l)
  ∧ (∀ (s : State) (x : Actor) (ps : List Part), (∀ p ∈ ps, ¬Cached x p) →
    let u := noteParts s x ps
    let t := (readParts s x ps).2.2
    SameMemory u t ∧ t.l1 = u.l1 ∧ t.mem = u.mem ∧ t.llc = u.llc ∧ t.cur = s.cur
      ∧ (∀ a n, (strandOf t a).reg n = (strandOf s a).reg n ∧ (strandOf t a).isEmpty n = (strandOf s a).isEmpty n)
      ∧ ((∀ a, x.agent = some a → a.kind ≠ .compute) → SameMemory s u ∧ u.l1 = s.l1))

/-! ## Fences, monitors, semaphores (spec/04, spec/05, spec/12) -/

/-- R124, R342: a fence, its register ready and none in progress, issues: its record names its scope, D and the slices touched (none below
scope d), D is empty, each slice has an echo on its way, and no register of the strand changes its value.
R124, R125: the echo of a slice where a request of the agent still waits comes again a cycle later; the last echo of a fence whose
other waits are over completes it: the record goes, the touched-slice masks clear for scopes d and s, D receives 0 (12 where a peer was
lost). -/
def Obligations.Fences : Prop :=
  (∀ (s : State) (d : GDst), Open s (gdstUse s d) →
    let u := if s.cur.kind = .compute then cleanMine s else s
    ∀ p ∈ [(Instr.fenceQ d, 0), (.fenceT d, 1), (.fenceD d, 2), (.fenceS d, 3)], ∃ t ready,
      let slices := if s.cur.kind = .compute ∧ 2 ≤ p.2 then touchedSlices (me u).str else []
      exec p.1 s = .next t ∧ (me t).fence = some ⟨p.2, dstOf s d, slices, ready, false⟩ ∧ s.cycle < ready
        ∧ (∀ n, dstOf s d = some n → (me t).isEmpty n = true) ∧ (∀ n, (me t).reg n = (me s).reg n)
        ∧ (∀ x ∈ slices, ∃ c, (c, Instr.fenceEcho s.cur x) ∈ t.sched))
  ∧ (∀ (s : State) (a : Agent) (x : Nat) (f : FenceRec), (strandOf s a).fence = some f →
    ((waitingOf s a).any (fun q => q.home = x) = true → exec (.fenceEcho a x) s = .next (post s 1 (.fenceEcho a x)))
    ∧ ((waitingOf s a).any (fun q => q.home = x) = false →
      let g := { f with slices := f.slices.filter (· ≠ x) }
      let u := modStrand s a fun r => { r with fence := some g }
      fenceOver u a g = true →
        ∃ t, exec (.fenceEcho a x) s = .next t ∧ (strandOf t a).fence = none
          ∧ (2 ≤ f.scope → (strandOf t a).str.tsm0 = 0 ∧ (strandOf t a).str.tsm1 = 0 ∧ (strandOf t a).str.tsm2 = 0)
          ∧ (∀ n, f.dst = some n → (strandOf t a).reg n = (if f.lost then 12 else 0) ∧ (strandOf t a).isEmpty n = false)
          ∧ (∀ n, f.dst ≠ some n → (strandOf t a).reg n = (strandOf s a).reg n) ∧ SameMemory s t))

/-- R148, R149, R344: MARM frees the slot's earlier entry, then arms the slot for the line where its home has a free entry and answers 0, or
leaves the slot disarmed and answers 1; MARM.dis disarms the slot, which clears its ARMED and HIT, frees its entry and answers 0.
R150, R345: MWAIT with a slot hit or a trap that can be taken returns at once with the result word and clears every HIT bit; else the
strand leaves the rotation with D empty, and a timeout above 0 is scheduled, in the strand's own cycles (R9), whose arrival ends the wait with
the timeout bit. -/
def Obligations.Monitors : Prop :=
  (∀ (s : State) (d : GDst) (a : Src) (k : Fin 4), s.cur.kind ≠ .engine →
    (Full s (gdstUse s d ++ srcUse s a) → ∀ ps, Granted s .marm (srcVal s a) 1 ps →
      let l := partLoc ps
      let others := s.monitors.filter fun m => !(m.agent == s.cur && m.slot == k.val)
      let free := decide ((others.filter fun m => m.home = homeOf s l).length < if homeOf s l < 1000 then 256 else 64)
      ∃ t, exec (.marm d a k) s = .next t
        ∧ (∀ n, dstOf s d = some n → (me t).reg n = (if free then 0 else 1) ∧ (me t).isEmpty n = false)
        ∧ (free = true → (me t).str.mon k.val = word (2 ^ 63) ||| (srcVal s a &&& maskOf 55 6))
        ∧ (free = false → bit ((me t).str.mon k.val) 63 = false ∧ bit ((me t).str.mon k.val) 62 = false)
        ∧ t.monitors = (if free then others ++ [⟨s.cur, k.val, l / 64, homeOf s l⟩] else others) ∧ SameMemory (noteParts s (myself s) ps) t)
    ∧ (Full s (gdstUse s d) → ∃ t, exec (.marmDis d k) s = .next t
        ∧ (∀ n, dstOf s d = some n → (me t).reg n = 0 ∧ (me t).isEmpty n = false) ∧ bit ((me t).str.mon k.val) 63 = false ∧ bit ((me t).str.mon k.val) 62 = false
        ∧ (∀ m ∈ t.monitors, ¬(m.agent = s.cur ∧ m.slot = k.val)) ∧ SameMemory s t))
  ∧ ((∀ (s : State) (d : GDst) (a : Src), s.cur.kind ≠ .engine → Full s (gdstUse s d ++ srcUse s a) →
    let u := [0, 1, 2, 3].foldl rearm s
    let t0 := mine s (srcVal s a).toNat
    ((hitSlots (me u).str ≠ 0 ∨ canTakeAsync (me u) = true) → ∃ t, exec (.mwait d a) s = .next t
      ∧ (∀ n, dstOf u d = some n → (me t).reg n = word (hitSlots (me u).str + if canTakeAsync (me u) then 32 else 0) ∧ (me t).isEmpty n = false)
      ∧ ∀ k, k < 4 → bit ((me t).str.mon k) 62 = false)
    ∧ (hitSlots (me u).str = 0 → canTakeAsync (me u) = false → ∃ t, exec (.mwait d a) s = .next t
      ∧ (me t).run = .mwait (dstOf u d) false ∧ (∀ n, dstOf u d = some n → (me t).isEmpty n = true)
      ∧ (t0 ≠ 0 → (u.cycle + t0, Instr.mwaitTimeout u.cur (u.cycle + t0)) ∈ t.sched)))
  ∧ ∀ (s : State) (a : Agent) (due : Nat) (dst : Option Nat) (res : Bool), (strandOf s a).run = .mwait dst res → due ≤ s.cycle →
    ∃ t, exec (.mwaitTimeout a due) s = .next t ∧ (strandOf t a).run = .ready
      ∧ ∀ n, dst = some n → (strandOf t a).isEmpty n = false ∧ (strandOf t a).reg n
        = word (hitSlots (strandOf s a).str + 16 + (if canTakeAsync (strandOf s a) then 32 else 0) + if res then 64 else 0))

/-- R152, R153, R346: the semaphore instructions outside stack cores. SEMRD sends the value word, SEMSET the word before its store, SEMSIG the
word after its signal, SEMW the word once the count meets the threshold, and parks until then; a signal adds its increment and saturates. -/
def Obligations.SemaphoreResults : Prop :=
  (∀ (s : State) (d : GDst) (a b : Src), s.cur.kind ≠ .stack → Open s (uses3 s d a b) →
    let i := fld (srcVal s a) 7 0
    let k := fld (srcVal s b) 15 0
    let tile := semTile s
    let u := semPut s tile i (word k)
    let w := semSignal s tile i k
    (∃ t, exec (.semset d a b) s = .next t ∧ Sent 4 u t (dstOf s d) (semOf s tile i) 0 4)
    ∧ (∃ t, exec (.semsig d a b) s = .next t ∧ Sent 4 w t (dstOf w d) (semOf w (semTile w) i) 0 4)
    ∧ (k ≤ semCount s tile i → ∃ t, exec (.semw d a b) s = .next t ∧ Sent 4 s t (dstOf s d) (semOf s tile i) 0 4)
    ∧ (semCount s tile i < k → exec (.semw d a b) s = .next (settleRes 4 (parkMe s (.sem tile i k (some (dstOf s d)))))))
  ∧ (∀ (s : State) (d : GDst) (a : Src), s.cur.kind ≠ .stack → Open s (gdstUse s d ++ srcUse s a) →
    ∃ t, exec (.semrd d a) s = .next t ∧ Sent 4 s t (dstOf s d) (semOf s (semTile s) (fld (srcVal s a) 7 0)) 0 4)
  ∧ ∀ (s : State) (t i k : Nat), semOf (semPut s t i (word k)) t i = word k
      ∧ semCount (semSignal s t i k) t i = min 65535 (semCount s t i + k)
      ∧ (65535 < semCount s t i + k → bit (semOf (semSignal s t i k) t i) 16 = true)

/-! ## The strand page (spec/05, spec/07, spec/14) -/

/-- R194, R405: SPAWN commits one launch to the TDU's queue, schedules a placement and answers 0; a full queue parks the strand.
R160, R407, R406, R413: EXIT outside a body, with the strand's events over, frees the context, of which the STR registers alone stay; YIELD gives up the strand's turns and is
remembered until the next round. -/
def Obligations.StrandLife : Prop :=
  (∀ (s : State) (d : GDst) (a b : Src), Full s (uses3 s d a b) →
    (s.tdu.spawns.length < 16384 → ∃ t, exec (.spawn d a b) s = .next t
      ∧ t.tdu.spawns = s.tdu.spawns ++ [⟨srcVal s a, srcVal s b, (myself s).asid, privOf s.cur (me s), none, 0, 0, s.cycle⟩]
      ∧ (∀ n, dstOf s d = some n → (me t).reg n = 0 ∧ (me t).isEmpty n = false)
      ∧ (∀ n, dstOf s d ≠ some n → (me t).reg n = (me s).reg n) ∧ (∃ c, (c, Instr.placement) ∈ t.sched) ∧ SameMemory s t)
    ∧ (16384 ≤ s.tdu.spawns.length → exec (.spawn d a b) s = .next (settleRes 4 (parkMe s .spawnFull))))
  ∧ ((∀ (s : State) (a : Src), Open s (srcUse s a) → inBody s = false → exitReady s s.cur = true →
    ∃ t, exec (.exit a) s = .next t ∧ t = endStrand s s.cur 0 (srcVal s a).toNat .ends ∧ ∃ r, strandOf t s.cur = { str := r })
  ∧ (∀ (s : State) (a : Src), Open s (srcUse s a) → inBody s = false → exitReady s s.cur = false →
    exec (.exit a) s = .next (settleRes 4 (parkMe s .exitWait)))
  ∧ ∀ s : State, ∃ t, exec .yield s = .next t ∧ Frame { s with cores := t.cores } t [] 0
      ∧ s.cur.ctx ∉ (coreOf t (coreKey s.cur)).turns ∧ s.cur.ctx ∈ (coreOf t (coreKey s.cur)).yielded)

/-- R157, R159, R408: TBIND makes or replaces the binding of its word, with status 0, or 4 where no entry is free; a full unbound word is
consumed at once. TUNB parks while a spawn of the word is pending, that of a ONCE binding gone at its commit too; else it removes the binding,
with status 0, or answers 6 where there is none. -/
def Obligations.Bindings : Prop :=
  (∀ (s : State) (d : GDst) (a b : Src), Open s (uses3 s d a b) → (srcVal s a).toNat % 8 = 0 → ∀ ps, Granted s .sync (srcVal s a) 8 ps →
    let l := partLoc ps
    let bd : Binding := ⟨srcVal s a, (myself s).asid, srcVal s b &&& maskOf 63 6, bit (srcVal s b) 0, privOf s.cur (me s)⟩
    let bound := (mfind s.tdu.bindings l).isSome
    let u := { s with tdu := { s.tdu with bindings := mset s.tdu.bindings l bd } }
    (bound = false → 16384 ≤ s.tdu.bindings.length → ∃ t, exec (.tbind d a b) s = .next t ∧ Sent 4 s t (dstOf s d) 4 0 Config.lat.tdu)
    ∧ (bound = true ∨ s.tdu.bindings.length < 16384 →
      let w := if bound = false ∧ isFull s l = true ∧ mfind s.tdu.boundFull l = none then commitBound u l (homeWord s l) else u
      ∃ t, exec (.tbind d a b) s = .next t ∧ Sent 4 w t (dstOf w d) 0 0 Config.lat.tdu))
  ∧ ∀ (s : State) (d : GDst) (a : Src), Open s (gdstUse s d ++ srcUse s a) → (srcVal s a).toNat % 8 = 0 →
    (∀ l, pendingAt s (srcVal s a) = some l → exec (.tunb d a) s = .next (settleRes 4 (parkMe s (.binding l))))
    ∧ (pendingAt s (srcVal s a) = none →
      (bindingAt s (srcVal s a) = none → ∃ t, exec (.tunb d a) s = .next t ∧ Sent 4 s t (dstOf s d) 6 0 Config.lat.tdu)
      ∧ ∀ l bd, bindingAt s (srcVal s a) = some (l, bd) →
        let u := serve { s with tdu := { s.tdu with bindings := mdel s.tdu.bindings l } } l
        ∃ t, exec (.tunb d a) s = .next t ∧ Sent 4 u t (dstOf s d) 0 0 Config.lat.tdu)

/-- R200, R409: RQPUT on a core answers 2 where the core is not enabled, 1 where the FIFO of its priority is full, else 0 with the value
queued; a take fills D with the head of the highest FIFO that is not empty and the next register with its priority; RQTAKE on empty queues
fills them with 0 and 256, RQTAKE.w parks. -/
def Obligations.ReadyQueues : Prop :=
  (∀ (s : State) (d : GDst) (a b : Src), s.cur.kind ≠ .stack → Open s (uses3 s d a b) →
    let core := myTile s * 8 + fld (srcVal s b) 2 0
    let p := fld (srcVal s b) 9 8
    let c := coreOf s core
    (c.regcap = 0 → ∃ t, exec (.rqput d a b) s = .next t ∧ Sent 4 s t (dstOf s d) 2 0 4)
    ∧ (c.regcap ≠ 0 → 64 ≤ (c.rq.filter fun e => e.1 = p).length → ∃ t, exec (.rqput d a b) s = .next t ∧ Sent 4 s t (dstOf s d) 1 0 4)
    ∧ (c.regcap ≠ 0 → (c.rq.filter fun e => e.1 = p).length < 64 → c.takers = [] →
      let u := modCore s core fun c => { c with rq := c.rq ++ [(p, srcVal s a)] }
      ∃ t, exec (.rqput d a b) s = .next t ∧ Sent 4 u t (dstOf s d) 0 0 4))
  ∧ ∀ (s : State) (n : Fin 128), s.cur.kind ≠ .stack →
    let d := GDst.g n
    let k := n.val + stagger (me s)
    Open s (gdstUse s d ++ [.g (k + 1)]) →
      (∀ p v q, rqHead (coreOf s (coreKey s.cur)) = some ((p, v), q) → ∀ i ∈ [Instr.rqtake d, .rqtakeW d], ∃ t, exec i s = .next t
        ∧ (coreOf t (coreKey s.cur)).rq = q ∧ (s.cycle + 4, Instr.resultArrival s.cur [(k, v), (k + 1, word p)] 0 0) ∈ t.sched
        ∧ (me t).isEmpty k = true ∧ (me t).isEmpty (k + 1) = true)
      ∧ (rqHead (coreOf s (coreKey s.cur)) = none →
        (∃ t, exec (.rqtake d) s = .next t ∧ (s.cycle + 4, Instr.resultArrival s.cur [(k, 0), (k + 1, 0x100)] 0 0) ∈ t.sched
          ∧ (me t).isEmpty k = true ∧ (me t).isEmpty (k + 1) = true)
        ∧ ∃ t, exec (.rqtakeW d) s = .next t ∧ (me t).run = .parked .rqtake ∧ (me t).pc = (me s).pc
          ∧ (s.cur.ctx, k) ∈ (coreOf t (coreKey s.cur)).takers)

/-- R154 to R156, R347: JOIN makes the strand a member or refuses with the lowest code of its table; LEAVE ends the membership; a member's
GBAR, every earlier event performed, counts its arrival, parks it and runs the phase; each of JOIN and LEAVE answers with the strand parked
until then. -/
def Obligations.GroupInstructions : Prop :=
  ∀ (s : State) (d : GDst) (a : Src), Open s (gdstUse s d ++ srcUse s a) →
    let id := (srcVal s a).toNat
    let k := groupKey (myself s).asid id
    let g := mfind s.tdu.groups k
    let ms := (g.map (·.members)).getD []
    let p := (me s).party
    let mine := (groupsOf s (myself s).asid p).length
    let member := isMember s (myself s).asid id p
    let answered := fun (u : State) (w : Nat) => Host.Outcome.next (φ := Fault) (ρ := Refusal) (settleRes 4 (answerLater u (dstOf s d) (word w) Config.lat.tdu))
    (2 ^ 28 ≤ id → exec (.join d a) s = answered s 5 ∧ exec (.leave d a) s = answered s 5
      ∧ ∃ t, exec (.gbar d a) s = .next t ∧ Sent 4 s t (dstOf s d) 5 0 Config.lat.tdu)
    ∧ (id < 2 ^ 28 →
      (ms.any (fun m => m.party == p) = true → exec (.join d a) s = answered s 2)
      ∧ (ms.any (fun m => m.party == p) = false → (4 ≤ mine ∨ 65535 ≤ ms.length) → exec (.join d a) s = answered s 3)
      ∧ (ms.any (fun m => m.party == p) = false → mine < 4 → ms.length < 65535 → g = none → 4096 ≤ s.tdu.groups.length →
        exec (.join d a) s = answered s 4)
      ∧ (ms.any (fun m => m.party == p) = false → mine < 4 → ms.length < 65535 → (g.isSome ∨ s.tdu.groups.length < 4096) →
        let req := !(ms.any (·.arrived)) && decide ((g.map (·.gone)).getD 0 = 0)
        exec (.join d a) s = answered (putGroup s k ⟨(g.map (·.phase)).getD 0, ms ++ [⟨p, false, req, false, none, none⟩], (g.map (·.gone)).getD 0⟩) 0)
      ∧ (member = false → exec (.leave d a) s = answered s 1 ∧ ∃ t, exec (.gbar d a) s = .next t ∧ Sent 4 s t (dstOf s d) 1 0 Config.lat.tdu)
      ∧ (member = true →
        exec (.leave d a) s = .next (settleRes 4 (answerLater (leaveGroup s k p) (dstOf s d) 0 Config.lat.tdu))
        ∧ (earlierPending s s.cur = false →
            let u := modStrand (emptyDst (fenceNow s s.cur) (dstOf s d)) s.cur fun r => advanced r 4
            exec (.gbar d a) s = .next (runPhase 3 (parkAs (arriveMember u k p (dstOf s d)) s.cur (.gbar k)) k))))

/-! ## Traps, returns, waits (spec/14, spec/15) -/

/-- R175, R411, R416, R419: a trap taken on a strand that runs no handler and has one: the record names the cause, the return PC, which is the
next instruction's for a software trap, the address, the repetition and the privilege; INTRAP is set, the repetition is not active, the
privilege is S, on the management core it stays F, the pc is at the handler; no general register changes, and nothing but the strand's record.
R419, R427: a synchronous trap taken while a handler runs kills the strand with cause 3, and one with no handler kills it with
cause 4. -/
def Obligations.TrapEntry : Prop :=
  (∀ (s : State) (a : Agent) (c : Trap) (len : Nat), a.kind ≠ .engine →
    let r := strandOf s a
    let b := if c.next then advanced r len else r
    bit r.str.txstat 63 = false → fld r.str.tvec 55 6 ≠ 0 → c.code < 256 →
    let t := takeTrap s a c len
    let r' := strandOf t a
    t = putStrand s a r' ∧ r'.pc = word (fld r.str.tvec 55 6 * 64)
      ∧ fld r'.str.tcause 63 56 = c.code ∧ fld r'.str.tcause 53 48 = c.flags % 64 ∧ fld r'.str.tcause 47 0 = c.info % 2 ^ 48
      ∧ r'.str.txpc = b.pc &&& maskOf 55 2 ∧ r'.str.txrep = b.str.rep ∧ r'.str.txreppc = r.str.reppc
      ∧ (c.next = true → bit r.str.rep 63 = false → r'.str.txpc = (r.pc + word len) &&& maskOf 55 2)
      ∧ r'.str.txva = c.va &&& maskOf 55 0 ∧ bit r'.str.rep 63 = false ∧ bit r'.str.txstat 63 = true
      ∧ fld r'.str.txstat 9 8 = privOf a r % 4 ∧ (a.kind ≠ .mgmt → privOf a r' = 1) ∧ (a.kind = .mgmt → privOf a r' = 2 ∧ r'.str.sched = r.str.sched)
      ∧ ∀ n, r'.reg n = r.reg n ∧ r'.isEmpty n = r.isEmpty n)
  ∧ (∀ (s : State) (a : Agent) (c : Trap) (len : Nat), a.kind ≠ .engine → c.xlate = none → c.holdf = none →
    let r := strandOf s a
    (bit r.str.txstat 63 = true → takeTrap s a c len = killStrand (putStrand s a r) a 3 0)
    ∧ (bit r.str.txstat 63 = false → fld r.str.tvec 55 6 = 0 → takeTrap s a c len = killStrand (putStrand s a { trapEntered a r c len with pc := r.pc }) a 4 0))

/-- R411, R420: TRAP takes the software trap with a[47:0] in INFO and the next instruction as its return PC; RFT restores the pc, the
privilege and the repetition from the record and clears INTRAP; RFT at U, and outside the management core with a saved privilege above S,
traps ILLEGAL.
R412: HALT stops a management strand behind itself and is illegal for every other; WAIT goes on where a trap can be taken, else leaves the
rotation with its timeout, in its own cycles (R9), scheduled, which ends it. -/
def Obligations.TrapReturnHaltAndWait : Prop :=
  ((∀ (s : State) (a : Src), Full s (srcUse s a) →
    exec (.trap a) s = .next (takeTrap s s.cur { code := 11, info := fld (srcVal s a) 47 0, next := true } 4))
  ∧ ∀ s : State,
    (privOf s.cur (me s) = 0 → exec .rft s = .next (takeTrap s s.cur { code := 1 } 4))
    ∧ (s.cur.kind ≠ .mgmt → 1 < fld (me s).str.txstat 9 8 → exec .rft s = .next (takeTrap s s.cur { code := 1 } 4))
    ∧ (privOf s.cur (me s) ≠ 0 → inBody s = false → (s.cur.kind = .mgmt ∨ fld (me s).str.txstat 9 8 ≤ 1) →
      ∃ t, exec .rft s = .next t ∧ t = putStrand s s.cur (me t) ∧ (me t).pc = (me s).str.txpc ∧ (me t).str.rep = (me s).str.txrep
        ∧ (me t).str.reppc = (me s).str.txreppc ∧ bit (me t).str.txstat 63 = false
        ∧ (s.cur.kind = .compute ∨ s.cur.kind = .stack → privOf s.cur (me t) = fld (me s).str.txstat 9 8)
        ∧ ∀ n, (me t).reg n = (me s).reg n ∧ (me t).isEmpty n = (me s).isEmpty n))
  ∧ ((∀ s : State, (privOf s.cur (me s) ≠ 2 → exec .halt s = .next (takeTrap s s.cur { code := 1 } 4))
    ∧ (privOf s.cur (me s) = 2 → ∃ t, exec .halt s = .next t ∧ (me t).run = .halted none
      ∧ (inBody s = false → (me t).pc = (me s).pc + 4) ∧ ∀ n, (me t).reg n = (me s).reg n))
  ∧ (∀ (s : State) (a : Src), Full s (srcUse s a) →
    let t0 := mine s (srcVal s a).toNat
    (canTakeAsync (me s) = true → ∃ t, exec (.wait a) s = .next t ∧ Wrote 4 s t none 0 0)
    ∧ (canTakeAsync (me s) = false → ∃ t, exec (.wait a) s = .next t ∧ (me t).run = .wait
      ∧ (inBody s = false → (me t).pc = (me s).pc + 4) ∧ (∀ n, (me t).reg n = (me s).reg n)
      ∧ (t0 ≠ 0 → (s.cycle + t0, Instr.waitTimeout s.cur (s.cycle + t0)) ∈ t.sched)))
  ∧ ∀ (s : State) (a : Agent) (due : Nat), (strandOf s a).run = .wait → due ≤ s.cycle →
    ∃ t, exec (.waitTimeout a due) s = .next t ∧ (strandOf t a).run = .ready ∧ ∀ n, (strandOf t a).reg n = (strandOf s a).reg n)

/-- R202, R421: an expired timer reloads or stops and leaves its trap pending; a strand in the rotation takes the pending trap that comes
first: PREEMPT, FABRICLOSS, MESHALARM, TIMER; one in a handler, or between an atomic's Take and its Fill (R145), takes none. -/
def Obligations.AsynchronousTraps : Prop :=
  ∀ (s : State) (a : Agent),
    let r := strandOf s a
    let p := r.pending
    (r.run ≠ .free → ∃ t, exec (.strandTimerExpiry a) s = .next t ∧ (strandOf t a).pending = { p with timer := true }
      ∧ fld (strandOf t a).str.timer 31 0 = (if bit r.str.timer 62 then fld r.str.timer 61 32 else fld r.str.timer 31 0)
      ∧ bit (strandOf t a).str.timer 63 = (bit r.str.timer 63 && bit r.str.timer 62))
    ∧ ((inTrap r = true ∨ betweenHalves s a = true) → exec (.asyncTrapEntry a) s = .next s)
    ∧ (inTrap r = false → betweenHalves s a = false → r.run = .ready →
      let go := fun (c : Trap) (q : Pending) => exec (.asyncTrapEntry a) s = .next (takeTrap (modStrand s a fun r => { r with pending := q, clauseOk := false }) a c 0)
      (p.preempt = true → go { code := 17 } { p with preempt := false })
      ∧ (p.preempt = false → ∀ chip, p.fabricLoss = some chip → go { code := 19, info := chip % 4096 } { p with fabricLoss := none })
      ∧ (p.preempt = false → p.fabricLoss = none → ∀ i, p.meshAlarm = some i → go { code := 18, info := i % 4 } { p with meshAlarm := none })
      ∧ (p.preempt = false → p.fabricLoss = none → p.meshAlarm = none → p.timer = true → go { code := 16 } { p with timer := false }))

/-! ## System registers (spec/14) -/

/-- R292, R293, R413, R414: SRR of a register that exists, that the strand's privilege may read and that need not wait writes its value to D at
once and clears the fields that a read clears; SRW of one that the privilege may write performs the write.
R10, R235, R360, R413: a write at U of STR.FPCTL or STR.VFLAGS by a compute strand changes the writable fields alone: FPCTL keeps bits
outside [5:0], [13:8] and 20, VFLAGS bits outside [5:0]; every general register and all of memory stay.
R291, R413, R414: an access to a register number that does not exist, or of a unit that does not, or beyond the privilege, traps ILLEGAL with
no effect; at U only STR.FPCTL, STR.SYNCRETRY, STR.TIMER and STR.VFLAGS may be written. -/
def Obligations.SystemRegisters : Prop :=
  (((∀ (s : State) (d : GDst) (n : BitVec 16) (r : SysReg) (a : Agent), Full s (gdstUse s d) → sysRegOf n.toNat = some r → accessUnit s r = some a →
    (privOf s.cur (me s) ≠ 0 ∨ readableAtU r = true) → readWaits s r = false →
    ∃ t, exec (.srr d n) s = .next t ∧ t = wentOn 4 (putDst (clearRead s a r) (dstOf s d) (sysRead s a r)))
  ∧ ∀ (s : State) (d : Src) (n : BitVec 16) (r : SysReg) (a : Agent), Full s (srcUse s d) → sysRegOf n.toNat = some r → accessUnit s r = some a →
    (privOf s.cur (me s) ≠ 0 ∨ writableAtU r = true) →
    ∃ t, exec (.srw d n) s = .next t ∧ t = settleRes 4 (sysWrite s a r (srcVal s d)))
  ∧ (∀ (s : State) (d : Src), s.cur.kind = .compute → Full s (srcUse s d) →
    (∃ t, exec (.srw d 6) s = .next t ∧ (∀ i, bit (me t).str.fpctl i = if i ≤ 5 ∨ (8 ≤ i ∧ i ≤ 13) ∨ i = 20 then bit (srcVal s d) i else bit (me s).str.fpctl i)
      ∧ (∀ n, (me t).reg n = (me s).reg n) ∧ SameMemory s t)
    ∧ ∃ t, exec (.srw d 0x20) s = .next t ∧ (∀ i, bit (me t).str.vflags i = if i ≤ 5 then bit (srcVal s d) i else bit (me s).str.vflags i)
      ∧ (∀ n, (me t).reg n = (me s).reg n) ∧ SameMemory s t))
  ∧ (∀ (s : State) (d : GDst) (v : Src) (n : BitVec 16),
    (sysRegOf n.toNat = none ∨ (∃ r, sysRegOf n.toNat = some r ∧ accessUnit s r = none) →
      (Full s (gdstUse s d) → exec (.srr d n) s = .next (takeTrap s s.cur { code := 1 } 4))
      ∧ (Full s (srcUse s v) → exec (.srw v n) s = .next (takeTrap s s.cur { code := 1 } 4)))
    ∧ (privOf s.cur (me s) = 0 →
      (Full s (gdstUse s d) → (n.toNat / 4096 = 6 ∨ (n.toNat / 4096 = 5 ∧ 4 < n.toNat % 4096)) → exec (.srr d n) s = .next (takeTrap s s.cur { code := 1 } 4))
      ∧ (Full s (srcUse s v) → n.toNat ≠ 6 → n.toNat ≠ 7 → n.toNat ≠ 8 → n.toNat ≠ 0x20 → exec (.srw v n) s = .next (takeTrap s s.cur { code := 1 } 4))))

/-! ## Long vectors (spec/13) -/

/-- R364 to R373, R375: every long-vector instruction with a long-vector result, well formed and ready, writes its lanes and leaves the rest.
R241, R374: VMMA, well formed and ready, writes element (i, j) of the 8 by 16 result to lane 16 × i + j.
R225, R371: VQNT, well formed and ready, quantises each group of 32 lanes to MX elements, stored packed from bit 0, with the scale code of
group k in byte 480 + k.
R364, R366, R218: on integer types the lanes of VADD, VSUB and VMUL are the exact results modulo 2^w, and those of VMIN and VMAX the lesser
and the greater signed lane; no flag is raised. -/
def Obligations.VectorResults : Prop :=
  ((∀ (s : State) (t x : LTy) (d : LReg) (a b : LSrc) (m : LReg) (ga gb : Src) (op : ScanOp) (ex sat : Bool) (lg : BitVec 4) (part : BitVec 3)
    (r : Rm) (fn : BitVec 6) (f : Fin 6),
    ∀ p ∈ vectorTable s t x d a b m ga gb op ex sat lg part r fn f, wellFormed p.1 = true → VReady s (vectorUses s d a b m ga gb p.1) →
      ∃ u, exec p.1 s = .next u ∧ VWrote s u (lregOf s d) p.2.1 p.2.2.1 p.2.2.2.1 p.2.2.2.2.1 p.2.2.2.2.2)
  ∧ (∀ (s : State) (t : LTy) (d : LReg) (c : BitVec 3) (a b : LReg), wellFormed (.vmma t d c a b) = true →
    VReady s [.lv (lregOf s d), .lv (lregOf s a), .lv (lregOf s b), .lv (lregOf s b + 1)] →
    ∃ u, exec (.vmma t d c a b) s = .next u
      ∧ VWrote s u (lregOf s d) 32 128 (fun n => (mmaElement s t d c.toNat a b (n / 16) (n % 16)).1)
        (laneFlags 128 fun n => mmaElement s t d c.toNat a b (n / 16) (n % 16)) 16)
  ∧ (∀ (s : State) (d : LReg) (a : LSrc) (x : LTy) (r : Rm) (f : Fin 6), wellFormed (.vqnt d a x r f) = true →
    VReady s ([.lv (lregOf s d)] ++ lsrcUse s a) →
    let block := fun k => quantBlock x.fmt ((List.range 32).map fun i => laneNum x ((lsrcLanes s x a).getD (32 * k + i) 0)) (mxFmt f) r
    let w := (mxFmt f).width
    ∃ u, exec (.vqnt d a x r f) s = .next u
      ∧ (∀ k, k < x.lanes / 32 → laneOf (lvVal u (lregOf s d)) 8 (480 + k) = (block k).1 % 256
        ∧ ∀ i, i < 32 → laneOf (lvVal u (lregOf s d)) w (32 * k + i) = (block k).2.1.getD i 0 % 2 ^ w)
      ∧ (∀ n, n ≠ lregOf s d → lvVal u n = lvVal s n) ∧ SameMemory s u ∧ ∀ n, (me u).reg n = (me s).reg n))
  ∧ (∀ (t : LTy) (x y : Nat), t.int3 = true → x < 2 ^ t.width → y < 2 ^ t.width →
    let u := signedOf t.width x
    let v := signedOf t.width y
    laneAdd t x y = (wrap t.width (u + v), 0)
    ∧ laneOp t (· - ·) (fun p a b => p.add .rn a (if b.isNan then b else b.neg)) x y = (wrap t.width (u - v), 0)
    ∧ laneOp t (· * ·) (fun p a b => p.mul .rn a b) x y = (wrap t.width (u * v), 0)
    ∧ laneMinMax false t x y = (if u ≤ v then x else y, 0) ∧ laneMinMax true t x y = (if v ≤ u then x else y, 0))

/-- R21, R361, R362: VLD and VST of a 64-byte aligned address in the own-quad scratchpad whose access is granted move the 512 bytes, byte j of
the register at address j; a misaligned address traps MISALIGNED.
R363: a VST into what the staging of an accepted pass has still to read is tried again. -/
def Obligations.VectorMemory : Prop :=
  ∀ (s : State) (d : LReg) (a : Src) (o : BitVec 8), VReady s ([.lv (lregOf s d)] ++ srcUse s a) →
    let va := srcVal s a + wordOfInt (o.toInt * 512)
    (va.toNat % 64 ≠ 0 → exec (.vld d a o) s = .next (takeTrap s s.cur { code := 4, va := va } 4)
      ∧ exec (.vst d a o) s = .next (takeTrap s s.cur { code := 4, va := va } 4))
    ∧ (va.toNat % 64 = 0 → winBase ≤ va.toNat → va.toNat + 512 ≤ winBase + 2 ^ 23 →
      (∀ ps, Granted s .load va 512 ps → poisonedVa s (myself s) ps = none →
        ∃ t, exec (.vld d a o) s = .next t ∧ (∀ j, j < 512 → laneOf (lvVal t (lregOf s d)) 8 j = ((readParts s (myself s) ps).1.getD j 0).toNat)
          ∧ (∀ n, n ≠ lregOf s d → lvVal t n = lvVal s n) ∧ SameMemory s t)
      ∧ ∀ ps, Granted s .store va 512 ps →
        (stagingHeld s ps = true → exec (.vst d a o) s = .next (settleRes 4 (retryMe s 1)))
        ∧ (stagingHeld s ps = false → ∃ t, exec (.vst d a o) s = .next t ∧ (∀ n, lvVal t n = lvVal s n)
          ∧ SameMemory (writeParts s (myself s) ps ((List.range 512).map fun j => BitVec.ofNat 8 (laneOf (lvVal s (lregOf s d)) 8 j))) t))

/-- R176, R361: VENTER on a core whose lease is free, with nobody waiting and nothing queued or executing, takes the lease with the bank
cleared and changes no register; with the lease held it is illegal; in every other case the strand parks with its pc kept and stands in
the lease queue. The grant gives a free lease of an idle core to the first in the queue, with the bank cleared, and lets it go on; with the
lease held, the core busy or nobody waiting it changes nothing. VEXIT without the lease is illegal.
R178, R361: VEXIT with the lease, ready, releases it where the dispatch queue is empty and stands in the queue where it is not; no register
changes.
R178: the WVU puts the end of what it starts its latency away, and with it the registers and flags that it delivers. An end takes what is
due from what executes; a VEXIT it finds at the queue's head leaves the queue and releases its strand's lease.
R375: VMOVG, ready, stands in the dispatch queue with 64-bit lane b[5:0] for D, whose register is empty; no register changes its value. -/
def Obligations.VectorLease : Prop :=
  (∀ s : State, s.cur.kind = .compute → (me s).fence = none →
    let k := coreKey s.cur
    let c := coreOf s k
    (c.lease = none → c.leaseQueue = [] → vectorIdle c = true → ∃ t, exec .venter s = .next t ∧ (coreOf t k).lease = some s.cur.ctx
      ∧ (∀ n, lvVal t n = 0) ∧ Frame { s with cores := t.cores } t [] 0 ∧ Passed 4 s t)
    ∧ (c.lease = some s.cur.ctx → exec .venter s = .next (takeTrap s s.cur { code := 1 } 4))
    ∧ (c.lease ≠ some s.cur.ctx → (c.lease.isSome ∨ c.leaseQueue ≠ [] ∨ vectorIdle c = false) →
      ∃ t, exec .venter s = .next t ∧ (me t).run = .parked .lease ∧ (me t).pc = (me s).pc ∧ (coreOf t k).leaseQueue = c.leaseQueue ++ [s.cur.ctx]
        ∧ (coreOf t k).lease = c.lease)
    ∧ (c.lease ≠ some s.cur.ctx → exec .vexit s = .next (takeTrap s s.cur { code := 1 } 4)))
  ∧ (∀ (s : State) (core : Nat),
    (∀ ctx q, (coreOf s core).leaseQueue = ctx :: q → (coreOf s core).lease = none → vectorIdle (coreOf s core) = true →
      ∃ t, exec (.leaseGrant core) s = .next t ∧ (coreOf t core).lease = some ctx ∧ (coreOf t core).leaseQueue = q ∧ (coreOf t core).lv = []
        ∧ (strandOf t ⟨.compute, core, ctx⟩).run = .ready)
    ∧ (((coreOf s core).leaseQueue = [] ∨ (coreOf s core).lease.isSome ∨ vectorIdle (coreOf s core) = false) → exec (.leaseGrant core) s = .next s))
  ∧ (∀ s : State, VReady s [] →
    let k := coreKey s.cur
    ∃ t, exec .vexit s = .next t ∧ (∀ n, (me t).reg n = (me s).reg n ∧ (me t).isEmpty n = (me s).isEmpty n) ∧ Passed 4 s t ∧ SameMemory s t
      ∧ ((coreOf s k).dispatch = [] → (coreOf t k).lease = none ∧ (coreOf t k).dispatch = [])
      ∧ ∀ v r, (coreOf s k).dispatch = v :: r → v.kind ≠ 0 →
        (coreOf t k).lease = some s.cur.ctx ∧ (coreOf t k).dispatch = (coreOf s k).dispatch ++ [⟨s.cur, 0, 0, 0, [], [], [], 0, 0⟩])
  ∧ ((∀ (s : State) (q k : Nat) (v : VecOp), wvuChoice s q = some (k, v) →
      let d := ownCycles s ⟨.compute, k, 0⟩ v.lat
      (s.cycle + d, Instr.wvuComplete k) ∈ (wvuCycle s q).sched
        ∧ (v.gs ≠ [] ∨ v.flags ≠ 0 → (s.cycle + d, Instr.resultArrival v.by_ (v.gs ++ ownMark) 0 v.flags) ∈ (wvuCycle s q).sched))
    ∧ ∀ (s : State) (core : Nat),
      let c := coreOf s core
      ∃ t, exec (.wvuComplete core) s = .next t ∧ (coreOf t core).flying = (c.flying.filter fun v => s.cycle < v.due) ∧ SameMemory s t
        ∧ (∀ a n, (strandOf t a).reg n = (strandOf s a).reg n)
        ∧ ((∀ v r, c.dispatch = v :: r → v.kind ≠ 0) → (coreOf t core).dispatch = c.dispatch ∧ (coreOf t core).lease = c.lease)
        ∧ ∀ v r, c.dispatch = v :: r → v.kind = 0 → (∀ w r', r = w :: r' → w.kind ≠ 0) →
          (coreOf t core).dispatch = r ∧ (coreOf t core).lease = if c.lease = some v.by_.ctx then none else c.lease)
  ∧ ∀ (s : State) (d : GDst) (a : LReg) (b : Src), VReady s (gdstUse s d ++ [.lv (lregOf s a)] ++ srcUse s b) →
    let k := coreKey s.cur
    let w := word (laneOf (lvVal s (lregOf s a)) 64 (fld (srcVal s b) 5 0))
    ∃ t, exec (.vmovg d a b) s = .next t
      ∧ (coreOf t k).dispatch = (coreOf s k).dispatch
        ++ [⟨s.cur, 1, 0, 8, [lregOf s a], [], (match dstOf s d with | some n => [(n, w)] | none => []), 0, 0⟩]
      ∧ (∀ n, (me t).reg n = (me s).reg n ∧ (me t).isEmpty n = ((me s).isEmpty n || decide (dstOf s d = some n))) ∧ Passed 4 s t ∧ SameMemory s t

/-! ## Tokens (spec/03, spec/12) -/

/-- R92, R94 to R97, R348 to R353: each token instruction, ready, its addresses canonical, empties D, moves the pc on and parks until its
answer. Where no entry that it names is in transit or waited for, its operation is carried out: LEND and TRET begin a transfer, which
reports to D, or answer their status word; SHARE, UNSHR, SPLIT and MERGE change the entries and answer it; TQRY answers the query word; the
answer is for D and brings the signal. Otherwise the operation joins those that wait.
R348: an address with a bit above 55 set traps NONCANON, the first address first. -/
def Obligations.TokenInstructions : Prop :=
  ∀ (s : State) (d : GDst) (a b : Src) (c : Clauses), ∀ p ∈ tokenTable s d a b c,
    TokenReady s (gdstUse s d ++ p.2.2.2.1) p.2.2.1 →
      let len := p.2.1
      let op := p.2.2.2.2.1
      let vas := p.2.2.2.2.2
      let u := emptyDst s (dstOf s d)
      let keys := tokenKeys u (myself s) op (vas.headD 0)
      (vas.find? (fun v => 2 ^ 56 ≤ v.toNat) = none →
        (mustWait u u.tokenQueue keys = false → Live s → exec p.1 s = .next (tokenDone len s u d p.2.2.1 op (vas.headD 0)))
        ∧ (mustWait u u.tokenQueue keys = true → exec p.1 s = .next (wentOn len
          (parkAs (waitToken u keys (.strand s.cur (myself s) op (vas.headD 0) (dstOf s d) p.2.2.1.sig)) s.cur .answer))))
      ∧ ∀ v, vas.find? (fun v => 2 ^ 56 ≤ v.toNat) = some v →
        exec p.1 s = .next (takeTrap s s.cur { code := 5, va := v, xlate := some (xlateWord 1 0 0 v.toNat) } len)

/-- R93, R94, R350: a LEND or TRET answers the lowest code whose condition holds, else 0, and then begins a transfer: LEND, of a region in EXCL
or GROUP by a party that may operate on it, names the receiver as the next holder, and as the lender the one recorded, else the old holder,
none for LEND.give; TRET, by the holder of a lent region, names the lender and clears it. An address in no region answers 1.
R94, R95, R351: SHARE answers the lowest code whose condition holds and then changes nothing; else n shares more are recorded for the receiver and
in the entry, which is SHARED, under the next generation if it was EXCL; every line of the region is clean. UNSHR takes n shares off the
record that the issuer matches (log entry 76: the first) and off the entry, which is EXCL again under the same holder and generation when none
is left; nothing is written back.
R94, R96, R352: SPLIT leaves the entry below the cut and makes a free entry the rest, MERGE lets the lower entry grow and frees the upper; each
generation rises by 1, the other entries and the share records stay.
R97, R353: the query word, field by field.
R98: a transfer begins with TRANSIT set and, where a strand or the runtime gives, no L1 line of the region left; its completion follows.
A transfer of a strand whose receiver has not gone completes: its entry has the new holder, lender and state, the range that it had, and
is out of transit; the transfer is gone; where the issuer is still in its context, its destination holds the status word 0 with the entry. -/
def Obligations.TransferRules : Prop :=
  (∀ (s : State) (x : Actor) (key : Nat) (e : Entry) (b : Word),
    let p : Party := b.setWidth 32
    let n := fld b 39 32
    let lost := isLostPeer s e.holder = true
    (∀ give : Bool, lendStatus s x (some (key, e)) b give =
      if mayOperate s x e = false then (2, none) else if e.state = 3 ∨ e.state = 5 ∨ e.state = 6 then (3, none) else if e.state = 2 then (4, none)
      else if fld b 63 32 ≠ 0 ∨ receiverOk s key e p = false ∨ (give = true ∧ (partyKind p = 5 ∨ partyKind p = 6)) ∨ (e.state = 4 ∧ belowCache p = true) then (6, none)
      else if isLostPeer s p = true ∨ lost then (12, none)
      else (0, some ⟨p, if give then 0 else if e.lender = 0 then e.holder else e.lender, stateFor p, x.agent, none, none, none, none, (x.asid, x.party), none⟩))
    ∧ (tretStatus s x (some (key, e)) =
      if matchesParty s x e.holder = false then (2, none) else if e.state = 3 ∨ e.state = 5 ∨ e.state = 6 then (3, none) else if e.state = 2 then (4, none)
      else if e.lender = 0 then (5, none) else if isLostPeer s e.lender = true ∨ lost then (12, none)
      else (0, some ⟨e.lender, 0, stateFor e.lender, x.agent, none, none, none, none, (x.asid, x.party), none⟩))
    ∧ (∀ give, lendStatus s x none b give = (1, none)) ∧ tretStatus s x none = (1, none)
    ∧ (let old := s.shares.find? fun (_, y) => y.entry = key ∧ y.party = p
      let held := (old.map (·.2.count)).getD 0
      let j := match old with | some y => y.1 | none => (allocShare s key).getD 0
      let r := shareOp s x (some (key, e)) b
      shareOp s x none b = (1, s)
      ∧ r.1 = (if mayOperate s x e = false then 2 else if e.state = 4 ∨ (e.state = 1 ∧ partyKind e.holder = 2) ∨ e.state = 3 ∨ e.state = 5 ∨ e.state = 6 then 3
        else if fld b 63 40 ≠ 0 ∨ receiverOk s key e p = false then 6
        else if n ≠ 0 ∧ ((old = none ∧ allocShare s key = none) ∨ 65535 < held + n ∨ 65535 < e.shares + n) then 10
        else if isLostPeer s p = true ∨ lost then 12 else 0)
      ∧ (r.1 ≠ 0 ∨ n = 0 → r.2 = s)
      ∧ (r.1 = 0 → n ≠ 0 → mfind r.2.shares j = some ⟨key, held + n, p⟩ ∧ (∀ i, i ≠ j → mfind r.2.shares i = mfind s.shares i)
        ∧ entryOf r.2 key = { e with shares := e.shares + n, state := 2, gen := if e.state = 1 then e.gen + 1 else e.gen }
        ∧ (∀ k, k ≠ key → entryOf r.2 k = entryOf s k) ∧ ∀ l ∈ r.2.l1, l.entry = key ∨ e.covers l = true → l.dirty = 0)))
  ∧ (∀ (s : State) (x : Actor) (key : Nat) (e : Entry), entryOf s key = e → ∀ (n : Nat) (cut : Word),
    let old := s.shares.find? fun (_, y) => y.entry = key ∧ y.count ≠ 0 ∧ matchesParty s x y.party
    let r := unshrOp s x (some (key, e)) n
    let q := splitOp s x (some (key, e)) cut
    let lost := isLostPeer s e.holder = true
    unshrOp s x none n = (1, s) ∧ splitOp s x none cut = (1, 0, s)
    ∧ r.1 = (if old = none then 2 else if e.state ≠ 2 ∧ e.state ≠ 5 ∧ e.state ≠ 6 then 3 else if (old.map (·.2.count)).getD 0 < n then 11 else if lost then 12 else 0)
    ∧ (r.1 ≠ 0 ∨ n = 0 → r.2 = s)
    ∧ (∀ j y, old = some (j, y) → mfind s.shares j = some y → r.1 = 0 → n ≠ 0 →
      mfind r.2.shares j = (if y.count = n then none else some { y with count := y.count - n }) ∧ (∀ i, i ≠ j → mfind r.2.shares i = mfind s.shares i)
      ∧ entryOf r.2 key = { e with shares := e.shares - n, state := if e.shares - n = 0 ∧ e.state = 2 then (if e.thenLost then 6 else 1) else e.state }
      ∧ (∀ k, k ≠ key → entryOf r.2 k = entryOf s k) ∧ r.2.mem = s.mem ∧ r.2.llc = s.llc ∧ r.2.l1 = s.l1)
    ∧ q.1 = (if mayOperate s x e = false then 2 else if e.state = 2 ∨ e.state = 3 ∨ e.state = 5 ∨ e.state = 6 then 3
      else if cut.toNat % 256 ≠ 0 ∨ cut.toNat / 256 ≤ e.base ∨ e.base + e.len ≤ cut.toNat / 256 then 7
      else if allocEntry s key = none then 9 else if lost then 12 else 0)
    ∧ (q.1 ≠ 0 → q.2.2 = s)
    ∧ (q.1 = 0 → e.state ≠ 0 → ∀ up, allocEntry s key = some up → q.2.1 = up
      ∧ entryOf q.2.2 up = { e with base := cut.toNat / 256, len := e.base + e.len - cut.toNat / 256, gen := (entryOf s up).gen + 1 }
      ∧ entryOf q.2.2 key = { e with len := cut.toNat / 256 - e.base, gen := e.gen + 1 }
      ∧ (∀ k, k ≠ key → k ≠ up → entryOf q.2.2 k = entryOf s k) ∧ q.2.2.shares = s.shares
      ∧ (e.gen ≠ 0xFFFF → (entryOf s up).gen ≠ 0xFFFF → q.2.2.mem = s.mem ∧ q.2.2.llc = s.llc ∧ q.2.2.l1 = s.l1)))
  ∧ (∀ (s : State) (x : Actor) (k1 k2 : Nat) (e1 e2 : Entry),
    let r := mergeOp s x (some (k1, e1)) (some (k2, e2))
    (∀ o, mergeOp s x none o = (1, s) ∧ mergeOp s x o none = (1, s))
    ∧ r.1 = (if mayOperate s x e1 = false ∨ mayOperate s x e2 = false then 2
      else if e1.state = 3 ∨ e1.state = 5 ∨ e1.state = 6 ∨ e2.state = 3 ∨ e2.state = 5 ∨ e2.state = 6 then 3
      else if e1.shares ≠ 0 ∨ e2.shares ≠ 0 ∨ e1.state = 2 ∨ e2.state = 2 then 4
      else if k1 = k2 ∨ e1.base + e1.len ≠ e2.base ∨ e1.holder ≠ e2.holder ∨ e1.lender ≠ e2.lender ∨ e1.state ≠ e2.state then 8
      else if isLostPeer s e1.holder = true ∨ isLostPeer s e2.holder = true then 12 else if badRange e1.base (e1.len + e2.len) = true then 14 else 0)
    ∧ (r.1 ≠ 0 → r.2 = s)
    ∧ (r.1 = 0 → entryOf r.2 k1 = { e1 with len := e1.len + e2.len, gen := e1.gen + 1 } ∧ entryOf r.2 k2 = { gen := (entryOf s k2).gen + 1 }
      ∧ (∀ k, k ≠ k1 → k ≠ k2 → entryOf r.2 k = entryOf s k) ∧ r.2.shares = s.shares))
  ∧ (∀ (s : State) (x : Actor) (key : Nat) (e : Entry), e.state < 16 → e.shares < 65536 →
    let w := queryWord s x (some (key, e))
    queryWord s x none = 0 ∧ fld w 63 60 = e.state ∧ bit w 57 = decide (e.lender ≠ 0) ∧ bit w 56 = decide (65536 ≤ key) ∧ fld w 55 48 = 0
    ∧ fld w 59 58 = (if matchesParty s x e.holder then (if partyKind e.holder = 2 then 3 else 1) else if hasShare s x key then 2 else 0)
    ∧ fld w 47 32 = e.gen.toNat ∧ fld w 31 16 = e.shares ∧ (key < 65536 → fld w 15 0 = key) ∧ (65536 ≤ key → fld w 15 0 = (key - 65536) % 32))
  ∧ (∀ (s : State) (key : Nat) (t : Transfer),
    let u := beginTransfer s key t
    entryOf u key = { entryOf s key with transit := true } ∧ (∀ k, k ≠ key → entryOf u k = entryOf s k) ∧ mfind u.transfers key = some t
      ∧ (∃ d, s.cycle ≤ d ∧ (d, .transferComplete key) ∈ u.sched)
      ∧ (partyKind (entryOf s key).holder = 1 ∨ partyKind (entryOf s key).holder = 7 → ∀ l ∈ u.l1, l.entry ≠ key ∧ (entryOf s key).covers l = false))
  ∧ (∀ (s : State) (key : Nat) (t : Transfer), mfind s.transfers key = some t → t.runtime = none → t.via = none → t.gone = none →
    ∃ u, exec (.transferComplete key) s = .next u ∧ (entryOf u key).holder = t.holder ∧ (entryOf u key).lender = t.lender
      ∧ (entryOf u key).state = t.state ∧ (entryOf u key).transit = false ∧ (entryOf u key).gen = (entryOf s key).gen + 1
      ∧ (entryOf u key).base = (entryOf s key).base ∧ (entryOf u key).len = (entryOf s key).len ∧ mfind u.transfers key = none
      ∧ ∀ a n, t.who = some a → t.dst = some n → holds s a t.whose = true →
        (strandOf u a).reg n = tokenWord (some key) 0 ∧ (strandOf u a).isEmpty n = false)

/-! ## Mesh and kicks (spec/09, spec/13, spec/14) -/

/-- R179, R376, R377: a mesh request of a compute strand, ready, its clauses met and its core's queue not full, enters the queue with its captured
operands, its destination is empty, the acceptance is looked at in the next cycle, and the strand parks. -/
def Obligations.MeshRequestsIssue : Prop :=
  ∀ (s : State) (d : GDst) (a b : Src) (c : Clauses),
    ∀ p ∈ meshTable s d a b c, Open s (gdstUse s d ++ p.2.2.1) → clauseIllegal s c = false → Waited s c →
      (coreOf s (coreKey s.cur)).meshQueue.length < meshDepth →
      ∃ t, exec p.1 s = .next t ∧ (me t).run = .parked .mesh ∧ (me t).pc = (me s).pc
        ∧ (coreOf t (coreKey s.cur)).meshQueue = (coreOf s (coreKey s.cur)).meshQueue
          ++ [⟨p.2.1, s.cur, (me s).party, dstOf s d, c.sig, p.2.2.2.1, p.2.2.2.2, (me s).pc, none⟩]
        ∧ (∀ n, dstOf s d = some n → (me t).isEmpty n = true) ∧ (∀ n, (me t).reg n = (me s).reg n)
        ∧ (s.cycle + 1, Instr.meshAccept (myTile s)) ∈ t.sched ∧ SameMemory s t

/-- The answer that names the first start rests on log entry 30, RETIRED before every other refusal on log entry 26.
R179, R270, R377 to R379, R381, R385, R388: the mesh accepts the fresh request that is next in turn and can be accepted: it leaves its core's
queue, its strand is in the rotation and moves on. On a retired mesh every request but MSTAT is answered RETIRED, a pass with the alarm of R271.
With RECAL clear MSTAT is answered with its word, MFMT sets the core's context or is refused with status 2, PSWAP waits behind a load or
starts, and ACLR leaves its tile's 4,096 elements zero and without marks, with the metadata of R263.
R248: while RECAL is set an accepted PSWAP, MPROBE, ACLR or MSTAT waits; with RECAL clear the first that waits begins, if it can.
R247, R249, R251, R381: the end of a load makes the idle bank valid where the stencil was good and the mesh is not retired, and empty where not,
answers, and starts the swap that was accepted behind it; the end of a swap makes the idle bank the active one, on a retired mesh changes
neither bank and answers RETIRED; RECAL holds both.
R230, R256, R258, R260, R261, R263, R271, R383: the next vector of a running pass is added to the accumulator tile, with its flags and its missed
checksum counted; a pass that has no vector left completes: its metadata merged, its requester answered with the declaration of its first start,
the vectors done and status 0, or 5 where retirement cut it short, and alarmed; one that a halt stopped is recorded instead. -/
def Obligations.MeshEvents : Prop :=
  (∀ (s : State) (tile core : Nat) (q : MeshReq), ((meshOf s tile).recal = true ∨ (meshOf s tile).accepted = []) →
    nextRequester s tile = some (core, q) → q.part = none → meshHeld s tile core q = false →
    let s1 := modCore s core fun c => { c with meshQueue := c.meshQueue.drop 1 }
    let s2 := modMesh s1 tile fun m => { m with nextCore := (core % 8 + 1) % 8 }
    let s3 := modStrand s2 q.by_ fun r => match q.dst with | some n => r.refill n | none => r
    let u := makeReady { s3 with cur := q.by_ } q.by_
    let e := emptyDst u q.dst
    let m := meshOf s tile
    let done := fun r => exec (.meshAccept tile) s = .next (meshAgain (settleRes 8 (.done r)) tile)
    (q.kind ≠ 7 → m.retired = true → done (retiredAnswer e q))
    ∧ (m.recal = false → q.kind = 7 → done (meshAnswer e q (mstatWord e tile core q.a) 1))
    ∧ (m.recal = false → m.retired = false →
      (q.kind = 0 → done (meshAnswer (if badContext q.a then e else modCore e core fun c => { c with fmtctx := q.a }) q
        (meshWord 0 0 (if badContext q.a then 2 else 0)) 1))
      ∧ (q.kind = 2 → done (if m.load.isSome then modMesh e tile fun m => { m with swap := some q } else startSwap e tile q))
      ∧ (q.kind = 6 → ∃ t, exec (.meshAccept tile) s = .next t ∧ accMetaOf t tile (fld q.a 5 0) = word (fld q.b 15 0 * 2 ^ 48 + 0xFF * 2 ^ 40)
        ∧ ∀ k, fld q.a 5 0 * 4096 ≤ k → k < fld q.a 5 0 * 4096 + 4096 → accValue t tile k = 0 ∧ accMarked t tile k = false))
    ∧ (m.recal = true → m.retired = false → q.kind = 2 ∨ q.kind = 5 ∨ q.kind = 6 ∨ q.kind = 7 →
      done (modMesh e tile fun m => { m with accepted := m.accepted ++ [(q, [])] })))
  ∧ (∀ (s : State) (tile : Nat) (q : MeshReq) (st : List (Nat × Byte)) (r : List (MeshReq × List (Nat × Byte))),
    (meshOf s tile).recal = false → (meshOf s tile).accepted = (q, st) :: r → meshBlocked s tile q = false →
    exec (.meshAccept tile) s = .next (meshAgain (beginAccepted s tile q st) tile))
  ∧ ((∀ (s : State) (tile : Nat) (q : MeshReq) (st0 : Nat), (meshOf s tile).load = some (q, st0) →
    let m := meshOf s tile
    let st := if m.retired then 5 else st0
    (m.recal = true → m.retired = false → exec (.ploadDone tile) s = .next s)
    ∧ (m.recal = false ∨ m.retired = true → ∃ u t, exec (.ploadDone tile) s = .next t ∧ (meshOf u tile).load = none ∧ (meshOf u tile).swap = m.swap
      ∧ (m.swap = none → t = meshAgain (meshAnswer u q (meshWord 0 0 st) 0) tile)
      ∧ (∀ p, m.swap = some p → t = meshAgain (startSwap (meshAnswer u q (meshWord 0 0 st) 0) tile p) tile)
      ∧ (meshOf u tile).active = m.active ∧ activeBank (meshOf u tile) = activeBank m
      ∧ bankAt (meshOf u tile) (idleBank m) = if st = 0 then { bankAt m (idleBank m) with valid := true } else {}))
  ∧ ∀ (s : State) (tile : Nat) (q : MeshReq), (meshOf s tile).swap = some q →
    let m := meshOf s tile
    (m.recal = true → m.retired = false → exec (.pswapEffect tile) s = .next s)
    ∧ (m.recal = false ∨ m.retired = true → ∃ u t, exec (.pswapEffect tile) s = .next t
      ∧ t = meshAgain (meshAnswer u q (meshWord 0 0 (if m.retired then 5 else 0)) 0) tile ∧ (meshOf u tile).swap = none
      ∧ (meshOf u tile).active = (if m.retired then m.active else idleBank m) ∧ (meshOf u tile).bank0 = m.bank0 ∧ (meshOf u tile).bank1 = m.bank1))
  ∧ ((∀ (s : State) (tile i : Nat) (r : MeshRun) (x : Int) (codes : List Int) (fl : Nat) (rest : List (Int × List Int × Nat)),
    (meshOf s tile).running.findIdx? (fun r => !r.vectors.isEmpty) = some i → (meshOf s tile).running[i]? = some r → r.vectors = (x, codes, fl) :: rest →
    let n := fld r.req.b 5 0
    let u := addOutputs tile n (fld r.req.b 13 8 + r.next) (tileExp s tile n) x (fpF.value r.sw.toNat) r.half codes 0 s
    let w := modMesh u tile fun m => { m with
      running := m.running.set i { r with vectors := rest, next := r.next + 1, part := { r.part with flags := r.part.flags ||| fl } }
      ckcnt := if fl.testBit 5 then min (2 ^ 32 - 1) (m.ckcnt + 1) else m.ckcnt
      doubled := if fl.testBit 5 then 8 else m.doubled }
    exec (.vectorAccadd tile) s = .next (if rest = [] then post w 2 (.passComplete tile)
      else post w (r.first + 48 + 10 * (r.next + 1 - r.skip) / r.rate - w.cycle) (.vectorAccadd tile)))
  ∧ ∀ (s : State) (tile : Nat) (r : MeshRun) (rest : List MeshRun),
    takeFirst (fun r : MeshRun => r.vectors.isEmpty) (meshOf s tile).running = some (r, rest) →
    let n := fld r.req.b 5 0
    let u := modMesh s tile fun m => { m with running := rest }
    let w := putAccMeta u tile n (passMeta (accMetaOf u tile n) r)
    (r.halted = true → exec (.passComplete tile) s = .next (passHalted u r))
    ∧ (r.halted = false → exec (.passComplete tile) s
      = .next (meshAgain (raiseAlarm (meshAnswer w r.req (meshWord (r.part.eb.getD 0) r.next (if r.cut then 5 else 0)) 0) r.req (alarmOf r)) tile)))

/-- That AWR with X clear clears the mark rests on log entry 43, effects at entry into the queue on log entry 20.
R65, R386, R387: ARD and AWR of a strand with the lease, ready, its clause met and no ACLR of it kept waiting. ARD of elements none of which
is poisoned gives lane j of D element j's value under the descriptor's scale, rounded to the type, zeroes the elements where X is set, and
leaves the other registers of the bank, the general registers and memory; a poisoned element kills the strand with cause 1. AWR on a tile
whose rows are apart leaves element j the clamped lane j, or with X the clamped sum of both, every other element as it was, the flags NANIN and
SAT in the metadata, and with X clear no mark on what it writes; D is empty, registers keep their values. Each stands in the dispatch queue,
with the signal, and AWR with a 0 for D, to come at its completion. -/
def Obligations.AccumulatorTransfers : Prop :=
  (∀ (s : State) (t : LTy) (d : LReg) (a : Src) (x : Bool) (c : Clauses), VReady s ([.lv (lregOf s d)] ++ srcUse s a) → Waited s c → clearWaits s = false →
    let k := coreKey s.cur
    let desc := srcVal s a 8
    let ks := accElems t desc
    let e := tileExp s (myTile s) (fld desc 5 0) + accShift desc
    let val := fun j => let v := accValue s (myTile s) (ks.getD j 0); laneFlush t (convert .d t.fmt (accRm desc) (.fin (decide (v < 0)) v.natAbs e))
    (∀ i, ks.find? (fun i => accMarked s (myTile s) i) = some i → exec (.ard t d a x c) s = .next (killStrand s s.cur 1 (accVa i)))
    ∧ (ks.find? (fun i => accMarked s (myTile s) i) = none → ∃ u, exec (.ard t d a x c) s = .next u
      ∧ (∀ j, j < ks.length → laneOf (lvVal u (lregOf s d)) t.width j = (val j).1 % 2 ^ t.width)
      ∧ (∀ n, n ≠ lregOf s d → lvVal u n = lvVal s n)
      ∧ (∀ i, x = true → i ∈ ks → accValue u (myTile s) i = 0)
      ∧ (coreOf u k).dispatch = (coreOf s k).dispatch
        ++ [⟨s.cur, 3, t.lanes / 64, 16 + t.lanes / 64, [], [lregOf s d], signalOf c.sig, laneFlags t.lanes val, 0⟩]
      ∧ (∀ n, (me u).reg n = (me s).reg n ∧ (me u).isEmpty n = (me s).isEmpty n) ∧ SameMemory s u))
  ∧ ∀ (s : State) (d : GDst) (a : LSrc) (b : Src) (x : Bool) (c : Clauses), VReady s (gdstUse s d ++ lsrcUse s a ++ srcUse s b) → Waited s c →
    clearWaits s = false →
    let k := coreKey s.cur
    let desc := srcVal s b 8
    let t := (ltyOf (fld desc 36 34)).getD .f
    let tile := myTile s
    let n := fld desc 5 0
    let ks := accElems t desc
    let lane := fun j => awrLane t (accRm desc) (accShift desc) (tileExp s tile n) ((lsrcLanes s t a 8).getD j 0)
    let out := fun j => accClamp (if x then accValue s tile (ks.getD j 0) + (lane j).1 else (lane j).1)
    ∃ u, exec (.awr d a b x c) s = .next u
      ∧ (RowsApart (tileOf s tile) → (∀ j, j < t.lanes → accValue u tile (ks.getD j 0) = (out j).1)
        ∧ (∀ i, i < 64 * 4096 → i ∉ ks → accValue u tile i = accValue s tile i)
        ∧ accMetaOf u tile n = (List.range t.lanes).foldl (fun w j => w ||| word ((lane j).2 ||| if (out j).2 then 64 else 0)) (accMetaOf s tile n))
      ∧ (x = false → ∀ i ∈ ks, accMarked u tile i = false)
      ∧ (coreOf u k).dispatch = (coreOf s k).dispatch
        ++ [⟨s.cur, 3, t.lanes / 64, 16 + t.lanes / 64, lvsOf (lsrcUse s a), [],
          (match dstOf s d with | some r => [(r, 0)] | none => []) ++ signalOf c.sig, 0, 0⟩]
      ∧ (∀ i, (me u).reg i = (me s).reg i ∧ (me u).isEmpty i = ((me s).isEmpty i || decide (dstOf s d = some i)))
      ∧ (∀ i, lvVal u i = lvVal s i) ∧ SameMemory s u

/-- R184, R389, R390, R394: a kick instruction, ready, its clauses met, its slot and its 64-byte argument block accessible, every earlier event
performed and its queue not full, captures the block in a kick at the end of the engine's queue, which an idle engine starts at once, and sends
D a 0. -/
def Obligations.KickInstructions : Prop :=
  ∀ (s : State) (d : GDst) (a b : Src) (c : Clauses),
    ∀ p ∈ kickTable s d a b c, Full s (gdstUse s d ++ p.2.1) → clauseIllegal s c = false → Waited s c → Ordered s →
      ((p.1 = .kick d a b c) ∨ (srcVal s a 8).toNat % 64 = 0) →
      ∀ ps qs, Granted s .store (kickVa p.2.2.1 p.2.2.2.1) 8 ps → (kickVa p.2.2.1 p.2.2.2.1).toNat % 8 = 0 →
        stagingHeld s ps = false → Granted s .load (word (fld p.2.2.2.2 57 8 * 64)) 64 qs → poisonedVa s (myself s) qs = none →
        let e := slotEngine p.2.2.1 (myTile s) p.2.2.2.1
        (engineOf s e).queue.length < 8 →
        let r := readParts (cleanMine s) (myself s) qs
        let block := (List.range 8).map fun i => word (leNat (bytesBy (fun j => r.1.getD j 0) (8 * i) 8))
        let k : Kick := ⟨p.2.2.2.2, block, ((myself s).asid, (myself s).party), (myself s).asid, (me s).partition⟩
        let u := startEngine (modEngine r.2.2 e fun x => { x with queue := x.queue ++ [k] }) e
        exec p.1 s = .next (settleRes 8 (.done (sendSignal (later u (dstOf u d) 0 1) u.cur c.sig)))

/-! ## The stack profile (spec/13 R402, R403) -/

/-- R364, R366, R402, R403, R493: SVALU, SSCAN and SCMPR, well formed and ready, empty their register and send it the lanes of the table with
their latency, counted from when the vector unit can take them.
R403: the other stack instructions of a stack strand, ready. SVLD and SVST of a 128-byte aligned address whose access is granted move 128 bytes,
SGATH and SSCAT one 4-byte lane for each granted address, loads through a delayed result; SRED sends D the scan of every lane; SHIST adds to
each word of its histogram the number of lanes in its bin; SSORT sends lanes of which each pair whose numbers differ in bit j is ordered,
ascending where bit k of the lower one's number is DESC. -/
def Obligations.StackInstructions : Prop :=
  (∀ (s : State) (t : LTy) (op : SvOp) (sop : ScanOp) (ex : Bool) (d a m : SvReg) (b : SvSrc) (c : Src) (v : SvReg),
    ∀ p ∈ stackTable s t op sop ex d a m b c v, wellFormed p.1 = true → Full s p.2.1 →
      ∃ u, exec p.1 s = .next u ∧ SvSent s u (svregOf s d) t.width t.svLanes p.2.2.1 p.2.2.2.1 (mine s p.2.2.2.2))
  ∧ ((∀ (s : State) (d : SvReg) (a : Src) (o : BitVec 8), s.cur.kind = .stack → Open s ([.sv (svregOf s d)] ++ srcUse s a) →
    let va := srcVal s a + wordOfInt (o.toInt * 128)
    va.toNat % 128 = 0 →
      (∀ ps, Granted s .load va 128 ps → poisonedVa s (myself s) ps = none →
        let r := readParts s (myself s) ps
        ∃ t, exec (.svld d a o) s = .next t ∧ SvSent r.2.2 t (svregOf s d) 8 128 (fun j => (r.1.getD j 0).toNat) 0 (r.2.1 + mine s 2))
      ∧ ∀ ps, Granted s .store va 128 ps →
        exec (.svst d a o) s = .next (wentOn 4
          (svStart (writeParts s (myself s) ps ((List.range 128).map fun j => BitVec.ofNat 8 (laneOf (svVal s (svregOf s d)) 8 j))) 1).2))
  ∧ (∀ (s : State) (t : LTy) (d i : SvReg) (a : Src), t.width = 32 → Open s ([.sv (svregOf s d), .sv (svregOf s i)] ++ srcUse s a) →
    let vas := (List.range 32).map fun j => srcVal s a + wordOfInt (4 * signedOf 32 (laneOf (svVal s (svregOf s i)) 32 j))
    (∀ qs, laneParts s .load vas = .ok qs → poisonedVa s (myself s) qs.flatten = none →
      let r := gatherLanes qs s
      ∃ u, exec (.sgath t d a i) s = .next u ∧ SvSent r.2.2 u (svregOf s d) 32 32 (fun j => r.1.getD j 0) 0 (r.2.1 + mine s 32))
    ∧ ∀ qs, laneParts s .store vas = .ok qs →
      exec (.sscat t d a i) s = .next (wentOn 4 (svStart (scatterLanes qs (svLanesOf s t (svregOf s d)) s) 32).2))
  ∧ (∀ (s : State) (d : GDst) (a : SvReg) (t : LTy) (op : ScanOp), Full s (gdstUse s d ++ [.sv (svregOf s a)]) →
    let r := scanGroup t op false (svLanesOf s t (svregOf s a)) (scanIdentity t op)
    ∃ u, exec (.sred d a t op) s = .next u ∧ (∀ n, (me u).reg n = (me s).reg n) ∧ (∀ n, svVal u n = svVal s n) ∧ SameMemory s u
      ∧ (∀ n, (me u).isEmpty n = ((me s).isEmpty n || decide (dstOf s d = some n)))
      ∧ ((dstOf s d).isSome ∨ r.2.2 ≠ 0 → (max s.cycle (coreOf s (coreKey s.cur)).svFree + mine s (4 + Nat.log2 t.svLanes),
        Instr.resultArrival s.cur (match dstOf s d with | some n => [(n, t.fmt.toReg r.2.1)] | none => []) 0 r.2.2) ∈ u.sched))
  ∧ (∀ (s : State) (d : Src) (a : SvReg) (b : Src), Open s (srcUse s d ++ [.sv (svregOf s a)] ++ srcUse s b) → s.cur.kind = .stack → s.cur.unit < 192 →
    let base := srcVal s d
    let w := srcVal s b
    let bins := (List.range 32).map fun j => laneOf (svVal s (svregOf s a)) 32 j / 2 ^ fld w 4 0 % 2 ^ min (fld w 11 8) 12
    let vas := bins.map fun n => base + word (4 * n)
    base.toNat % 4 = 0 → (∀ v ∈ vas, winBase ≤ v.toNat ∧ v.toNat < winBase + 2 ^ 18) →
      ∀ qs, laneParts s .store vas = .ok qs → poisonedVa s (myself s) qs.flatten = none →
        ∃ t, exec (.shist d a b) s = .next t ∧ ∀ o, o % 4 = 0 → o < 2 ^ 18 →
          leNat (bytesBy (homeByte t) (stackLoc s.cur.unit o) 4)
            = (leNat (bytesBy (homeByte s) (stackLoc s.cur.unit o) 4) + vas.countP fun v => v.toNat - winBase = o) % 2 ^ 32)
  ∧ ∀ (s : State) (t : LTy) (d : SvReg) (k : BitVec 8) (desc : Bool) (j : BitVec 4), Full s [.sv (svregOf s d)] →
    let x := fun i => laneOf (svVal s (svregOf s d)) t.width i
    let key := fun i => sortKey t (x i)
    ∃ u L, exec (.ssort t d k desc j) s = .next u ∧ SvSent s u (svregOf s d) t.width t.svLanes L 0 (mine s 6)
      ∧ ∀ i, i + 2 ^ j.toNat < t.svLanes → i.testBit j.toNat = false →
        let up := decide (i.testBit k.toNat = desc)
        let swap := decide (if up then key (i + 2 ^ j.toNat) < key i else key i < key (i + 2 ^ j.toNat))
        L i = (if swap then x (i + 2 ^ j.toNat) else x i) ∧ L (i + 2 ^ j.toNat) = if swap then x i else x (i + 2 ^ j.toNat))

/-! ## The engine op page and migration (spec/14 R398 to R400, R410) -/

/-- R18, R90, R147, R338, R398, R425: BLKRD, BLKWR, BLKRED and LSEND of an engine hart, ready. BLKRD of a granted line puts it into its buffer with
the marks of its words; BLKRED combines a granted line lane by lane into its buffer, which gains its marks, and leaves the others; each sends D a
0 with the latency of the read; a SYNC line to a word of which a request of the hart waits holds them back.
BLKWR performs the selected words in increasing order, each once, a word that is not a SYNC word as a Store, and then gives D a 0; with b[16] = 1 it
queues a fabric write of the line and gives D a 0. LSEND sends the buffer on a port that is UP and D receives 0, else 1. A misaligned line traps
MISALIGNED, BLKRED with op 3 ILLEGAL, a peer address with a bit above 55 set NONCANON.
R399, R400: the stencil engine's instructions, ready, work on the work store: JROT turns columns of A and V alone; SVNRM writes U and σ
alone; PHQ writes the stencil buffer alone; GPHASE traps on a cell of 2,016 or more, else acts on its section's matrix and stores the two phase
words of its cell alone, with θ a value left open only where the cell does not reach the target; STWR with DIR = 0 reads the granted block,
sets A to its values where all are finite, V to the identity and keeps the hash of its bytes, and with DIR = 1 stores the completed stencil
where it is granted, poisoned where what it comes from was. D receives the value of the operation. -/
def Obligations.EngineInstructions : Prop :=
  (∀ (s : State) (d : GDst) (a b : Src), s.cur.kind = .engine → Open s (gdstUse s d ++ srcUse s a ++ srcUse s b) →
    let va := srcVal s a
    let c := srcVal s b
    let n := fld c 5 0
    let line := fun (u : State) => (engineOf u s.cur.unit).lbs
    let buffer := mget 0 (line s) n
    let t := typeCode (fld c 10 8)
    let sent := fun (u t : State) (lat : Nat) => ∀ m, dstOf s d = some m → (me t).isEmpty m = true ∧ (u.cycle + lat, Instr.resultArrival s.cur [(m, 0)] 0 0) ∈ t.sched
    let misaligned := Host.Outcome.next (φ := Fault) (ρ := Refusal) (takeTrap s s.cur { code := 4, va := va } 4)
    (va.toNat % 64 ≠ 0 → exec (.blkrd d a b) s = misaligned ∧ exec (.blkwr d a b) s = misaligned ∧ (fld c 12 11 ≠ 3 → exec (.blkred d a b) s = misaligned))
    ∧ (fld c 12 11 = 3 → exec (.blkred d a b) s = .next (takeTrap s s.cur { code := 1 } 4))
    ∧ (va.toNat % 64 = 0 → ∀ ps, Granted s .xload va 64 ps →
      let l := partLoc ps
      let behind := syncParts ps && (waitingOf s s.cur).any fun q => decide (l ≤ q.loc) && decide (q.loc < l + 64)
      let r := readParts (if readsHost ps then post s Config.lat.miss (.hostApertureCompletion s.cur.unit false va) else s) (myself s) ps
      (behind = true → ∀ i, (i = .blkrd d a b ∨ (i = .blkred d a b ∧ fld c 12 11 ≠ 3)) → exec i s = .next (settleRes 4 (parkMe s .earlier)))
      ∧ (behind = false → (∃ t, exec (.blkrd d a b) s = .next t ∧ mget 0 (line t) n = BitVec.ofNat 512 (leNat r.1) ∧ mget 0 (line t) (64 + n) = marksAt s (partLoc ps)
        ∧ sent r.2.2 t r.2.1 ∧ SameMemory r.2.2 t ∧ ∀ m, m ≠ n → m ≠ 64 + n → mget 0 (line t) m = mget 0 (line r.2.2) m)
      ∧ ∀ op, [ScanOp.add, .min, .max][fld c 12 11]? = some op → ∃ u, exec (.blkred d a b) s = .next u ∧ sent r.2.2 u r.2.1 ∧ SameMemory r.2.2 u
        ∧ (∀ m, m ≠ n → m ≠ 64 + n → mget 0 (line u) m = mget 0 (line r.2.2) m) ∧ mget 0 (line u) (64 + n) = (lineMarks s n ||| marksAt s (partLoc ps))
        ∧ ∀ i, i < 512 / t.width → laneOf (mget 0 (line u) n) t.width i
          = (scanStep t op (laneOf buffer t.width i) (leNat r.1 / 2 ^ (t.width * i) % 2 ^ t.width)).1 % 2 ^ t.width))
    ∧ (va.toNat % 64 = 0 → bit c 16 = true →
      (2 ^ 56 ≤ va.toNat → exec (.blkwr d a b) s = .next (takeTrap s s.cur { code := 5, va := va, xlate := some (xlateWord 1 0 1 va.toNat) } 4))
      ∧ (va.toNat < 2 ^ 56 → mayQueue s (fld c 31 20) 0 = true →
        exec (.blkwr d a b) s = .next (wentOn 4 (putDst (queuePacket s (fld c 31 20) 0 0 (myself s).asid va
          ((List.range 8).map fun w => word (buffer.toNat / 2 ^ (64 * w))) ((engineOf s s.cur.unit).op.map (·.by_)) (some s.cur.unit)
          (positions 8 fun w => (lineMarks s n).getLsbD w)) (dstOf s d) 0))))
    ∧ (va.toNat % 64 = 0 → bit c 16 = false → ∀ f : Nat → State,
      let first := min 8 (engineOf s s.cur.unit).progress
      f first = s → (∀ w, first ≤ w → w ≤ 8 → waitingOf (f w) (f w).cur = []) →
      (∀ w, first ≤ w → w < 8 → (fld c 15 8).testBit w = false → f (w + 1) = f w) →
      (∀ w, first ≤ w → w < 8 → (fld c 15 8).testBit w = true →
        ∃ u, engineWord (f w) (va + word (8 * w)) (word (buffer.toNat / 2 ^ (64 * w))) ((lineMarks s n).getLsbD w) = .ok (some u)
          ∧ f (w + 1) = modEngine u u.cur.unit fun e => { e with progress := w + 1 }) →
      exec (.blkwr d a b) s = .next (wentOn 4 (putDst (modEngine (f 8) (f 8).cur.unit fun e => { e with progress := 0 }) (dstOf s d) 0)))
    ∧ (∀ (u : State) (v x : Word) (ps : List Part), Granted u .xstore v 8 ps → syncParts ps = false →
      engineWord u v x false = .ok (some (writeParts u (myself u) ps (wordBytes x))))
    ∧ let port := fld va 5 0
      let up := decide (port < 48 ∧ (mget {} s.fabric.ports port).state = 4)
      ∃ t, exec (.lsend d a b) s = .next t ∧ (∀ m, dstOf s d = some m → (me t).reg m = (if up then 0 else 1) ∧ (me t).isEmpty m = false)
        ∧ t.fabric.sentMsgs = s.fabric.sentMsgs ++ (if up then [(fld va 9 8 * 64 + port, (List.range 8).map fun w => word (buffer.toNat / 2 ^ (64 * w)))] else [])
        ∧ SameMemory s t)
  ∧ (∀ (s : State) (d : GDst) (a b : Src),
    let w := myWork s
    let gave := fun (u t : State) (v : Nat) => (∀ n, dstOf s d = some n → (me t).reg n = word v ∧ (me t).isEmpty n = false)
      ∧ (∀ n, dstOf s d ≠ some n → (me t).reg n = (me u).reg n) ∧ SameMemory u t
    s.cur.kind = .engine →
    (Full s (gdstUse s d ++ srcUse s a) → ∃ t, exec (.jrot d a) s = .next t ∧ gave s t (jrot w (fld (srcVal s a) 5 0)).2
      ∧ myWork t = { w with a := (jrot w (fld (srcVal s a) 5 0)).1.a, v := (jrot w (fld (srcVal s a) 5 0)).1.v })
    ∧ (Full s (gdstUse s d) →
      (∃ t, exec (.phq d) s = .next t ∧ gave s t (sigmaMax w) ∧ myWork t = { w with buffer := (phq w).1.buffer })
      ∧ ∃ t, exec (.svnrm d) s = .next t ∧ gave s t (sigmaMax (svnrm w).1) ∧ myWork t = { w with u := (svnrm w).1.u, sigma := (svnrm w).1.sigma })
    ∧ (Full s (gdstUse s d ++ srcUse s a ++ srcUse s b) →
      let q := fld (srcVal s a) 10 0
      let sec := bit (srcVal s a) 16
      (2016 ≤ q → exec (.gphase d a b) s = .next (takeTrap s s.cur { code := 1 } 4))
      ∧ (q < 2016 → ∃ t free, exec (.gphase d a b) s = .next t
        ∧ (let r := gphase w q sec (bit (srcVal s a) 17) (bit (srcVal s a) 18) (fld (srcVal s b) 5 0) (fld (srcVal s b) 13 8) free
           myWork t = r.1 ∧ gave s t r.2)
        ∧ (let x := myWork t
           x.a = w.a ∧ x.sigma = w.sigma ∧ x.buffer = w.buffer ∧ x.hash = w.hash ∧ (if sec then x.v = w.v else x.u = w.u)
            ∧ mget 0 x.phases ((if sec then 4032 else 0) + 2 * q + 1) = (if bit (srcVal s a) 18 then 32768 else 0)
            ∧ ∀ k, k ≠ (if sec then 4032 else 0) + 2 * q → k ≠ (if sec then 4032 else 0) + 2 * q + 1 → mget 0 x.phases k = mget 0 w.phases k)))
    ∧ (Open s (gdstUse s d ++ srcUse s a ++ srcUse s b) →
      let c := srcVal s b
      ∀ f, mxCode (fld c 36 32) = some f →
        (bit c 63 = false → (srcVal s a).toNat % 8 = 0 → ∀ ps, Granted s .load (srcVal s a) (blockBytes f) ps →
          let r := readParts s (myself s) ps
          ∃ t, exec (.stwr d a b) s = .next t ∧ (myWork t).v = ofMat matId ∧ (myWork t).hash = BitVec.ofNat 256 (leNat (sm3 r.1))
            ∧ (∀ vs, blockValues f r.1.toArray = some vs → (myWork t).a = ofMat vs.toArray)
            ∧ gave r.2.2 t (if (blockValues f r.1.toArray).isSome then 0 else 1))
        ∧ (bit c 63 = true → (srcVal s a).toNat % 64 = 0 → ∀ ps, Granted s .store (srcVal s a) stencilSize ps →
          let x := finishStencil w (fld c 36 32) (fld c 31 0)
          let u := writeParts s (myself s) ps (denseBytes stencilSize 0 x.buffer)
          ∃ t, exec (.stwr d a b) s = .next t ∧ gave (if x.poison then poisonParts u ps else u) t 0)))

/-- R410, R460: MIGR of a compute strand, its registers ready, answers the lowest refusal code that applies and goes on; with none, every event
performed and room on the fabric, it answers 6 for a peer that is lost, and else frees its monitors, queues its record for the peer in
migration packets, and parks behind its pc's advance with D empty until the answer. -/
def Obligations.MigrationShips : Prop :=
  ∀ (s : State) (d : GDst) (a b : Src), s.cur.kind = .compute → Open s (gdstUse s d ++ srcUse s a ++ srcUse s b) →
    let chip := fld (srcVal s a) 11 0
    let r := me s
    let c := if holdsTokens s r.str.asid.toNat r.party then 1 else if groupsOf s r.str.asid.toNat r.party ≠ [] then 2
      else if (coreOf s (coreKey s.cur)).lease = some s.cur.ctx then 3 else if chip = s.fabric.chipid.toNat ∨ routeOf s chip = none then 4 else 0
    (c ≠ 0 → ∃ t, exec (.migr d a b) s = .next t ∧ Wrote 4 s t (dstOf s d) (word c) 0)
    ∧ (c = 0 → Ordered s → r.empties = [] → fabricOf s s.cur = false → (unackedTo s chip 2).length ≤ 240 →
      (s.fabric.lostPeers.contains chip = true → ∃ t, exec (.migr d a b) s = .next t ∧ Wrote 4 s t (dstOf s d) 6 0)
      ∧ (s.fabric.lostPeers.contains chip = false →
        let v := disarmAll (leaveLines (fenceNow s s.cur) s.cur) s.cur
        ∃ t qs, exec (.migr d a b) s = .next t ∧ (me t).run = .parked .migration ∧ Passed 4 s t
          ∧ (∀ n, dstOf s d = some n → (me t).isEmpty n = true) ∧ (∀ m ∈ t.monitors, m.agent ≠ s.cur)
          ∧ t.fabric.unacked = v.fabric.unacked ++ qs ∧ qs.map (fun q => q.packet.payload) = chunks32 16 (wordsOfBlob (shipped v s.cur (dstOf s d)))
          ∧ (∀ q ∈ qs, q.packet.dst = chip ∧ q.packet.tc = 2 ∧ q.packet.typ = 5 ∧ q.packet.va = word (fld (srcVal s b) 11 0))
          ∧ t.fabric.migrating = v.fabric.migrating ++ [(chip, s.cur)]))

/-! ## Arrivals and bounds (spec/02, spec/05, spec/07, spec/15) -/

/-- R33 to R35: a walk that returns leaves the walks, changes no TLB, no register and no byte of memory, and sets every strand that waits for
it going again, with the translation or its fault.
R54, R165, R306, R360, R402: the arrival of results, each under another number, leaves the general registers that it names full with their
values, the stack-vector registers that it names full and the words of them that it brings written; ors its flags into STR.FPCTL and
STR.VFLAGS; changes no byte of memory. One that brings no signal leaves the other registers as they were and ends its strand's wait for an answer
where it brings one; one that brings a signal raises that semaphore's count, at most to 65,535 (R152, R279). -/
def Obligations.WalksAndResultsArrive : Prop :=
  (∀ (s : State) (unit asid vpage : Nat),
    let w := walk (endWalk s unit asid vpage) asid (vpage * 2 ^ 16)
    ∃ t, exec (.walkReturn unit asid vpage) s = .next t ∧ (∀ x ∈ t.walks, ¬ (x.unit = unit ∧ x.asid = asid ∧ x.vpage = vpage))
      ∧ t.tlbs = s.tlbs ∧ SameMemory s t
      ∧ (∀ a n, (strandOf t a).reg n = (strandOf s a).reg n ∧ (strandOf t a).isEmpty n = (strandOf s a).isEmpty n)
      ∧ ∀ k r, (k, r) ∈ s.strands → r.run = .parked (.walk vpage) → tlbUnit (agentOfKey k) = unit → (actorOf s (agentOfKey k)).asid = asid →
          let x := strandOf t (agentOfKey k)
          x.run = .ready ∧ (x.walkFault.isSome ↔ ∃ e, w = .error e)
            ∧ ∀ leaf size ps, w = .ok (leaf, size, ps) → leafEntry unit asid (vpage * 2 ^ 16) leaf size ∈ x.walked)
  ∧ ∀ (s : State) (a : Agent) (ds : List (Nat × Word)) (fl vf : BitVec 6), ds.Pairwise (fun x y => x.1 ≠ y.1) →
    ∃ t, exec (.resultArrival a ds fl vf) s = .next t ∧ SameMemory s t
      ∧ (∀ n v, (n, v) ∈ ds → n < 192 → (strandOf t a).reg n = v ∧ (strandOf t a).isEmpty n = false)
      ∧ (∀ n v, (n, v) ∈ ds → 256 ≤ n → n < 512 → (strandOf t a).isEmpty n = false)
      ∧ (∀ m i v, i < 16 → (512 + 16 * m + i, v) ∈ ds → laneOf (mget (0 : BitVec 1024) (strandOf t a).svs m) 64 i = v.toNat)
      ∧ (strandOf t a).str.fpctl = (strandOf s a).str.fpctl ||| fl.setWidth 64 ∧ (strandOf t a).str.vflags = (strandOf s a).str.vflags ||| vf.setWidth 64
      ∧ ((∀ w, (193, w) ∉ ds) →
        (∀ n, (∀ v, (n, v) ∉ ds) → (strandOf t a).reg n = (strandOf s a).reg n ∧ (strandOf t a).isEmpty n = (strandOf s a).isEmpty n)
        ∧ ((strandOf s a).run = .parked .answer → (strandOf t a).run = if ∃ v, (192, v) ∈ ds then .ready else .parked .answer))
      ∧ ∀ w, (193, w) ∈ ds → semTileOf s a < 18 →
        semCount t (semTileOf s a) (w.toNat / 16 % 256) = min 65535 (semCount s (semTileOf s a) (w.toNat / 16 % 256) + w.toNat % 16)

/-- R142, R143, R147, R189: the TDU forwards the oldest listed request of a home: performed where its condition holds, else into a free entry,
else it stays; a report word that is misaligned or fails its check is dropped with a LAUNCH record, and else is filled, BUSY meaning again 16
cycles later; a host Fill at its bound overwrites a full word and leaves it unpoisoned, and looks at one that is not full again in the next cycle.
R143, R199, R426, R427: a strand that consumes an error is killed with cause 1, or with cause 5 where the WVU has met the error: its context is
free and the count of kills rises; a strand that reaches the threshold of a long wait gets its turn first when it goes on; what an engine was answered BUSY is tried again: its End's steps,
or its routine. -/
def Obligations.ForwardingErrorsAndRetries : Prop :=
  ((∀ (s : State) (home : Nat) (q : SyncReq) (rest : List SyncReq), takeFirst (fun q : SyncReq => q.home = home) s.overflow = some (q, rest) →
    let go := canProceed s q && !earlierSame s.waiters q && (!q.kind.isAtomic || decide (entriesUsed s home < 64))
    (go = true → exec (.overflowForward home) s = .next (forwardIf (serve (performReq { s with overflow := rest } q) q.loc) home))
    ∧ (go = false → entriesUsed s home < 64 → ∃ t, exec (.overflowForward home) s = .next t ∧ t.overflow = rest
      ∧ t.waiters = s.waiters ++ [{ q with listed := true }] ∧ SameMemory s t)
    ∧ (go = false → 64 ≤ entriesUsed s home → exec (.overflowForward home) s = .next s))
  ∧ (∀ (s : State) (asid : Nat) (va v : Word),
    let dropped := Host.Outcome.next (φ := Fault) (ρ := Refusal) (record s 7 3 asid 0 0 va 3 0 0 0)
    (va.toNat % 8 ≠ 0 → exec (.reportFill asid va v) s = dropped)
    ∧ (va.toNat % 8 = 0 → ∀ b, access s (tduActor asid 1) none .sync va.toNat 8 = .error b → exec (.reportFill asid va v) s = dropped)
    ∧ (va.toNat % 8 = 0 → ∀ ps, access s (tduActor asid 1) none .sync va.toNat 8 = .ok ps →
      let q := requestAt s .tdu .fill (partLoc ps) (partNa ps) va asid v
      ((arrive s q).1 = .busy → exec (.reportFill asid va v) s = .next (post s 16 (.reportFill asid va v)))
      ∧ ((arrive s q).1 ≠ .busy → exec (.reportFill asid va v) s = .next (arrive s q).2)))
  ∧ ∀ (s : State) (id : Nat) (x : HostFill), s.host.fills.find? (fun x => x.id = id) = some x →
    (isFull s x.loc = true → ∃ u, exec (.hostFillBound id) s = .next (completeWrite (record u 5 3 x.asid hostParty 0 x.va (homeWord s x.loc) x.v 0 0) x.off x.src)
      ∧ homeWord u x.loc = x.v ∧ isPoison u x.loc = false ∧ isFull u x.loc = true ∧ (∀ y ∈ u.host.fills, y.id ≠ id)
      ∧ ∀ m, (m < x.loc ∨ x.loc + 8 ≤ m) → homeByte u m = homeByte s m)
    ∧ (isFull s x.loc = false → ∃ t, exec (.hostFillBound id) s = .next t ∧ (s.cycle + 1, Instr.hostFillBound id) ∈ t.sched))
  ∧ ((∀ (s : State) (a : Agent) (va : Word),
    ((strandOf s a).run = .free → exec (.errorConsumed a va) s = .next s)
    ∧ ((strandOf s a).run ≠ .free → (∀ q, s.inputs = .figures [5] :: q → exec (.errorConsumed a va) s = .next (killStrand { s with inputs := q } a 5 va))
      ∧ ((∀ q, s.inputs ≠ .figures [5] :: q) → ∃ t, exec (.errorConsumed a va) s = .next t ∧ t = killStrand s a 1 va
        ∧ s.faults.kills < t.faults.kills ∧ (fld s.faults.flogbase 51 12 = 0 → (strandOf t (pairLead s a)).run = .free))))
  ∧ (∀ (s : State) (a : Agent) (p : Park), (strandOf s a).run = .parked p → ∃ t, exec (.longWait a) s = .next t
      ∧ (strandOf t a).boost = ((strandOf s a).boost || longWaitPark s a p) ∧ (strandOf t a).run = .parked p
      ∧ ∀ n, (strandOf t a).reg n = (strandOf s a).reg n)
  ∧ ∀ (s : State) (e : Nat) (k : Kick), (engineOf s e).op = some k →
    (∀ st d, (engineOf s e).ending = some (st, d) → exec (.engineBusyRetry e) s = .next (endSteps s e k st d))
    ∧ ((engineOf s e).ending = none → ∀ i, routineEvent e (fld k.word 63 58) = some i → exec (.engineBusyRetry e) s = .next (post s 0 i)))

/-! ## The sequencers and the TDU (spec/02, spec/03, spec/07) -/

/-- R40 to R42, R48, R60: the invalidation at the head of the sequencer removes the cached translations of its scope and no other, those that
walks have brought for an instruction in progress too, makes the host windows effective as written, with ALL takes the ASID table's base, and completes later; ICINV of a line or of all does so in every
instruction cache. A completion takes the head, sets its strand going, and begins the next. -/
def Obligations.Invalidations : Prop :=
  (∀ (s : State) (a : Agent) (w : Word) (r : List (Agent × Word)), s.invalidations = (a, w) :: r →
    let scope := fld w 63 62
    let page := fun e : Tlb => let va := fld w 55 16 * 2 ^ 16
      e.vbase ≤ va ∧ va < e.vbase + 2 ^ (16 + 10 * e.size)
        ∧ (bit e.leaf 5 = true ∨ (e.asid = fld w 11 0 ∧ (fld w 61 60 = 3 ∨ e.size = fld w 61 60)))
    let gone := fun e : Tlb => if scope = 0 then page e else if scope = 1 then bit e.leaf 5 = false ∧ e.asid = fld w 11 0
      else if scope = 2 then bit e.leaf 5 = false else True
    (∀ i ∈ [Instr.tlbinvPage, .tlbinvAsid, .tlbinvNonglobal, .tlbinvAll], ∃ t, exec i s = .next t
      ∧ (∀ e ∈ s.tlbs, e ∈ t.tlbs ↔ ¬gone e)
      ∧ (∀ e ∈ t.tlbs, e ∈ s.tlbs) ∧ (∀ b e, e ∈ (strandOf t b).walked ↔ e ∈ (strandOf s b).walked ∧ ¬gone e) ∧ t.host.liveVa = s.host.winVa ∧ t.host.liveCfg = s.host.winCfg
      ∧ t.caps.asidtabLive = (if scope = 3 then s.caps.asidtab else s.caps.asidtabLive) ∧ SameMemory s t
      ∧ (s.cycle + Config.lat.tlbinv, Instr.invalidationComplete) ∈ t.sched)
    ∧ ∃ t, exec .invalidationComplete s = .next t ∧ t.invalidations = r ∧ ((strandOf s a).run = .parked .invalidation → (strandOf t a).run = .ready)
      ∧ (∀ b v q, r = (b, v) :: q → (s.cycle + 1, tlbinvEvent v) ∈ t.sched) ∧ SameMemory s t)
  ∧ ∀ (s : State) (a : Agent) (w : Word) (r : List (Agent × Word)), s.icInvs = (a, w) :: r →
    (∃ t, exec .icinvLine s = .next t ∧ (∀ l, l ∈ t.icache ↔ l ∈ s.icache ∧ l.line ≠ fld w 51 6) ∧ (s.cycle + Config.lat.icinv, Instr.icinvComplete) ∈ t.sched)
    ∧ (∃ t, exec .icinvAll s = .next t ∧ t.icache = [] ∧ (s.cycle + Config.lat.icinv, Instr.icinvComplete) ∈ t.sched)
    ∧ ∃ t, exec .icinvComplete s = .next t ∧ t.icInvs = r ∧ ((strandOf s a).run = .parked .command → (strandOf t a).run = .ready)
      ∧ (∀ b v q, r = (b, v) :: q → (s.cycle + 1, icinvEvent v) ∈ t.sched) ∧ SameMemory s t

/-- R92, R103, R104: the oldest region command of its kind is carried out: where it is answered, STR.HTR of the context that it names holds its
status word and the strand that wrote it goes on; with no command of the kind nothing changes. CREATE that no requirement fails makes an entry of
the range, ASID, party and state given, with no lender and no shares, keeping GEN; one that fails makes none; a STATE that is none of EXCL, SYNC
and GROUP answers 3. DESTROY, RECLAIM and SEIZE of no region answer 1; on an entry that is in transit or waited for they wait. DESTROY of a region
that the runtime holds or of a SYNC region, nothing lent or shared, frees it with GEN + 1, and else answers 2, 3 or 4; RECLAIM of a POISONED or LOST
region gives it to the runtime, EXCL, without lender or shares, and else answers 3; SEIZE of an EXCL, SHARED or GROUP region begins a transfer to the
runtime that clears the lender, and else answers 3. A reserved OP answers 15. -/
def Obligations.RegionCommands : Prop :=
  (∀ (s u : State) (by_ ctx : Agent) (w : Word),
    let answered := fun (i : Instr) (v : State) (key : Option Nat) (st : Nat) => exec i s = .next (commandDone v by_ ctx key st)
    (takeCommand s .create = some ((by_, ctx, w), u) →
      let base := commandVa u ctx / 256
      let len := fld (strandOf u ctx).str.htb 39 0
      let r := createOp u ctx base len w
      (answered .create r.2.2 r.2.1 r.1 ∧ (r.1 ≠ 0 → r.2.2 = u ∧ r.2.1 = none)
        ∧ (r.1 = 0 → ∃ k, r.2.1 = some k ∧ let e := entryOf r.2.2 k
          e.asid = fld w 31 20 ∧ e.base = base ∧ e.len = len ∧ e.holder = BitVec.ofNat 32 (fld w 63 32) ∧ e.lender = 0 ∧ e.shares = 0
            ∧ e.state = fld w 19 16 ∧ e.gen = (entryOf u k).gen ∧ (e.state = 1 ∨ e.state = 3 ∨ e.state = 4)))
      ∧ (fld w 19 16 ≠ 1 → fld w 19 16 ≠ 3 → fld w 19 16 ≠ 4 → answered .create u none 3))
    ∧ (∀ i ∈ [Instr.destroy, .reclaim, .seize], takeCommand s i = some ((by_, ctx, w), u) →
      (commandRegion u ctx w = none → answered i u none 1)
      ∧ ∀ key e, commandRegion u ctx w = some (key, e) → mustWait u u.tokenQueue [key] = true →
        exec i s = .next (waitToken u [key] (.command by_ ctx w)))
    ∧ (∀ key e, commandRegion u ctx w = some (key, e) → mustWait u u.tokenQueue [key] = false →
      (takeCommand s .destroy = some ((by_, ctx, w), u) →
        (e.holder ≠ runtimeParty → e.state ≠ 3 → answered .destroy u (some key) 2)
        ∧ ((e.holder = runtimeParty ∨ e.state = 3) → e.lender ≠ 0 → answered .destroy u (some key) 3)
        ∧ ((e.holder = runtimeParty ∨ e.state = 3) → e.lender = 0 → e.shares ≠ 0 → answered .destroy u (some key) 4)
        ∧ ((e.holder = runtimeParty ∨ e.state = 3) → e.lender = 0 → e.shares = 0 →
          ∃ v, answered .destroy v (some key) 0 ∧ (entryOf v key).state = 0 ∧ (entryOf v key).gen = (entryOf u key).gen + 1))
      ∧ (takeCommand s .reclaim = some ((by_, ctx, w), u) →
        (e.state ≠ 5 → e.state ≠ 6 → answered .reclaim u (some key) 3)
        ∧ ((e.state = 5 ∨ e.state = 6) → ∃ v, answered .reclaim v (some key) 0 ∧ (entryOf v key).holder = runtimeParty ∧ (entryOf v key).lender = 0
          ∧ (entryOf v key).state = 1 ∧ (entryOf v key).shares = 0 ∧ (∀ r ∈ v.shares, r.2.entry ≠ key)))
      ∧ (takeCommand s .seize = some ((by_, ctx, w), u) →
        (e.state ≠ 1 → e.state ≠ 2 → e.state ≠ 4 → answered .seize u (some key) 3)
        ∧ ((e.state = 1 ∨ e.state = 2 ∨ e.state = 4) → ∃ t x, exec .seize s = .next t ∧ mfind t.transfers key = some x ∧ x.holder = runtimeParty
          ∧ x.lender = 0 ∧ x.state = 1 ∧ x.who = some by_ ∧ (entryOf t key).transit = true)))
    ∧ (takeCommand s .htBadop = some ((by_, ctx, w), u) → answered .htBadop u none 15))
  ∧ (∀ (s : State), ∀ i ∈ [Instr.create, .destroy, .reclaim, .seize, .htBadop], takeCommand s i = none → exec i s = .next s)
  ∧ ∀ (s : State) (by_ ctx : Agent) (key : Option Nat) (st : Nat),
    let t := commandDone s by_ ctx key st
    (strandOf t ctx).str.htr = tokenWord key st ∧ ((strandOf s by_).run = .parked .command → (strandOf t by_).run = .ready)

/-- The times of SAVE and RESTORE and the points of the TDU that the rules leave open rest on log entry 50, placement on 70 and 31.
R191, R193, R194, R203 to R207, R209, R212: the command at the head of the TDU's queue ends with its status and LEN in DEV.TDUSTAT, the next
one follows. ADMIT of a FREE partition of free enabled units, whose ASID no other has, scrubs their scratchpads and leaves it in RUN, with a
placement to follow; PREEMPT of a partition in RUN leaves the trap pending on every strand and sets the halt at most GRACE µs later; the halt stops
every strand; the swap, once all is drained, leaves it HALTED and its contexts free; RESUME of a HALTED one leaves it in RUN; SAVE, once no
device-level operation of the partition is left, writes the image and leaves it FREE, or ends with 5 and leaves it HALTED; SIZEQ of a HALTED one
answers the image's length; RESTORE of a FREE one that meets every requirement and fits ends with 0; RELEASE of one in RUN or HALTED leaves it FREE; each
refuses a partition in another state with status 2, a reserved OP with 1.
R194, R195: a placement puts the spawn that is selected into its context: READY at the record's pc, with its argument in register 0 and every
other register 0, its partition and its base. -/
def Obligations.PartitionCommands : Prop :=
  (∀ (s : State) (c : TduCmd) (r : List TduCmd), s.tdu.commands = c :: r →
    let p := c.part
    let w := partWord s p
    let asid := fld w 43 32
    let st := partSt s p
    let ends := fun (i : Instr) (u : State) (status len : Nat) => exec i s = .next (tduDone u status len)
    ends .badcmd s 1 0
    ∧ ((st ≠ 0 ∨ asidTaken s p asid = true) → ends .tduAdmit s 2 0)
    ∧ (st = 0 → asidTaken s p asid = false → (s.faults.fstate = 3 ∨ wordTiles w = 0 ∨ unitsMissing s (wordTiles w) (wordStacks w) = true) → ends .tduAdmit s 3 0)
    ∧ (st = 0 → asidTaken s p asid = false → s.faults.fstate ≠ 3 → wordTiles w ≠ 0 → unitsMissing s (wordTiles w) (wordStacks w) = false →
      (unitsBusy s p (wordTiles w) (wordStacks w) = true → ends .tduAdmit s 4 0)
      ∧ (unitsBusy s p (wordTiles w) (wordStacks w) = false → ∃ u, ends .tduAdmit u 0 0 ∧ partSt u p = 1
        ∧ (s.cycle + 1, Instr.placement) ∈ u.sched
        ∧ ∀ t ∈ partTiles s p, ∀ l, scratchLoc (2 * t) 0 ≤ l → l < scratchLoc (2 * t + 2) 0 → hbmByte u l = memDefault))
    ∧ (st ≠ 1 → ends .preempt s 2 0)
    ∧ (st = 1 → ∃ t, exec .preempt s = .next t ∧ partSt t p = 3 ∧ t.tdu.commands = s.tdu.commands
      ∧ (∀ x ∈ strandsOf s p, x.2.party ≠ 0 → (strandOf t x.1).pending.preempt = true)
      ∧ ∃ d, (s.cycle + d, Instr.haltStart) ∈ t.sched ∧ d ≤ fld c.cmd 53 44 * 2500)
    ∧ (∃ t, exec .haltStart s = .next t ∧ (s.cycle + 27000, Instr.shadowSwap) ∈ t.sched
      ∧ ∀ x ∈ strandsOf s p, strandOf s x.1 = x.2 → ∃ k, (strandOf t x.1).run = .halted k)
    ∧ (let v := (partTiles s p).foldl (fun s t => holdStuck s (t * 5 + 4)) s
       (drained v p = false → exec .shadowSwap s = .next (post v 100 .shadowSwap))
       ∧ (drained v p = true → ∃ u, ends .shadowSwap u 0 0 ∧ partSt u p = 2 ∧ ∀ x ∈ strandsOf v p, (strandOf u x.1).run = .free))
    ∧ (st ≠ 2 → ends .resume s 2 0) ∧ (st = 2 → ∃ u, ends .resume u 0 0 ∧ partSt u p = 1 ∧ mfind u.tdu.shadows p = none)
    ∧ (st < 2 → ends .save s 2 0)
    ∧ (2 ≤ st → deviceOps s p ≠ 0 ∨ imageParts s asid (imageOf s p 0).len .store = .error true → exec .save s = .next (post (setPartSt s p 3) 100 .save))
    ∧ (2 ≤ st → deviceOps s p = 0 →
      (imageParts s asid (imageOf s p 0).len .store = .error false → ∃ u, ends .save u 5 0 ∧ partSt u p = 2)
      ∧ ∀ ps, imageParts s asid (imageOf s p 0).len .store = .ok ps →
        ∃ u, ends .save u 0 (((imageOf s p 0).len + 255) / 256) ∧ partSt u p = 0 ∧ mfind u.tdu.shadows p = none
          ∧ SameMemory (writeParts s { tduActor asid 1 with path := .host } ps (denseBytes (imageOf s p 0).len 0 (imageOf s p 0).bytes)) u)
    ∧ (st = 2 → ends .sizeq s 0 (imageLength s p)) ∧ (st = 0 ∨ st = 3 → ends .sizeq s 2 0)
    ∧ (st = 1 ∨ st = 2 → ends .restore s 2 0)
    ∧ (st = 0 ∨ st = 3 → readImage s asid = .error true → exec .restore s = .next (post (setPartSt s p 3) 100 .restore))
    ∧ (∀ b v u, st = 0 ∨ st = 3 → readImage s asid = .ok (b, v) → asidTaken s p (imageAsid b) = false →
      unitsMissing s (wordTiles w) (wordStacks w) = false → (wordTiles w ≠ 0 → imageTiles b ≠ 0) → (wordStacks w ≠ 0 → imageStacks b ≠ 0) →
      unitsBusy s p (wordTiles w) (wordStacks w) = false → imageWhole b = true → imageKnown b = true → (asid = 0 ∨ imageAsid b = asid) →
      firstFit v b p (unitSets v p (imageTiles b) (imageStacks b) (wordTiles w) (wordStacks w)) = some u → ends .restore u 0 0)
    ∧ (st ≠ 1 → st ≠ 2 → ends .release s 2 0)
    ∧ (st = 1 ∨ st = 2 → ∃ u, ends .release u 0 0 ∧ partSt u p = 0 ∧ mfind u.tdu.shadows p = none))
  ∧ (∀ (u : State) (c : TduCmd) (r : List TduCmd) (st len : Nat), u.tdu.commands = c :: r → st < 256 → len < 2 ^ 40 →
    let t := tduDone u st len
    t.tdu.commands = r ∧ fld t.tdu.stat 63 56 = st ∧ fld t.tdu.stat 39 0 = len ∧ ((strandOf u c.by_).run = .parked .command → (strandOf t c.by_).run = .ready)
      ∧ ∀ n q, r = n :: q → (u.cycle + Config.lat.tdu, tduEvent n.cmd) ∈ t.sched)
  ∧ ∀ (s : State), (selectSpawn s = none → exec .placement s = .next s)
    ∧ ∀ before sp behind p ws value lead trail, selectSpawn s = some (before, sp, .placed p ws value lead trail, behind) →
      ∃ t, exec .placement s = .next t ∧ (strandOf t lead.1).run = .ready ∧ (strandOf t lead.1).pc = recWord ws 1 ∧ (strandOf t lead.1).partition = p
        ∧ (∀ n, (strandOf t lead.1).reg n = if n = 0 then value else 0) ∧ fld (strandOf t lead.1).str.part 27 16 = lead.2 % 4096

/-! ## Engine operations (spec/14 R392 to R401, spec/16, spec/18) -/

/-- R18, R395, R396: what a copy routine does. Word n of COPY goes from SRC + 8n to DST + 8n, of COPY2D from and to its row by the strides, of
GATHER from the address in its table entry; arguments outside their limits end with BADARG, the last word with OK and the bytes moved, a lost peer
with PEERLOST, a peer address that is not canonical with a fault; a step reads the next word, through the table where there is one, then writes
it, and goes on; a Fill that waits holds the routine, a BUSY one is retried 16 cycles later, a word of host memory comes with its completion; words
for a peer go in a packet with their marks. An End that is due ends the routine; a failure takes the place of one without a failure.
R184, R392, R428, R401, R448, R458, R459: a freed queue entry lets the strand parked longest go on; a routine that the engine lacks ends with 1; an
engine's error retires it, stops its hart and ends its operation; the stencil routine stores its stencil and ends with OK 2 µs later, or ends with BADARG;
a token request leaves once no fabric write of its strand to the chip is unacknowledged, or ends with BADARG or PEERLOST; a link message leaves, or
ends with BADARG; a read of host memory that completes is the next word of a copy, one in error stops a hart and ends with 3.
Bursts of 8 words and packets of 32 are the model's choice (log entry 47), DETAIL 0 under TOKEN and PEERLOST too (64), routines as events (40).
R393, R397: an operation enters its End once; its steps wait for its fabric writes and its returns; then they fill the mailbox word with the
status word, then signal, then put, retried every 16 cycles while the queue is full, and then the operation is over. -/
def Obligations.EngineOperations : Prop :=
  (∀ (s : State) (e : Nat) (k : Kick), (engineOf s e).op = some k → (engineOf s e).ending = none →
    let w := argWord k
    let p := copyPlan k
    let n := (engineOf s e).progress
    (fld k.word 63 58 = 0 → p.total = fld (w 3) 39 0 / 8 ∧ ∀ j, p.src j = (((w 1).toNat + 8 * j) % 2 ^ 64, 0) ∧ p.dst j = ((w 2).toNat + 8 * j) % 2 ^ 64)
    ∧ (fld k.word 63 58 = 1 → let row := fld (w 3) 31 0 / 8
      p.total = row * fld (w 3) 63 32 ∧ ∀ j, word (p.src j).1 = w 1 + word (j / row) * w 4 + word (8 * (j % row))
        ∧ word (p.dst j) = w 2 + word (j / row) * w 5 + word (8 * (j % row)))
    ∧ (fld k.word 63 58 = 2 → let row := fld (w 3) 47 32 / 8
      p.total = fld (w 3) 31 0 * row ∧ ∀ j, p.src j = (((w 1).toNat + 8 * (j / row)) % 2 ^ 64, 8 * (j % row) + 1)
        ∧ p.dst j = ((w 2).toNat + j / row * fld (w 3) 47 32 + 8 * (j % row)) % 2 ^ 64)
    ∧ ∀ i ∈ [Instr.copy e, .copy2d e, .gather e],
      let goes := fun (t : State) => exec i s = .next t
      (endDue s e = true → goes s) ∧ (endDue s e = false →
      (copyArgsOk k = false → goes (endWith s e 2 0))
      ∧ (copyArgsOk k = true → p.total ≤ n → goes (endWith s e 0 (8 * p.total)))
      ∧ (copyArgsOk k = true → toPeer k = true → n < p.total →
        (s.fabric.lostPeers.contains (peerChip k) = true → goes (endWith s e 6 0))
        ∧ (s.fabric.lostPeers.contains (peerChip k) = false →
          (2 ^ 56 ≤ p.dst n → goes (endWith s e 3 (p.dst n)))
          ∧ (p.dst n < 2 ^ 56 → (mayQueue s (peerChip k) 0 = false → goes (resumeRoutine s e 16))
            ∧ (mayQueue s (peerChip k) 0 = true → (∀ u, gatherPacket e p 32 n s = .error u → goes u)
              ∧ ∀ u, gatherPacket e p 32 n s = .ok u →
                let ws := (engineOf u e).gathered
                goes (resumeRoutine (wordsDone (queuePacket u (peerChip k) 0 0 k.asid (word (p.dst n)) (ws.map fun x => x.1) (some k.by_) (some e)
                  (positions 32 fun j => ws[j]?.any fun x => x.2)) e (n + ws.length)) e 1)))))
      ∧ (copyArgsOk k = true → toPeer k = false → n < p.total →
        (∀ b, sourceOf s e p n = .error b → goes (badEnd s e b))
        ∧ (∀ va u, sourceOf s e p n = .ok (.unaligned va, u) → goes (endWith u e 2 va))
        ∧ (∀ va u, sourceOf s e p n = .ok (.host va, u) → goes (post u Config.lat.miss (.hostApertureCompletion e false (word va))))
        ∧ ∀ x poison u, sourceOf s e p n = .ok (.word x poison, u) →
          let v := modEngine u e fun y => { y with gathered := [(x, poison)] }
          (∀ b, engineWrite v e (p.dst n) x poison = .error b → goes (badEnd v e b))
          ∧ (engineWrite v e (p.dst n) x poison = .ok .busy → goes (post v 16 (.engineBusyRetry e)))
          ∧ (∀ t, engineWrite v e (p.dst n) x poison = .ok (.waiting t) → goes t)
          ∧ ∀ t, engineWrite v e (p.dst n) x poison = .ok (.performed t) → goes (copyWords e p 7 (wordsDone t e (n + 1)))))
      ∧ ((engineOf s e).gathered = [] →
        let source := fun (t : State) (va : Nat) (out : Except Bad (Source × State)) =>
          (∀ b, engineRead t e va = .error b → out = .error b) ∧ (∀ u, engineRead t e va = .ok (none, u) → out = .ok (.host va, u))
          ∧ ∀ x poison u, engineRead t e va = .ok (some (x, poison), u) → out = .ok (.word x poison, u)
        ((p.src n).2 = 0 → source s (p.src n).1 (sourceOf s e p n))
        ∧ ((p.src n).2 ≠ 0 → (engineOf s e).elem = none →
          (∀ b, engineRead s e (p.src n).1 = .error b → sourceOf s e p n = .error b)
          ∧ (∀ u, engineRead s e (p.src n).1 = .ok (none, u) → sourceOf s e p n = .ok (.host (p.src n).1, u))
          ∧ ∀ x poison u, engineRead s e (p.src n).1 = .ok (some (x, poison), u) →
            let v := modEngine u e fun y => { y with elem := some (n / p.row, x) }
            let va := (x.toNat + ((p.src n).2 - 1)) % 2 ^ 64
            (x.toNat % 8 ≠ 0 → sourceOf s e p n = .ok (.unaligned va, v)) ∧ (x.toNat % 8 = 0 → source v va (sourceOf s e p n)))))
  ∧ ((∀ (s : State) (e : Nat),
    ((∃ x ∈ s.strands, x.2.run = .parked (.kickFull e)) →
      ∃ x ∈ s.strands, x.2.run = .parked (.kickFull e) ∧ (∀ y ∈ s.strands, y.2.run = .parked (.kickFull e) → x.2.parkedAt ≤ y.2.parkedAt)
        ∧ exec (.kickAccept e) s = .next (makeReady s (agentOfKey x.1)))
    ∧ ((∀ x ∈ s.strands, x.2.run ≠ .parked (.kickFull e)) → exec (.kickAccept e) s = .next s))
  ∧ (∀ (s : State) (e st d : Nat), (endDue s e = false → endWith s e st d = post s 1 (.endOp e st d))
    ∧ (endDue s e = true → (endsOk s e = false ∨ st = 0) → endWith s e st d = s)
    ∧ (endsOk s e = true → st ≠ 0 → (∃ c, (c, Instr.endOp e st d) ∈ (endWith s e st d).sched)
      ∧ ∀ c x y, (c, Instr.endOp e x y) ∈ (endWith s e st d).sched → x = st ∧ y = d))
  ∧ (∀ (s : State) (e : Nat), exec (.noroutine e) s = .next (endWith s e 1 0))
  ∧ (∀ (s : State) (e : Nat), ∃ t, exec (.engineError e) s = .next t ∧ (engineOf t e).retired = true ∧ (strandOf t (hartOf e)).run = .free
      ∧ mfind t.faults.failed (30000 + e) = some 1
      ∧ ((engineOf s e).op.isSome = true → (engineOf s e).ending = none → ∃ c st d, (c, Instr.endOp e st d) ∈ t.sched))
  ∧ (∀ (s : State) (e : Nat),
    (((engineOf s e).op = none ∨ (engineOf s e).ending ≠ none) → ∀ i ∈ [Instr.copy e, .copy2d e, .gather e, .stencilDecomposition e, .fabricTokenRequest e,
      .linkMessageSend e], exec i s = .next s)
    ∧ (((engineOf s e).op = none ∨ (engineOf s e).ending ≠ none) → ∀ err va, exec (.hostApertureCompletion e err va) s = .next s)
    ∧ ((engineOf s e).op = none → ∀ st d, exec (.endOp e st d) s = .next s))
  ∧ ∀ (s : State) (e : Nat) (k : Kick), (engineOf s e).op = some k →
    let w := argWord k
    ((engineOf s e).ending = none →
      let goes := fun (i : Instr) (t : State) => exec i s = .next t
      let chip := fld (w 2) 11 0
      (stencilArgsOk k = false → goes (.stencilDecomposition e) (endWith s e 2 0))
      ∧ (stencilArgsOk k = true → ∀ x, mxCode (fld (w 3) 4 0) = some x →
        (∀ b, engineAccess s e .load (w 1).toNat (blockBytes x) = .error b → goes (.stencilDecomposition e) (badEnd s e b))
        ∧ ∀ ps, engineAccess s e .load (w 1).toNat (blockBytes x) = .ok ps →
          let r := readParts s (engineActor s e) ps
          ((blockValues x r.1.toArray).isNone = true → ∃ y : Work, goes (.stencilDecomposition e)
            (endWith (modEngine { r.2.2 with freeCount := r.2.2.freeCount + 4096 } e fun z => { z with work := y }) e 2 (w 1).toNat))
          ∧ ((blockValues x r.1.toArray).isSome = true → ∃ y : Work,
            let u := modEngine r.2.2 e fun z => { z with work := y }
            y.hash = BitVec.ofNat 256 (leNat (sm3 r.1))
              ∧ (∀ b, engineAccess u e .store (w 2).toNat stencilSize = .error b → goes (.stencilDecomposition e) (badEnd u e b))
              ∧ ∀ qs, engineAccess u e .store (w 2).toNat stencilSize = .ok qs →
                let v := writeParts u (engineActor s e) qs (denseBytes stencilSize 0 y.buffer)
                goes (.stencilDecomposition e)
                  (post (wordsDone (if readsPoison s (engineActor s e) ps then poisonParts v qs else v) e 1) 5000 (.endOp e 0 stencilSize))))
      ∧ (tokenArgsOk k = false → goes (.fabricTokenRequest e) (endWith s e 2 0))
      ∧ (tokenArgsOk k = true → (engineOf s e).progress ≠ 0 → goes (.fabricTokenRequest e) s)
      ∧ (tokenArgsOk k = true → (engineOf s e).progress = 0 →
        let owed := (s.fabric.unacked ++ s.fabric.backlog).any fun u => u.by_ == some k.by_ && decide (u.packet.dst = chip) && decide (u.packet.tc = 0)
        (s.fabric.lostPeers.contains chip = true → goes (.fabricTokenRequest e) (endWith s e 6 0))
        ∧ (s.fabric.lostPeers.contains chip = false → owed = true ∨ mayQueue s chip 1 = false → goes (.fabricTokenRequest e) (resumeRoutine s e 1))
        ∧ (s.fabric.lostPeers.contains chip = false → owed = false → mayQueue s chip 1 = true →
          ∃ t, exec (.fabricTokenRequest e) s = .next t ∧ (engineOf t e).progress = mget 0 s.fabric.nextSeq (seqKey chip 1) + 1
            ∧ ∃ u ∈ t.fabric.unacked, u.packet.dst = chip ∧ u.packet.tc = 1 ∧ u.packet.typ = 3 ∧ u.packet.va = w 1 ∧ u.packet.payload = [w 2]))
      ∧ ((headerOk k = false ∨ fld (w 1) 63 10 ≠ 0 ∨ fld (w 1) 7 6 ≠ 0) → goes (.linkMessageSend e) (endWith s e 2 0))
      ∧ (headerOk k = true → fld (w 1) 63 10 = 0 → fld (w 1) 7 6 = 0 →
        let port := fld (w 1) 5 0
        (port < 48 → (mget {} s.fabric.ports port).state = 4 → goes (.linkMessageSend e) (endWith
          { s with fabric := { s.fabric with sentMsgs := s.fabric.sentMsgs ++ [(fld (w 1) 9 8 * 64 + port, [0x80, w 2, w 3, w 4, w 5, w 6, w 7, 0])] } } e 0 0))
        ∧ ((48 ≤ port ∨ (mget {} s.fabric.ports port).state ≠ 4) → goes (.linkMessageSend e) (endWith s e 2 0)))
      ∧ (∀ va, goes (.hostApertureCompletion e true va) (endWith (modStrand s (hartOf e) fun r => { r with run := .free }) e 3 va.toNat))
      ∧ (∀ va,
        let p := copyPlan k
        let n := (engineOf s e).progress + (engineOf s e).gathered.length
        let table := (p.src n).2 ≠ 0 ∧ (engineOf s e).elem.filter (fun y => y.1 == n / p.row) = none
        ((strandOf s (hartOf e)).run ≠ .free → goes (.hostApertureCompletion e false va) s)
        ∧ ((strandOf s (hartOf e)).run = .free →
          (table → goes (.hostApertureCompletion e false va)
            (resumeRoutine (modEngine (fresh s).2 e fun y => { y with elem := some (n / p.row, (fresh s).1) }) e 0))
          ∧ (¬table → goes (.hostApertureCompletion e false va)
            (resumeRoutine (modEngine (fresh s).2 e fun y => { y with gathered := y.gathered ++ [((fresh s).1, false)] }) e 0))))
      ∧ ∀ st d, goes (.endOp e st d) (endSteps (enterEnd s e k st d) e k st d)
        ∧ (engineOf (enterEnd s e k st d) e).ending = some (st, d) ∧ (wantsReturn k = false → (engineOf (enterEnd s e k st d) e).returns = []))
    ∧ (∀ x y st d, (engineOf s e).ending = some (x, y) → exec (.endOp e st d) s = .next (endSteps s e k x y))
    ∧ ∀ st d,
      (endWaits s e = true → endSteps s e k st d = post s 1 (.endOp e st d))
      ∧ (∀ va r, endWaits s e = false → (engineOf s e).returns = va :: r →
        let keys := ((regionFor s (engineActor s e) va.toNat).map (·.1)).toList
        endSteps s e k st d = post (if mustWait s s.tokenQueue keys then waitToken s keys (.engine e va) else returnRegion s e va) 1 (.endOp e st d))
      ∧ (endWaits s e = false → (engineOf s e).returns = [] →
        let late := (engineOf s e).lost = true ∧ st = 0
        let v := word ((if late then 6 else st) * 2 ^ 56 + (if late then 0 else d) % 2 ^ 56)
        let o := 8 * fld (w 0) 12 0
        (endTile s e k = none → endSteps s e k st d = endOver s e)
        ∧ ∀ t, endTile s e k = some t → heldBack s e k = false →
          ((engineOf s e).filled = false → (∀ q ∈ s.waiters, q.who ≠ .engineEnd e) →
            let x := arrive s (requestAt s (.engineEnd e) .fill (mailLoc t o) false (word (winBase + 2 ^ 33 + o)) k.asid v)
            (x.1 = .busy → endSteps s e k st d = post x.2 16 (.engineBusyRetry e)) ∧ (x.1 ≠ .busy → endSteps s e k st d = x.2))
          ∧ ((engineOf s e).filled = true →
            let u := if (engineOf s e).progress = 0 ∧ bit (w 0) 55 = true then semSignal s t (fld (w 0) 63 56) 1 else s
            let r := rqPut u (t * 8 + fld (w 0) 53 51) (fld (w 0) 50 49) v
            (bit (w 0) 54 = false → endSteps s e k st d = endOver u e)
            ∧ (bit (w 0) 54 = true → endSteps s e k st d
              = if r.1 = 1 then post (modEngine u e fun x => { x with progress := 1 }) 16 (.engineBusyRetry e) else endOver r.2 e))))

/-! ## What keeps a mesh within its declaration (spec/09) -/

/-- The periods, the times of recalibration and the count of windows rest on log entries 29, 39 and 71.
R266, R267: a probe slot schedules the next one, at twice the rate while a column is on probes alone, and at twice that rate while the checksum
has missed lately (R434); on a
mesh in service with a valid active bank it counts one probe, takes its error into the window's largest ones, moves the rotation on and at the
1,024th ends the window; else it changes nothing in the mesh. A window's end computes both declarations again, and a declaration below its
floor retires the mesh; a declaration falls at once to what the largest error allows, and rises by one after 64 windows that allow more.
R268: a trim update comes again after 10 µs; it sets every column's heater from the mean of its plausible sensors and the phase error, and moves
the active bank's codes in a column by at most one step and the other bank's not at all. How the heater depends on its inputs, and the phase
error, are free (log entry 3).
R248, R269, R270: recalibration sets RECAL, once, and its end, within 2 ms, clears it, takes every sensor in again, converts both banks, holds a load
or swap back no longer, and leaves the declarations, which are free, between their floors and 8 bits and the mesh in service unless a failure is
not covered. A sample takes its readings, excludes a sensor that is out of range, and of two that disagree the one that the witness names; where the
witness has not decided in time both are excluded. A failure of a mode retires the mesh, unless nothing notices it yet (R434): then its codes fail until the next calibration; with a spare mode left the mode is left out and a
recalibration follows. A mesh that retires keeps of each pass the vectors that have entered, and leaves a record. -/
def Obligations.MeshUpkeep : Prop :=
  (∀ (s : State) (tile : Nat),
    let m := meshOf s tile
    (let on := !(m.retired || m.recal || !(activeBank m).valid)
     let e := probeErrors (opticOf (denseBytes stencilSize 0 (activeBank m).stencil)) s.freeCount [(m.probeK % 64, decide (m.probes % 8 = 7))]
     ∃ t, exec (.probeSlot tile) s = .next t
      ∧ (s.cycle + (if aloneCols m ≠ [] ∧ m.doubled ≠ 0 then 6 else if aloneCols m ≠ [] ∨ m.doubled ≠ 0 then 13 else 27), Instr.probeSlot tile) ∈ t.sched ∧ SameMemory s t
      ∧ (on = true → (meshOf t tile).probes = m.probes + 1 ∧ (meshOf t tile).maxSingle = max m.maxSingle e.1 ∧ (meshOf t tile).maxDiff = max m.maxDiff e.2
        ∧ (meshOf t tile).probeK = (m.probeK + 1) % 64 ∧ (m.probes = 1023 → (s.cycle, Instr.declarationUpdate tile) ∈ t.sched))
      ∧ (on = false → meshOf t tile = m))
    ∧ (∃ t, exec (.trimLoop tile) s = .next t ∧ (s.cycle + 25000, Instr.trimLoop tile) ∈ t.sched
      ∧ (∀ c, c < 68 →
        let x : Trim := mget {} m.trims c
        let y : Trim := mget {} (meshOf t tile).trims c
        y.heater = Config.heater (((meanTemp x).map fun n => n - x.cal.toInt).getD 0) y.phase % 1001
          ∧ y.ta = x.ta ∧ y.tb = x.tb ∧ y.cal = x.cal ∧ y.excl = x.excl ∧ y.undecided = x.undecided
          ∧ (mget (0, 0) (bankAt (meshOf t tile) (m.active % 2)).trims c).1 = (mget (0, 0) (bankAt m (m.active % 2)).trims c).1
          ∧ ((mget (0, 0) (bankAt (meshOf t tile) (m.active % 2)).trims c).2 - (mget (0, 0) (bankAt m (m.active % 2)).trims c).2).natAbs ≤ 1)
      ∧ bankAt (meshOf t tile) (idleBank m) = bankAt m (idleBank m))
    ∧ (let alone := decide (aloneCols m ≠ [])
      let a := declare m.maxSingle m.single m.upSingle alone
      let b := declare m.maxDiff m.diff m.upDiff alone
      let u := modMesh s tile fun m => { m with single := a.1, diff := b.1, upSingle := a.2, upDiff := b.2, probes := m.probes - 1024, maxSingle := 0, maxDiff := 0, doubled := m.doubled - 1 }
      exec (.declarationUpdate tile) s = .next (if a.1 < 104 then retireMesh u tile 1 else if b.1 < 120 then retireMesh u tile 2 else u))
    ∧ (m.recal = true → exec (.recalibration tile) s = .next s)
    ∧ (m.recal = false → ∃ t, exec (.recalibration tile) s = .next t ∧ (meshOf t tile).recal = true ∧ (s.cycle + 5000000, Instr.recalComplete tile) ∈ t.sched)
    ∧ (∃ t, exec (.recalComplete tile) s = .next t ∧ (meshOf t tile).recal = false ∧ (meshOf t tile).retired = m.uncovered ∧ (meshOf t tile).failing = false
      ∧ 104 ≤ (meshOf t tile).single ∧ (meshOf t tile).single ≤ 128 ∧ 120 ≤ (meshOf t tile).diff ∧ (meshOf t tile).diff ≤ 128
      ∧ (meshOf t tile).bank0.calib = m.calib ∧ (meshOf t tile).bank0.avoid = m.avoid ∧ (meshOf t tile).bank1.calib = m.calib
      ∧ (meshOf t tile).bank1.avoid = m.avoid ∧ (∀ c, (mget {} (meshOf t tile).trims c : Trim).excl = 0)
      ∧ (∀ e ∈ t.sched, ∀ c, e.2 ≠ .sensorWitnessTimeout tile c)
      ∧ (m.load ≠ none → ∃ c, (c, Instr.ploadDone tile) ∈ t.sched)
      ∧ (m.load = none → m.swap ≠ none → ∃ c, (c, Instr.pswapEffect tile) ∈ t.sched))
    ∧ ∀ c, ((mget {} m.trims c : Trim).undecided = true → ∃ t u, exec (.sensorWitnessTimeout tile c) s = .next t ∧ t = sensorRecord u tile c (mget {} m.trims c : Trim).excl
        ∧ (mget {} (meshOf u tile).trims c : Trim).excl = 3)
      ∧ ((mget {} m.trims c : Trim).undecided = false → exec (.sensorWitnessTimeout tile c) s = .next s))
  ∧ (∀ (e current up : Nat) (alone : Bool),
    let d := declare e current up alone
    let limit := if e = 0 then 128 - (if alone then 8 else 0) else sixteenthBits e - 4 - (if alone then 8 else 0)
    (limit < current → current ≤ 128 → d.1 = limit ∧ d.2 = 0) ∧ (current < min limit 128 → d.1 = current + (if 63 ≤ up then 1 else 0)) ∧ (current ≤ 128 → d.1 ≤ 128)
      ∧ (0 < e → e ≤ 32512 → (2 ^ sixteenthBits e) * e ^ 16 ≤ 32512 ^ 16 ∧ 32512 ^ 16 < 2 ^ (sixteenthBits e + 1) * e ^ 16))
  ∧ (∀ (s : State) (ns : List Nat) (r : List Input), s.inputs = .figures ns :: r →
    let t0 := ns.headD 0
    (ns.getD 2 0 = 1 → exec .modeOrCellFailure s = .next (modMesh { s with inputs := r } t0 fun m => { m with failing := true }))
    ∧ (ns.getD 2 0 ≠ 1 → ∃ t u, exec .modeOrCellFailure s = .next t ∧ t.inputs = r
      ∧ u = retireMesh { s with inputs := r } t0 3
      ∧ ((meshOf u t0).spares = 0 → t = modMesh u t0 fun m => { m with uncovered := true })
      ∧ ((meshOf u t0).spares ≠ 0 → (meshOf t t0).spares = (meshOf u t0).spares - 1 ∧ (meshOf t t0).avoid = sadd (meshOf u t0).avoid (ns.getD 1 0 % 68)
        ∧ (s.cycle + 1, Instr.recalibration t0) ∈ t.sched))
    ∧ ∃ t, exec .sensorSample s = .next t ∧ t.inputs = r ∧
      let c := min 67 (ns.getD 1 0)
      let x : Trim := mget {} (meshOf s t0).trims c
      let y := sampled x (BitVec.ofNat 16 (ns.getD 2 0)) (BitVec.ofNat 16 (ns.getD 3 0)) s.cycle
      ((fld s.faults.flogbase 51 12 = 0) →
        let z : Trim := mget {} (meshOf t t0).trims c
        z.ta = BitVec.ofNat 16 (ns.getD 2 0) ∧ z.tb = BitVec.ofNat 16 (ns.getD 3 0)
          ∧ (y.excl ≠ 0 → z.excl = y.excl) ∧ (y.excl = 0 → 192 < (z.ta.toInt - z.tb.toInt).natAbs →
            z.excl = (if ns.getD 4 0 = 1 then 1 else if ns.getD 4 0 = 2 then 2 else 0) ∧ (z.undecided = true ↔ ns.getD 4 0 ≠ 1 ∧ ns.getD 4 0 ≠ 2))))
  ∧ (∀ (x : Trim) (ta tb : BitVec 16) (n : Nat),
    ((ta.toInt < -1280 ∨ 8000 < ta.toInt) → (sampled x ta tb n).excl.getLsbD 0 = true)
    ∧ ((tb.toInt < -1280 ∨ 8000 < tb.toInt) → (sampled x ta tb n).excl.getLsbD 1 = true))
  ∧ ∀ (s : State) (tile reason : Nat), (meshOf s tile).retired = false → fld s.faults.flogbase 51 12 = 0 →
    let t := retireMesh s tile reason
    (meshOf t tile).retired = true ∧ (∀ run ∈ (meshOf t tile).running, run.cut = true)
      ∧ (meshOf t tile).running.map (·.vectors) = (meshOf s tile).running.map (fun r => r.vectors.take (enteredBy s.cycle r - r.next))
      ∧ (s.faults.queue.length < 256 → t.faults.queue.length = s.faults.queue.length + 1)

/-! ## Power and the module (spec/17) -/

/-- The exact 12, 1, 2 and 4 µs rest on log entries 4 and 58, the alert, LEVEL and the sensors on 65.
R463, R464, R467 to R473, R487, R488: a refill epoch comes again after 1 µs; a switch takes the highest point requested, for a fall with the voltage in the next cycle; an idle quad spills,
gates 2 µs later with none of its L1 and instruction-cache lines and TLB entries left, and is woken within 4 µs, after a spill that a wake event found running; the margin of 30 ps raises the guard
band and at its end marks the quad; the sensors' HIT, alert, LEVEL and shutdown follow their thresholds, and PLDM reads them; the power cap stays in its range; a firmware
image waits with its key and its version for the next start; the certificate counts up and is file 1; a failed lit module is replaced by a
spare, and an inserted one is lit where fewer than eight are. -/
def Obligations.PowerEvents : Prop :=
  (∀ (s : State) (q : Nat),
    (∃ t, exec .refillEpoch s = .next t ∧ (s.cycle + 2500, Instr.refillEpoch) ∈ t.sched ∧ SameMemory s t
      ∧ ∀ c, (coreOf s c).level ≤ 4096 → (coreOf t c).level ≤ 4096)
    ∧ ((∀ x ∈ s.strands, ∀ k, x.2.run ≠ .halted k) → ∃ t, exec (.opPointSwitch q) s = .next t ∧ (quadOf t q).pt = requestedPoint s q
      ∧ (requestedPoint s q < (quadOf s q).pt → (quadOf t q).mv = (quadOf s q).mv ∧ (s.cycle + 1, Instr.opPointSwitch q) ∈ t.sched)
      ∧ ((quadOf s q).pt ≤ requestedPoint s q → (quadOf t q).mv = pointVoltage (requestedPoint s q) (quadOf s q).gband)
      ∧ (∀ i, i < 4 → (quadOf s q).eol = false → (coreOf s (q * 4 + i)).vfreq ≤ (quadOf t q).pt) ∧ ∀ p, p ≠ q → quadOf t p = quadOf s p)
    ∧ ((quadOf s q).gate = 0 → gateable s q = true → ∃ t, exec (.deepGateEntry q) s = .next t ∧ (quadOf t q).gate = 1
      ∧ (s.cycle + 5000, Instr.deepGateEntry q) ∈ t.sched ∧ (∀ l ∈ t.l1, l.core / 4 ≠ q) ∧ ∀ a n, (strandOf t a).reg n = (strandOf s a).reg n)
    ∧ ((quadOf s q).gate = 1 → ∃ t, exec (.deepGateEntry q) s = .next t ∧ (quadOf t q).gate = 2
      ∧ (∀ l ∈ t.icache, l.core / 4 ≠ q) ∧ (∀ e ∈ t.tlbs, 1000 ≤ e.unit → (e.unit - 1000) / 4 ≠ q) ∧ SameMemory s t ∧ ∀ a n, (strandOf t a).reg n = (strandOf s a).reg n)
    ∧ ((quadOf s q).gate = 2 → ∃ t, exec (.wakeEvent q) s = .next t ∧ (quadOf t q).gate = 3 ∧ (s.cycle + 10000, Instr.wakeComplete q) ∈ t.sched)
    ∧ ((quadOf s q).gate = 1 → ∀ e, s.sched.find? (fun e => e.2 == .deepGateEntry q) = some e → s.cycle ≤ e.1 →
      exec (.wakeEvent q) s = .next (post s (e.1 - s.cycle) (.wakeEvent q)))
    ∧ ((quadOf s q).gate = 3 → ∃ t, exec (.wakeComplete q) s = .next t ∧ (quadOf t q).gate = 0)
    ∧ (∃ t, exec .healthCertificate s = .next t ∧ t.board.certSeq = s.board.certSeq + 1 ∧ fld (t.board.cert.getD 1 0) 63 32 = s.board.certSeq % 2 ^ 32
      ∧ t.board.cert.length = 64 ∧ SameMemory s t)
    ∧ ((∀ kind unit r, s.inputs ≠ .figures [kind, unit] :: r) → exec .pldmFileTransfer s = .next (answer s (.file s.board.cert)))
    ∧ ∀ kind unit r, s.inputs = .figures [kind, unit] :: r → ∃ v, exec .pldmFileTransfer s
        = .next (answer { s with inputs := r, freeCount := s.freeCount + (if kind < 2 then 0 else 1) } (.word (kind * 2 ^ 8 + unit) v))
      ∧ (kind = 0 → v = (quadOf s unit).temp.signExtend 64) ∧ (kind = 1 → v = word (quadOf s unit).mv))
  ∧ ∀ (s : State) (ns : List Nat) (r : List Input), s.inputs = .figures ns :: r →
    let q := ns.headD 0
    let x := quadOf s q
    let temp := (BitVec.ofNat 16 (ns.getD 1 0)).toInt
    (∃ t, exec .ageingSample s = .next t ∧ t.inputs = r ∧ (quadOf t q).margin = min 255 (ns.getD 1 0)
      ∧ (quadOf t q).gband = (if ns.getD 1 0 < 30 ∧ x.gband < 32 then x.gband + 1 else x.gband)
      ∧ (quadOf t q).eol = (x.eol || (decide (ns.getD 1 0 < 30) && decide (32 ≤ x.gband))))
    ∧ (∃ t, exec .tjTrip s = .next t ∧ t.inputs = r ∧ (quadOf t q).temp = BitVec.ofNat 16 (ns.getD 1 0)
      ∧ (quadOf t q).hit = (x.hit || decide (x.trip.toInt ≤ temp)) ∧ t.board.alert = (s.board.alert || decide (105 * 64 ≤ temp))
      ∧ (quadOf t q).levelNew = (if 105 * 64 ≤ temp then min 6 (x.levelNew + 1) else x.levelNew)
      ∧ (115 * 64 ≤ temp → (s.cycle, Instr.deviceFault 5) ∈ t.sched))
    ∧ (∃ t, exec .powerCapSet s = .next t ∧ t = { s with inputs := r, board := { s.board with cap := max 600 (min 1600 q) } })
    ∧ (∃ t, exec .pldmFirmwareUpdate s = .next t
      ∧ t = { s with inputs := r, board := { s.board with imageNext := some (q, BitVec.ofNat 256 (ns.getD 1 0), ns.getD 2 0) } })
    ∧ (∃ t, exec .laserModuleInsertion s = .next t ∧ (∀ b, shas t.board.bays b = (shas s.board.bays b || (decide (b = q) && decide (q < 9)))) ∧ t.inputs = r
      ∧ t.board.lit = (if q < 9 ∧ s.board.lit.length < 8 then sadd s.board.lit q else s.board.lit))
    ∧ ∃ t, exec .laserModuleFailure s = .next t ∧ t.board.bays = s.board.bays.filter (· ≠ q) ∧ t.inputs = r
      ∧ (s.board.lit.contains q = true → (∀ b ∈ s.board.bays, b ≠ q → b ∈ s.board.lit) → (s.cycle, Instr.deviceFault 5) ∈ t.sched)
      ∧ (s.board.lit.contains q = true → (∃ b ∈ s.board.bays, b ≠ q ∧ b ∉ s.board.lit) →
        (∃ b ∈ t.board.lit, b ∈ s.board.bays ∧ b ≠ q ∧ b ∉ s.board.lit) ∧ ∀ k, bit s.caps.tilemask k = true → k < 18 → (s.cycle + 1, Instr.recalibration k) ∈ t.sched)

/-! ## Faults, repair, reset (spec/01, spec/15) -/

/-- What stands in the events from outside, the place of a listed position and the time of DECONFIG records rest on log entry 74, a core out of
use on log entry 55.
R422, R424, R435 to R438, R106: the records that wait are written once the ring has a place; a notification that finds its word empty fills it; a
correction at a unit, of HBM or of another structure, is recorded at most once a millisecond; a codeword beyond correction is poisoned; a wire takes a spare, and with none
left writes a DECONFIG record, takes its tile out and is device fault 4; a new bad position joins its rank's list, the first of a full one
going; a listed position in one bank awaits the next re-initialisation; a core that fails loses its L1 lines and its strands and is out of use; a retired management core stops, and the
spare takes over. -/
def Obligations.FaultLogAndRepair : Prop :=
  (∀ s : State,
    (fld s.faults.flogbase 51 12 = 0 → exec .flogBaseWrite s = .next s)
    ∧ (fld s.faults.flogbase 51 12 ≠ 0 → s.faults.mgmtRunning = true →
      exec .flogBaseWrite s = .next (s.faults.queue.foldl writeRecord { s with faults := { s.faults with queue := [] } }))
    ∧ (noteWord s = none → exec .notificationFillRetry s = .next s)
    ∧ (∀ l va, noteWord s = some (l, va) →
      (isFull s l = true → exec .notificationFillRetry s = .next s)
      ∧ ((∃ q ∈ s.waiters ++ s.overflow, q.who = .note ∧ q.loc = l) → exec .notificationFillRetry s = .next s)
      ∧ (isFull s l = false → (∀ q ∈ s.waiters, q.loc ≠ l) → (∀ q ∈ s.overflow, q.loc ≠ l) → mfind s.reserved l = none → mfind s.tdu.bindings l = none →
        ∃ t, exec .notificationFillRetry s = .next t ∧ homeWord t l = word s.faults.head ∧ isFull t l = true))
    ∧ (∃ t, exec .watchdogExpiry s = .next t ∧ t.faults.mgmtRunning = false ∧ t.faults.mgmtCores = s.faults.mgmtCores - 1
      ∧ (∀ x ∈ t.strands, x.1 < 40000) ∧ (∀ x ∈ s.strands, x.1 < 40000 → x ∈ t.strands)
      ∧ (if s.faults.mgmtCores ≤ 1 then (s.cycle, Instr.deviceFault 6) ∈ t.sched else (s.cycle + 1250000000, Instr.mgmtTakeover) ∈ t.sched))
    ∧ (s.faults.mgmtRunning = false → s.faults.mgmtCores ≠ 0 → fld s.faults.flogbase 51 12 = 0 → s.faults.queue.length ≤ 254 →
      ∃ t a b, exec .mgmtTakeover s = .next t ∧ t.faults.mgmtRunning = true ∧ t.faults.failoverLost = 0 ∧ t.faults.queue = s.faults.queue ++ [a, b]
        ∧ fld (a.getD 0 0) 63 56 = 12 ∧ (a.getD 5 0) = word s.faults.failoverLost ∧ fld (b.getD 0 0) 63 56 = 9))
  ∧ (∀ (s : State) (ns : List Nat) (r : List Input), s.inputs = .figures ns :: r →
    (ns.headD 0 ≠ 2000 → ns.drop 2 = [] → exec .patrolScrub s = .next { s with inputs := r })
    ∧ (ns.headD 0 = 1000 → ns.getD 3 0 ∈ [1, 2, 3, 4, 5, 7] →
      exec .patrolScrub s = .next (corrected { s with inputs := r } (ns.getD 1 0) (ns.getD 2 0) (ns.getD 3 0)))
    ∧ (let pa := ns.getD 1 0 / 32 * 32
      let listed := mget [] s.faults.erasures (ns.getD 0 0)
      let other := ((ns.drop 2).map (· % 256)).filter fun p => !listed.contains p
      ns.headD 0 ≠ 1000 → ns.headD 0 ≠ 2000 → 7 < 2 * other.length + listed.length → ns.drop 2 ≠ [] → s.llc = [] →
        ∃ t, exec .patrolScrub s = .next t ∧ (∀ i, i < 4 → isPoison t (pa + 8 * i) = true)
          ∧ (∀ l, isPoison s l = true → isPoison t l = true) ∧ ∀ l, homeByte t l = homeByte s l)
    ∧ (let g := ns.headD 0
      let left := mget 4 s.faults.spares (6000 + g)
      (left = 0 → ∃ t, exec .dieToDieWireFailure s = .next t ∧ (s.cycle, Instr.deviceFault 4) ∈ t.sched ∧ t.inputs = r
        ∧ failedTile t (ns.getD 1 0) = true
        ∧ (fld s.faults.flogbase 51 12 = 0 → s.faults.queue.length < 256 → ∃ w, t.faults.queue = s.faults.queue ++ [w]
          ∧ fld (w.getD 0 0) 63 56 = 10 ∧ w.getD 4 0 = 6 ∧ w.getD 5 0 = s.caps.tilemask))
      ∧ (left ≠ 0 → ∃ t, exec .dieToDieWireFailure s = .next t ∧ mget 4 t.faults.spares (6000 + g) = left - 1 ∧ t.inputs = r))
    ∧ ∃ t, exec .coreFailure s = .next t ∧ usableRegs t (ns.headD 0) = 0 ∧ mfind t.faults.failed (ns.headD 0) = some 2
      ∧ ((∀ x ∈ s.strands, coreKey (agentOfKey x.1) = ns.headD 0 → x.2.run = .free) → (∀ l ∈ t.l1, l.core ≠ ns.headD 0) ∧ t.mem = s.mem ∧ t.llc = s.llc))
  ∧ (∀ (s : State) (rank pa pos : Nat),
    ((mget [] s.faults.erasures rank).contains pos = true → ∃ x ∈ (oneBank rank pa s pos).faults.bankRepairs, x.1 = (rank, pos))
    ∧ ((mget [] s.faults.erasures rank).contains pos = false → oneBank rank pa s pos = s)
    ∧ (let l := mget [] s.faults.erasures rank
      mget [] (badPosition s rank pos pa).faults.erasures rank = sadd (if 4 ≤ l.length then l.drop 1 else l) pos))
  ∧ ∀ (s : State) (unit pa k : Nat), s.cycle < (mget (0, 0) s.faults.corrected unit).1 →
    (corrected s unit pa k).faults.queue = s.faults.queue
      ∧ (mget (0, 0) (corrected s unit pa k).faults.corrected unit).2 = (mget (0, 0) s.faults.corrected unit).2 + 1

/-- R12, R108, R429 to R431, R436, R439: a device fault stops every unit, discards what is in flight, counts, asserts the alert, and its dump
follows where a management core runs, then re-initialisation (its cycle within the 400 ms is the model's choice, log entry 75); a second one
before the dump is complete abandons it and re-initialises at once; every request of the host that waits is answered; meanwhile the end of a cycle brings on nothing but the management core's strands; the dump then
stands complete. Re-initialisation remaps the banks that await it, empties the holder tables, the
caches and the translation structures, keeps HBM's words with their bits where the enabled stacks put them, empties the side memories, enables the
ports, whose training follows, starts a delivered firmware image that verifies, and leaves FAULT unless the device is not legal. Reset leaves no
strand, no region, no memory and no event, and the capacity, the TDU's, the cores' and FSTAT's registers at their reset values. -/
def Obligations.FaultAndReset : Prop :=
  (∀ (s : State) (cause : Nat),
    ((cause = 0 ∨ 6 < cause) → exec (.deviceFault cause) s = .next s)
    ∧ (1 ≤ cause → cause ≤ 6 → fld s.faults.flogbase 51 12 = 0 → ∃ t, exec (.deviceFault cause) s = .next t
      ∧ t.faults.fstate = 1 ∧ t.faults.cause = cause ∧ t.faults.epoch = s.faults.epoch + 1 ∧ t.faults.faults = s.faults.faults + 1
      ∧ t.faults.dumpok = false ∧ t.board.alert = true ∧ t.host.fills = [] ∧ t.host.held = [] ∧ t.faults.faultAt = s.cycle
      ∧ t.faults.dump = [] ∧ (∀ f ∈ s.host.fills, Answer.mediaEvent f.off ∈ t.host.answers)
      ∧ (∀ i op off x y src, HostReq.mem i op off x y src ∈ s.host.held → (if op = 0 then Answer.line off 0 true else Answer.mediaEvent off) ∈ t.host.answers)
      ∧ t.tokenQueue = [] ∧ t.reserved = [] ∧ t.fabric.writing = [] ∧ (∀ q ∈ t.waiters, q.who = .note)
      ∧ ((s.cycle + if s.faults.fstate = 1 ∧ s.faults.dumpok = false then 0 else 1000000000, Instr.reinitialisation) ∈ t.sched)
      ∧ (∀ e ∈ t.sched, outlivesFault e.2 = true)
      ∧ ((s.cycle + 375000000, Instr.dumpComplete) ∈ t.sched ↔ ¬(s.faults.fstate = 1 ∧ s.faults.dumpok = false) ∧ s.faults.mgmtRunning = true)
      ∧ (s.faults.queue.length < 256 → ∃ w, t.faults.queue = s.faults.queue ++ [w] ∧ fld (w.getD 0 0) 63 56 = 3)))
  ∧ (∀ s : State, s.faults.fstate = 1 → (∀ x ∈ s.strands, x.1 < 40000) → endCycle s = { s with cycle := s.cycle + 1, unit := 0 })
  ∧ (∀ s : State, s.faults.fstate = 1 → s.faults.mgmtRunning = true →
    ∃ t, exec .dumpComplete s = .next t ∧ t.faults.dumpok = true ∧ t.faults.dump = (dumpOf s).bytes ∧ SameMemory s t)
  ∧ (∀ (s : State) (p : Plant) (r : List Input), s.inputs = .plant p :: r → ∃ t u, exec .reinitialisation s = .next t
      ∧ t = repairRecords p s u ∧ u.entries = [] ∧ u.shares = [] ∧ u.tlbs = [] ∧ u.walkCache = [] ∧ u.l1 = [] ∧ u.llc = [] ∧ u.llcBits = [] ∧ u.icache = []
      ∧ u.waiters = [] ∧ u.reserved = [] ∧ u.inputs = r
      ∧ (let set := fld u.caps.memsplit 11 0
         (∀ l m, l < 2 ^ 52 → m < 2 ^ 52 → movedTo s set l = some m → (∀ k, k < 2 ^ 52 → movedTo s set k = some m → k = l) → hbmByte u m = hbmByte s l)
         ∧ (fld s.caps.memsplit 11 0 = 0 ∨ fld s.caps.memsplit 11 0 = set → ∀ l, l < 2 ^ 52 → hbmByte u l = hbmByte s l)
         ∧ ∀ l, 2 ^ 52 ≤ l → hbmByte u l = memDefault)
      ∧ (u.faults.fstate = if legalDevice u.caps then 0 else 3) ∧ u.faults.head = s.faults.head ∧ u.faults.flogbase = s.faults.flogbase
      ∧ (∀ e ∈ u.sched, e.2 ≠ Instr.reinitialisation) ∧ u.faults.bankRepairs = []
      ∧ (∀ n key v, s.board.imageNext = some (n, key, v) → u.board.image = if key = keyDigest ∧ s.board.fuses ≤ v then n else s.board.image)
      ∧ (∀ k, k < 48 → bit (mget {} u.fabric.ports k : Port).cfg 63 = true) ∧ (s.cycle, Instr.linkEnable) ∈ u.sched
      ∧ (∀ b ∈ s.faults.bankRepairs, (mget [] u.faults.erasures b.1.1).contains b.1.2 = false)
      ∧ ∀ x ∈ u.strands, 40000 ≤ x.1)
  ∧ ∀ s : State, ∃ t, exec .reset s = .next t ∧ t.strands = State.reset.strands ∧ t.entries = [] ∧ t.mem = [] ∧ t.sched = State.reset.sched
      ∧ t.caps = State.reset.caps ∧ t.tdu = State.reset.tdu ∧ t.cycle = State.reset.cycle ∧ t.cores = State.reset.cores
      ∧ t.faults.fstate = State.reset.faults.fstate ∧ t.inputs = s.inputs

/-! ## Ports and the fabric (spec/18) -/

/-- The times of LASER, LOCK and TRAIN and what happens without an input rest on log entry 53, the lendings in force on log entry 74.
R449 to R451, R491: the steps of a port: enabling takes it to LASER and, where USE is legal, on to LOCK, TRAIN and UP, each within its bound,
else to FAILED; disabling takes it DOWN; in TRAIN the end with the greater chip id takes the other's USE; a ring or an eye that does
not pass keeps its state to the bound; retraining an UP port trains its eyes
again; UP makes USE active, with every lending in force whose two ports have trained.
A channel that fails is patched onto a spare; with none left the port goes on, below four channels it fails. Replays are counted.
R106, R131, R454 to R456: the fabric's timers. Packets unacknowledged for 8 µs are sent again, and for 200 µs mean that the peer is lost; a lost
peer's packets are discarded, it is remembered and, where no halt holds an operation that sent to it, the strands with packets for it learn of
it; a commit makes the shadow routes, but for those through a FAILED port, current under the next version and opens the window in
which the last one is accepted, which its end closes. -/
def Obligations.PortsAndTimers : Prop :=
  ((∀ (s : State) (p : Nat) (x : Port),
    let port := fun (t : State) => (mget {} t.fabric.ports p : Port)
    x = port s →
    let step := fun (t : State) (n d : Nat) => (port t).step = n ∧ (port t).due = s.cycle + d ∧ (s.cycle + d, portEvent n) ∈ t.sched
    (duePort s 1 = some (p, x) → ∃ t, exec .linkEnable s = .next t ∧ (port t).state = 1 ∧ (port t).active = 0 ∧ if useOk x then step t 4 500000 else step t 7 0)
    ∧ (duePort s 2 = some (p, x) → ∃ t, exec .linkDisable s = .next t ∧ (port t).state = 0 ∧ (port t).active = 0 ∧ (port t).lentOut = 0 ∧ (port t).cfg = x.cfg)
    ∧ (duePort s 3 = some (p, x) → ∃ t, exec .retrain s = .next t
      ∧ if x.state = 4 then (port t).state = 3 ∧ (port t).cfg = x.cfg ∧ (port t).eyeok = 0 ∧ step t 6 2000000 else (port t).state = x.state ∧ (port t).step = 0)
    ∧ (duePort s 4 = some (p, x) →
      (∀ n r, s.inputs = .link n :: r → n.port = p → n.power = false → ∃ t, exec .lock s = .next t ∧ t.inputs = r ∧ (port t).state = x.state ∧ step t 7 2000000)
      ∧ ((∀ n r, s.inputs = .link n :: r → n.port = p → n.power = true) →
        ∃ t, exec .lock s = .next t ∧ t.inputs = s.inputs ∧ (port t).state = 2 ∧ step t 5 1750000))
    ∧ (duePort s 5 = some (p, x) →
      let ends := fun (t : State) => (port t).state = 3
        ∧ if useOk (port t) then (port t).locked = BitVec.ofNat 10 (fld (port t).cfg 9 0) ∧ step t 6 2000000 else step t 7 0
      (∀ n r, s.inputs = .link n :: r → n.port = p → fld x.cfg 9 0 &&& n.locked = fld x.cfg 9 0 → ∃ t, exec .train s = .next t ∧ t.inputs = r
        ∧ (port t).neighbour = n.chip ∧ (port t).farLending = n.lending ∧ ends t ∧ fld (port t).cfg 9 0 = (if n.chip < s.fabric.chipid.toNat then n.use % 1024 else fld x.cfg 9 0)
        ∧ ∀ i, 10 ≤ i → bit (port t).cfg i = bit x.cfg i)
      ∧ (∀ n r, s.inputs = .link n :: r → n.port = p → fld x.cfg 9 0 &&& n.locked ≠ fld x.cfg 9 0 → ∃ t, exec .train s = .next t ∧ t.inputs = r
        ∧ (port t).state = x.state ∧ (port t).locked = BitVec.ofNat 10 (fld x.cfg 9 0 &&& n.locked) ∧ step t 7 3250000)
      ∧ ((∀ n r, s.inputs = .link n :: r → n.port ≠ p) → ∃ t, exec .train s = .next t ∧ t.inputs = s.inputs ∧ (port t).cfg = x.cfg ∧ ends t))
    ∧ (duePort s 6 = some (p, x) →
      (∀ n r, s.inputs = .link n :: r → n.port = p → fld x.cfg 9 0 &&& n.eyes ≠ fld x.cfg 9 0 → ∃ t, exec .up s = .next t ∧ t.inputs = r
        ∧ (port t).state = x.state ∧ (port t).eyeok = BitVec.ofNat 10 (fld x.cfg 9 0 &&& n.eyes) ∧ step t 7 10500000)
      ∧ ((∀ n r, s.inputs = .link n :: r → n.port = p → fld x.cfg 9 0 &&& n.eyes = fld x.cfg 9 0) →
      ∃ t, exec .up s = .next t ∧ (port t).state = 4 ∧ (port t).active = BitVec.ofNat 10 (fld x.cfg 9 0)
      ∧ (port t).lendWait = sdel x.lendWait p
      ∧ (port t).lentOut = (if sdel x.lendWait p = [] then fld x.cfg 53 51 * 16 + fld x.cfg 50 47 else x.lentOut)
      ∧ ∀ q, q ≠ p → let y : Port := mget {} s.fabric.ports q
        mget {} t.fabric.ports q = ({ y with
          lendWait := sdel y.lendWait p
          lentOut := if sdel y.lendWait p = [] ∧ y.state = 4 then fld y.cfg 53 51 * 16 + fld y.cfg 50 47 else y.lentOut } : Port)))
    ∧ (duePort s 7 = some (p, x) → ∃ t, exec .failed s = .next t ∧ (port t).state = 5 ∧ (port t).active = 0)
    ∧ (duePort s 7 = none → exec .failed s = .next s)
    ∧ (∀ r n, s.inputs = .figures [p, n] :: r →
      (∃ t, exec .linkLevelReplay s = .next t ∧ (port t).replay = min (2 ^ 32 - 1) (x.replay + n) ∧ t.inputs = r)
      ∧ ((x.state ≠ 4 ∨ 10 ≤ n ∨ x.active.getLsbD n = false) → exec .channelPatch s = .next { s with inputs := r })
      ∧ (x.state = 4 → n < 10 → x.active.getLsbD n = true → ∃ t, exec .channelPatch s = .next t ∧ bit (port t).cfg (12 + n) = true ∧ bit (port t).cfg n = false
        ∧ (port t).active.getLsbD n = false
        ∧ (∀ c, c < 10 → c ≠ n → bit x.cfg c = false → bit x.cfg (12 + c) = false →
            ∃ k, k < 10 ∧ k ≠ n ∧ bit x.cfg k = false ∧ bit x.cfg (12 + k) = false ∧ (port t).active.getLsbD k = true ∧ bit (port t).cfg k = true)
        ∧ ((∀ c, c < 10 → c ≠ n → bit x.cfg c = true ∨ bit x.cfg (12 + c) = true) →
            (port t).active = x.active &&& ~~~(BitVec.ofNat 10 (2 ^ n)) ∧ (popNat 10 (port t).active.toNat < 4 → step t 7 0))))))
  ∧ ((∀ (s : State) (dst tc : Nat), unackedTo s dst tc = [] → exec (.fabricResend dst tc) s = .next s)
  ∧ (∀ (s : State) (dst tc : Nat) (v : Unacked) (r : List Unacked), unackedTo s dst tc = v :: r →
    (v.firstSent + 500000 ≤ s.cycle → exec (.fabricResend dst tc) s = .next (post s 0 (.peerDeclaredLost dst)))
    ∧ (s.cycle < v.firstSent + 500000 → v.lastSent + 20000 ≤ s.cycle → ∃ t, exec (.fabricResend dst tc) s = .next t
      ∧ (∀ w ∈ unackedTo t dst tc, w.lastSent = s.cycle) ∧ (unackedTo t dst tc).length = (unackedTo s dst tc).length
      ∧ (s.cycle + min 20000 (v.firstSent + 500000 - s.cycle), Instr.fabricResend dst tc) ∈ t.sched))
  ∧ (∀ (s : State) (chip : Nat),
    (s.fabric.lostPeers.contains chip = true → exec (.peerDeclaredLost chip) s = .next s)
    ∧ (s.fabric.lostPeers.contains chip = false → fld s.faults.flogbase 51 12 = 0 → ∃ t, exec (.peerDeclaredLost chip) s = .next t
      ∧ t.fabric.lostPeers.contains chip = true ∧ (∀ v ∈ t.fabric.unacked, v.packet.dst ≠ chip) ∧ (∀ m ∈ t.fabric.migrating, m.1 ≠ chip)
      ∧ (∀ v ∈ t.fabric.backlog, v.packet.dst ≠ chip)
      ∧ ((∀ v ∈ s.fabric.unacked ++ s.fabric.backlog, ∀ e, v.engine = some e → stoppedFor s e = none) →
        ∀ a ∈ queuedFor s chip, (strandOf t a).pending.fabricLoss = some chip)))
  ∧ (∀ (s : State) (e : Nat × BitVec 7), e ∈ liveRoutes s s.fabric.shadow ↔
      e ∈ s.fabric.shadow ∧ (mget {} s.fabric.ports (e.2.toNat % 64) : Port).state ≠ 5)
  ∧ (∀ s : State, ∃ t, exec .commit s = .next t ∧ t.fabric.routes = liveRoutes s s.fabric.shadow ∧ t.fabric.tvprev = s.fabric.tv ∧ t.fabric.tv = (s.fabric.tv + 1) % 16
      ∧ t.fabric.accepting = true ∧ (s.cycle + 160000, Instr.acceptanceWindowEnd ((s.fabric.tv + 1) % 16)) ∈ t.sched ∧ SameMemory s t)
  ∧ ∀ s : State, s.fabric.switchedAt + 160000 ≤ s.cycle → ∃ t, exec (.acceptanceWindowEnd s.fabric.tv) s = .next t ∧ t.fabric.accepting = false ∧ t.fabric.tv = s.fabric.tv)

/-- The second delivery and the drops in FAULT rest on log entry 35, transit and the cumulative NAK on 52, the oldest migration on 51, the marks of
poisoned words on 77.
R449, R452: a packet whose CRC or length is wrong is dropped and counted.
R453, R455 to R460: a packet that a hop cannot accept is dropped and counted; a packet in its turn is performed and acknowledged, another makes
the last one be acknowledged again; a WRITE answers its NAK reasons in order, one of a word writes it and is acknowledged, a Fill once it
is performed; a region in transit leaves it to the next sending, and a second sending of one that goes on changes nothing; an ACK releases
what it acknowledges, and packets kept back follow while fewer than 256 wait; a NAK ends its engine's operation, unless its End is due already; a token request is answered, or waits behind a
transfer of its entry or an operation that waits for it (R92); a whole migration record is placed or refused, and its answer ends the
waiting strand or lets it go on; a link message is queued or counted. -/
def Obligations.FabricPackets : Prop :=
  (∀ (s : State) (port : Nat) (p : Packet) (c : Word) (r : List Input), s.inputs = .packet port p c :: r →
    ∀ i ∈ [(Instr.write, 0), (.ack, 1), (.nak, 2), (.tokreq, 3), (.tokrsp, 4), (.migrPacket, 5), (.migrrsp, 6)], p.typ = i.2 →
      let u := { s with inputs := r }
      ((mget {} s.fabric.ports port).state ≠ 4 → exec i.1 s = .next u)
      ∧ ((mget {} s.fabric.ports port).state = 4 → packetSound p c = false → ∃ t, exec i.1 s = .next t ∧ SameMemory s t
          ∧ t.fabric.unacked = s.fabric.unacked
          ∧ (mget {} t.fabric.ports port : Port).droptype = min 65535 ((mget {} s.fabric.ports port : Port).droptype + 1))
      ∧ ((mget {} s.fabric.ports port).state = 4 → packetSound p c = true →
        (versionOk s p = false → ∃ t, exec i.1 s = .next t
          ∧ (mget {} t.fabric.ports port : Port).droptv = min 65535 ((mget {} s.fabric.ports port : Port).droptv + 1))
        ∧ (versionOk s p = true → p.dst ≠ s.fabric.chipid.toNat → exec i.1 s = .next (sendOut u p))
        ∧ (versionOk s p = true → p.dst = s.fabric.chipid.toNat → (s.faults.fstate = 1 ∨ s.fabric.lostPeers.contains p.src = true) →
          ∃ t, exec i.1 s = .next t ∧ t.fabric.fabdrop = min (2 ^ 32 - 1) (s.fabric.fabdrop + 1) ∧ SameMemory s t)))
  ∧ (∀ (s : State) (port : Nat) (p : Packet) (c : Word) (r : List Input), s.inputs = .packet port p c :: r → 8 ≤ p.typ →
    (mget {} s.fabric.ports port).state = 4 → (packetSound p c = false ∨ versionOk s p = true) → ∃ t, exec .reservedTypePacket s = .next t ∧ SameMemory s t
      ∧ (mget {} t.fabric.ports port : Port).droptype = min 65535 ((mget {} s.fabric.ports port : Port).droptype + 1))
  ∧ (∀ (s : State) (port : Nat) (ws : List Word) (r : List Input), s.inputs = .message port ws :: r →
    ∃ t, exec .linkmsg s = .next t ∧ t.inputs = r ∧ t.fabric.msgs = (if s.fabric.msgs.length < 256 then s.fabric.msgs ++ [(port, ws)] else s.fabric.msgs)
      ∧ (256 ≤ s.fabric.msgs.length → (mget {} t.fabric.ports port : Port).droptype = min 65535 ((mget {} s.fabric.ports port : Port).droptype + 1)))
  ∧ ∀ (s u : State) (p : Packet),
    let turn := p.seq = expected u p.src p.tc
    (∀ i ∈ [(Instr.write, 0), (.tokreq, 3), (.tokrsp, 4), (.migrPacket, 5), (.migrrsp, 6)], Heard s u i.2 p → ¬turn → exec i.1 s = .next (sendAck u p))
    ∧ (Heard s u 0 p → turn → (u.fabric.writing.any fun x => samePacket p x.1) = true → exec .write s = .next u)
    ∧ (Heard s u 0 p → turn → (u.fabric.writing.any fun x => samePacket p x.1) = false →
      (fabMap u p.src p.asid = none → exec .write s = .next (sendNak u p 1))
      ∧ ∀ m, fabMap u p.src p.asid = some m →
        let x := peerActor p.src (fld m 11 0)
        (∀ c w va, access u x none .xstore p.va.toNat (8 * p.payload.length) = .error (.holder c w va) → exec .write s = .next (sendNak u p 3))
        ∧ (∀ k, access u x none .xstore p.va.toNat (8 * p.payload.length) = .error (.transit k) → exec .write s = .next u)
        ∧ (∀ b, access u x none .xstore p.va.toNat (8 * p.payload.length) = .error b → (∀ c w va, b ≠ .holder c w va) → (∀ k, b ≠ .transit k) →
            exec .write s = .next (sendNak u p 2))
        ∧ ∀ w ps, p.payload = [w] → access u x none .xstore p.va.toNat 8 = .ok ps →
            ((ps.any fun q => q.state = 3) = false → exec .write s = .next (packetDone (setWriting
              (if p.marks.contains 0 then poisonBelow (writeParts u x ps (wordBytes w)) x ps else writeParts u x ps (wordBytes w)) p none) p))
            ∧ ((ps.any fun q => q.state = 3) = true →
              let y := arrive (setWriting u p (some 0)) { requestAt u (.peer p) .fill (partLoc ps) (partNa ps) (word p.va.toNat) x.asid w with poison := p.marks.contains 0 }
              exec .write s = .next (if y.1 = .performed then packetDone (setWriting y.2 p none) p else y.2)))
    ∧ (Heard s u 1 p → ∃ t, exec .ack s = .next t ∧ SameMemory s t ∧ (s.fabric.backlog = [] → ∀ v ∈ t.fabric.unacked, v ∈ s.fabric.unacked)
      ∧ ((unackedTo s p.src p.tc).length ≤ 256 → (unackedTo t p.src p.tc).length ≤ 256)
      ∧ (∀ b rest, s.fabric.backlog.filter (fun v => v.packet.dst = p.src ∧ v.packet.tc = p.tc) = b :: rest →
        ((takeAcked s.fabric.unacked p.src p.tc p.seq).2.filter fun v => v.packet.dst = p.src ∧ v.packet.tc = p.tc).length < 256 →
        ∃ v ∈ unackedTo t p.src p.tc, v.packet.typ = b.packet.typ ∧ v.packet.va = b.packet.va ∧ v.packet.payload = b.packet.payload ∧ v.engine = b.engine)
      ∧ (∀ v ∈ s.fabric.unacked, ¬(v.packet.dst = p.src ∧ v.packet.tc = p.tc) → v ∈ t.fabric.unacked)
      ∧ ∀ a v b, s.fabric.unacked.filter (fun v => v.packet.dst = p.src ∧ v.packet.tc = p.tc) = a ++ v :: b → v.packet.seq = p.seq →
          (∀ w ∈ a, w.packet.seq ≠ p.seq) → s.fabric.backlog = [] → ∀ w ∈ v :: a, w ∉ t.fabric.unacked)
    ∧ (Heard s u 2 p → ∀ v e k, (takeAcked s.fabric.unacked p.src p.tc p.seq).1.getLast? = some v → v.engine = some e → stoppedFor s e = none →
      (engineOf s e).op = some k → (engineOf s e).ending = none → endDue s e = false → ∃ t, exec .nak s = .next t
        ∧ (s.cycle + 1, Instr.endOp e (if fld p.va 7 0 = 2 then 3 else 4) (v.packet.va.toNat % 2 ^ 56)) ∈ t.sched)
    ∧ (Heard s u 3 p → turn →
      (fabMap u p.src p.asid = none → (u.tokenQueue.any fun q => match q.2 with | .peer o _ => samePacket p o | _ => false) = false →
        exec .tokreq s = .next (answerPeer (packetDone u p) p (tokenWord none 1)))
      ∧ ∀ m, fabMap u p.src p.asid = some m →
        let x := peerActor p.src (fld m 11 0)
        let va := p.va &&& maskOf 55 0
        let w := p.payload.headD 0
        let v := packetDone u p
        let rg := regionFor v x va.toNat
        let keys := ((regionFor u x va.toNat).map (·.1)).toList
        ((u.tokenQueue.any fun q => match q.2 with | .peer o _ => samePacket p o | _ => false) = true → exec .tokreq s = .next u)
        ∧ ((u.tokenQueue.any fun q => match q.2 with | .peer o _ => samePacket p o | _ => false) = false →
          (fld w 19 16 ≠ 1 → fld w 19 16 ≠ 2 → fld w 19 16 ≠ 3 → exec .tokreq s = .next (answerPeer v p (tokenWord none 15)))
          ∧ (fld w 19 16 = 1 ∨ fld w 19 16 = 2 ∨ fld w 19 16 = 3 → mustWait u u.tokenQueue keys = true → exec .tokreq s = .next (waitToken u keys (.peer p m)))
          ∧ (mustWait u u.tokenQueue keys = false →
          (fld w 19 16 = 1 → ∀ st, tretStatus v x rg = (st, none) → exec .tokreq s = .next (answerPeer v p (tokenWord (rg.map (·.1)) st)))
          ∧ (fld w 19 16 = 1 → ∀ st t, tretStatus v x rg = (st, some t) →
            exec .tokreq s = .next (beginTransfer v ((rg.map (·.1)).getD 0) { t with via := some (.peer p) }))
          ∧ (fld w 19 16 = 2 → exec .tokreq s = .next (answerPeer (unshrOp v x rg (fld w 31 24)).2 p (tokenWord (rg.map (·.1)) (unshrOp v x rg (fld w 31 24)).1)))
          ∧ (fld w 19 16 = 3 → exec .tokreq s = .next (answerPeer v p (queryWord v x rg))))))
    ∧ (Heard s u 4 p → turn → ∀ e x k, u.engines.find? (fun x => awaits x.2 p.src (fld p.va 15 0)) = some (e, x) → x.op = some k →
      endDue s e = false → ∃ t, exec .tokrsp s = .next t ∧ (s.cycle + 1, Instr.endOp e 0 (tokenDetail (fld (argWord k 2) 19 16) (p.payload.headD 0))) ∈ t.sched)
    ∧ (Heard s u 5 p → turn →
      let ws := mget [] u.fabric.incoming p.src ++ p.payload
      (ws.length < fld (ws.headD 0) 63 32 / 8 → ∃ t, exec .migrPacket s = .next t ∧ mget [] t.fabric.incoming p.src = ws ∧ t.strands = s.strands)
      ∧ (fld (ws.headD 0) 63 32 / 8 ≤ ws.length → fabMap u p.src p.asid = none → ∃ v, exec .migrPacket s = .next (queuePacket v p.src 2 6 p.asid 0 [5] none none)
        ∧ v.strands = s.strands ∧ mfind v.fabric.incoming p.src = none)
      ∧ (fld (ws.headD 0) 63 32 / 8 ≤ ws.length → ∃ v, mfind v.fabric.incoming p.src = none ∧ v.strands = s.strands ∧
        let a := acceptStrand v p.src p.asid (fld p.va 11 0) ws
        exec .migrPacket s = .next (queuePacket a.2 p.src 2 6 p.asid 0 [word a.1] none none)))
    ∧ (Heard s u 6 p → turn → ∀ a rest, takeFirst (fun x : Nat × Agent => x.1 == p.src) u.fabric.migrating = some ((p.src, a), rest) →
      (p.payload.headD 0 = 0 → ∃ v, exec .migrrsp s = .next (endStrand v a 0 0 .ends) ∧ (strandOf v a).report = 0 ∧ v.fabric.migrating = rest)
      ∧ (p.payload.headD 0 ≠ 0 → (strandOf u a).run = .parked .migration → ∃ t, exec .migrrsp s = .next t ∧ (strandOf t a).run = .ready
        ∧ ∀ n ∈ (strandOf s a).empties, (strandOf t a).reg n = word (fld (p.payload.headD 0) 7 0)))

/-! ## The host attachment (spec/16) -/

/-- R444, R147, R48, R430: memory requests of the host, with nothing waiting before them. A read whose window and region check gives the line, one
that is refused or comes during a device fault gives poison; one of SYNC words behind a Fill of the host that waits there waits too (R137, R338); a write replaces exactly the bytes that it brings and is completed; one refused
is completed with a media event and changes no memory; on a SYNC word a write of one aligned word is a Fill, any other is refused. A BUSY
Fill is tried again. -/
def Obligations.HostMemoryRequests : Prop :=
  (∀ (s : State) (off : Nat) (d : BitVec 512) (m : BitVec 64) (r : List Input), s.inputs = .line off d m :: r → s.host.held = [] →
    let u := { s with inputs := r, host := { s.host with nextId := s.host.nextId + 1 } }
    let o := off / 64 * 64
    (∀ i ∈ [Instr.memRd, .memRdData],
      (s.faults.fstate = 1 → ∃ t, exec i s = .next t ∧ t.host.answers = s.host.answers ++ [.line off 0 true] ∧ SameMemory s t)
      ∧ (s.faults.fstate ≠ 1 →
        (∀ b, hostWindow s o = .error b → fld s.faults.flogbase 51 12 = 0 → ∃ t, exec i s = .next t ∧ t.host.answers = s.host.answers ++ [.line off 0 true] ∧ SameMemory s t)
        ∧ (∀ asid va ps v, hostWay u .xload o 64 = (.ok asid va ps, v) → behindFill v s.host.nextId none ps = true →
          exec i s = .next { u with host := { u.host with held := [.mem s.host.nextId 0 off 0 0 none] } })
        ∧ ∀ asid va ps v, hostWay u .xload o 64 = (.ok asid va ps, v) → behindFill v s.host.nextId none ps = false → ∃ t, exec i s = .next t
          ∧ t.host.answers = (readParts v (hostActor asid) ps).2.2.host.answers
            ++ [.line off (BitVec.ofNat 512 (leNat (readParts v (hostActor asid) ps).1)) (readsPoison (readParts v (hostActor asid) ps).2.2 (hostActor asid) ps)]))
    ∧ ∀ p ∈ [(Instr.memWr, BitVec.allOnes 64), (.memWrPtl, m)],
      (s.faults.fstate = 1 → ∃ t, exec p.1 s = .next t ∧ t.host.answers = s.host.answers ++ [.mediaEvent off, .done off] ∧ SameMemory s t)
      ∧ (s.faults.fstate ≠ 1 →
        (∀ b, hostWindow s o = .error b → fld s.faults.flogbase 51 12 = 0 →
          ∃ t, exec p.1 s = .next t ∧ t.host.answers = s.host.answers ++ [.mediaEvent off, .done off] ∧ SameMemory s t)
        ∧ ∀ asid va q pa na v, hostWay u .xstore o 64 = (.ok asid va [q], v) → q.place = .dram pa na → q.n = 64 → q.state ≠ 3 → q.state ≠ 4 →
          ∃ t, exec p.1 s = .next t ∧ t.host.answers = v.host.answers ++ [.done off]
            ∧ (∀ j, j < 64 → hbmByte t (pa + j) = if p.2.getLsbD j then BitVec.ofNat 8 (laneOf d 8 j) else hbmByte v (pa + j))
            ∧ ∀ l, (l < pa ∨ pa + 64 ≤ l) → hbmByte t l = hbmByte v l)
      ∧ (s.faults.fstate ≠ 1 → ∀ asid va ps v, hostWay u .xstore o 64 = (.ok asid va ps, v) → (ps.any fun q => q.state = 3) = true →
        fld s.faults.flogbase 51 12 = 0 → (p.1 = .memWr ∨ ∀ j, j < 8 → m ≠ BitVec.ofNat 64 (255 * 2 ^ (8 * j))) →
        ∃ t, exec p.1 s = .next t ∧ t.host.answers = v.host.answers ++ [.mediaEvent off, .done off] ∧ SameMemory v t))
  ∧ ∀ (s : State) (id : Nat) (x : HostFill), s.host.fills.find? (fun x => x.id = id) = some x → (∀ q ∈ s.waiters, q.who ≠ .host id) →
    ((arrive s (hostFillReq s x)).1 = .busy → ∃ t, exec (.hostPortBusyRetry id) s = .next t ∧ (s.cycle + 16, Instr.hostPortBusyRetry id) ∈ t.sched)
    ∧ ((arrive s (hostFillReq s x)).1 ≠ .busy → exec (.hostPortBusyRetry id) s = .next (arrive s (hostFillReq s x)).2)

/-- R92, R445: an operation of the token port, its slot free: without a window of its ASID its result is 2, with a reserved OP 15, at once;
behind a transfer of its entry or an operation that waits for it, it waits; else it is carried out, its result stands in the slot, which is
done, or its transfer is under way. A busy slot drops the operation; the one that waits keeps its own address. -/
def Obligations.TokenPort : Prop :=
  ∀ (s : State) (n : Fin 16) (va w : Word) (r : List Input), s.inputs = .slot n va w :: r →
    let slot := fun (t : State) => (mget {} t.host.slots n.val : TokenSlot)
    let x := hostActor (fld w 43 32)
    let a := va &&& maskOf 55 0
    let u := { s with inputs := r, host := { s.host with slots := mset s.host.slots n.val { (slot s) with va := a, done := false } } }
    let rg := regionFor u x a.toNat
    let key := rg.map (·.1)
    let gives := fun (i : Instr) (v : State) (y : Word) => ∃ t, exec i s = .next t ∧ (slot t).done = true ∧ (slot t).result = y
      ∧ t.host.held = s.host.held ∧ t.inputs = r ∧ t.entries = v.entries ∧ t.shares = v.shares
    ((slot s).done = true →
      ∀ p ∈ [(Instr.tokenPortTret, 1), (.tokenPortUnshr, 2), (.tokenPortTqry, 3), (.tokenPortBadop, 0)], slotKind w = p.2 →
        (hostHasWindow u (fld w 43 32) = false → gives p.1 u (tokenWord none 2))
        ∧ (hostHasWindow u (fld w 43 32) = true →
          (p.2 = 0 → gives p.1 u (tokenWord none 15))
          ∧ (p.2 ≠ 0 → mustWait u u.tokenQueue key.toList = true → exec p.1 s = .next (waitToken u key.toList (.slot n.val w a)))
          ∧ (mustWait u u.tokenQueue key.toList = false →
            (p.2 = 3 → gives p.1 u (queryWord u x rg))
            ∧ (p.2 = 2 → gives p.1 (unshrOp u x rg (fld w 7 0)).2 (tokenWord key (unshrOp u x rg (fld w 7 0)).1))
            ∧ (p.2 = 1 → ∀ st, tretStatus u x rg = (st, none) → gives p.1 u (tokenWord key st))
            ∧ (p.2 = 1 → ∀ st t k e, tretStatus u x rg = (st, some t) → rg = some (k, e) →
              ∃ v, exec p.1 s = .next v ∧ (entryOf v k).transit = true ∧ mfind v.transfers k = some { t with via := some (.slot n.val) } ∧ (slot v).done = false))))
    ∧ ((slot s).done = false →
      ∀ p ∈ [(Instr.tokenPortTret, 1), (.tokenPortUnshr, 2), (.tokenPortTqry, 3), (.tokenPortBadop, 0)], slotKind w = p.2 →
        ∃ t, exec p.1 s = .next t ∧ (slot t).done = false ∧ (slot t).va = a ∧ t.entries = s.entries)

/-- R441, R442, R443, R446, R447, R471: the dump window gives the dump's bytes; a flush with no peer write before it answers zero, other reads of BAR0
give FSTAT, a slot's word or zero, and what else is written to BAR0 and BAR2 is dropped; BAR4 accesses are
refused while EN = 0 and else are host requests in order; the loss of the host ends the operations of its token port with 12; each SPDM request
has its answer, that to GET_MEASUREMENTS a signature. Response codes and the layouts of answers are presumed (log entry 36), signatures and fixed digests free values (log entry 3). -/
def Obligations.HostProtocol : Prop :=
  (∀ (s : State) (off : Nat) (d : BitVec 512) (m : BitVec 64) (r : List Input), s.inputs = .line off d m :: r →
    ∃ t v, exec .dumpWindowRead s = .next t ∧ t = { s with inputs := r, host := { s.host with answers := s.host.answers ++ [.line off v false] } }
      ∧ ∀ j, j < 64 → laneOf v 8 j = (mget 0 s.faults.dump ((off + j) % 2 ^ 31) : Byte).toNat)
  ∧ (∀ s u : State, s.host.held = [] → ((∃ r, s.inputs = .figures [8] :: r ∧ u = { s with inputs := r })
      ∨ ((∀ off r, s.inputs ≠ .figures [off] :: r) ∧ (∀ who off bs r, s.inputs ≠ .bar4 who off bs :: r) ∧ u = s)) →
    ((s.host.fills.any fun x => decide (x.id < s.host.nextId) && x.src.isSome) = false → ∃ t, exec .p2pflush s = .next t
      ∧ t.host.answers = s.host.answers ++ [.word 8 0] ∧ t.host.held = [] ∧ t.inputs = u.inputs ∧ SameMemory s t)
    ∧ ((s.host.fills.any fun x => decide (x.id < s.host.nextId) && x.src.isSome) = true → ∃ t, exec .p2pflush s = .next t
      ∧ t.host.held = [.flush s.host.nextId] ∧ t.host.answers = s.host.answers))
  ∧ (∀ (s : State) (off : Nat) (r : List Input), s.inputs = .figures [off] :: r → off ≠ 8 →
    let u := { s with inputs := r }
    let x : TokenSlot := mget {} s.host.slots ((off - 0x1000) / 32)
    let gives := fun (v : Word) => exec .p2pflush s = .next (answer u (.word off v))
    (off = 0 → gives (fstatWord s.faults)) ∧ (off ≠ 0 → off < 0x1000 ∨ 0x1200 ≤ off → gives 0)
    ∧ (0x1000 ≤ off → off < 0x1200 → (off % 32 = 0 → gives x.va) ∧ (off % 32 = 16 → gives x.result)
      ∧ (off % 32 = 24 → gives (if x.done then 1 else 0)) ∧ (off % 32 ≠ 0 → off % 32 ≠ 16 → off % 32 ≠ 24 → gives 0)))
  ∧ (∀ (s : State) (who off : Nat) (bs : List Byte) (r : List Input), s.inputs = .bar4 who off bs :: r →
    let u := { s with inputs := r }
    exec .p2pflush s = .next u ∧ exec .dumpWindowRead s = .next u ∧
    (bit s.host.p2pcfg 63 = false → fld s.faults.flogbase 51 12 = 0 →
      (∃ t, exec .bar4Write s = .next t ∧ t.host.answers = s.host.answers ++ [.mediaEvent off] ∧ SameMemory s t)
      ∧ ∃ t, exec .bar4Read s = .next t ∧ t.host.answers = s.host.answers ++ [.line off 0 true] ∧ SameMemory s t)
    ∧ (bit s.host.p2pcfg 63 = true → off % 64 = 0 → bs.length = 64 →
      let o := fld s.host.p2pcfg 2 0 * 2 ^ 40 + off % 2 ^ 36
      exec .bar4Write s = .next (hostRequest u 1 o (BitVec.ofNat 512 (leNat bs)) (BitVec.allOnes 64) (some who))
        ∧ exec .bar4Read s = .next (hostRequest u 0 o 0 0 (some who))))
  ∧ (∀ s : State, ∀ i ∈ [Instr.hostLinkTimeout, .cxlReset], ∃ t, exec i s = .next t
      ∧ (∀ k n w va, (k, TokenWait.slot n w va) ∉ t.tokenQueue) ∧ t.host.held = s.host.held ∧ t.host.lost = true
      ∧ ∀ n x, mfind s.host.slots n = some x → mfind t.host.slots n = some (if x.done then x else { x with done := true, result := tokenWord none 12 }))
  ∧ (∀ s : State, exec .getVersion s = .next (answer s (.spdm 0x04 [0x1200])) ∧ exec .getCapabilities s = .next (answer s (.spdm 0x61 [0x16]))
      ∧ exec .negotiateAlgorithms s = .next (answer s (.spdm 0x63 [0x200, 0x40])) ∧ (∃ v, exec .getDigests s = .next (answer s (.digest 0 v)))
      ∧ ∃ a b, exec .getCertificate s = .next (answer s (.spdm 0x02 [a, b])))
  ∧ ∀ (s : State) (ns : List Nat) (r : List Input), s.inputs = .figures ns :: r →
    (∃ t a b, exec .challenge s = .next t ∧ t.host.answers = s.host.answers ++ [.digest 0 a, .digest 1 b] ∧ t.inputs = r ∧ SameMemory s t)
    ∧ ∃ t sig, exec .getMeasurements s = .next t ∧ SameMemory s t ∧ sig.length = 8
      ∧ t.host.answers = s.host.answers ++ ((ns.filter fun i => decide (1 ≤ i) && decide (i ≤ 5)).map fun i => .digest i (measurement s i)) ++ [.spdm 0x60 sig]

/-! ## Issue, fetch, decoding, the whole machine -/

/-- R163, R164, R285: a register field beyond the partition, at every instruction of the base integer page, every immediate, load and store, SPAWN and
TRAP, traps REGRANGE with no effect; with every field in range, an empty register parks the strand with its instruction held. -/
def Obligations.RegisterChecks : Prop :=
  ∀ (s : State) (d : GDst) (r : GReg) (a b : Src) (o : BitVec 8) (i : BitVec 16) (k : BitVec 6) (x y : Word) (sx : Bool),
    let ld := [Use.g (gregOf s r)] ++ srcUse s a
    let st := srcUse s a ++ srcUse s b
    let one := gdstUse s d ++ srcUse s a
    ∀ p ∈ (immediateTable d i k x).map (fun q => (q.1, gdstUse s d)) ++ (integerTable d a b x y).map (fun q => (q.1, uses3 s d a b)) ++ (multiplyTable d a b x y).map (fun q => (q.1, uses3 s d a b))
        ++ [(.adds d a b, uses3 s d a b), (.subs d a b, uses3 s d a b), (.addsu d a b, uses3 s d a b), (.subsu d a b, uses3 s d a b),
          (.sel d a b, uses3 s d a b), (.bfx d a b, uses3 s d a b), (.bfi d a b, uses3 s d a b), (.clz d a, one), (.ctz d a, one), (.popc d a, one),
          (.brev d a, one),
          (.ld8 sx r a o, ld), (.ld16 sx r a o, ld), (.ld32 sx r a o, ld), (.ld64 r a o, ld),
          (.st8 a b o, st), (.st16 a b o, st), (.st32 a b o, st), (.st64 a b o, st), (.spawn d a b, uses3 s d a b), (.trap a, srcUse s a)],
      ((p.2.any fun u => u.beyond (partSize s.cur (me s))) = true → exec p.1 s = .next (takeTrap s s.cur { code := 3 } 4))
      ∧ ((p.2.any fun u => u.beyond (partSize s.cur (me s))) = false → emptyUses (me s) p.2 ≠ [] → ∃ t, exec p.1 s = .next t
        ∧ (me t).run = .parked (.regs (emptyUses (me s) p.2)) ∧ (me t).pc = (me s).pc ∧ SameMemory s t
        ∧ ∀ n, (me t).reg n = (me s).reg n ∧ (me t).isEmpty n = (me s).isEmpty n)

/-- R144, R275, R421: a step runs the instruction that the bytes at the pc decode to. When the strand whose turn it is takes no trap first
and is in no repetition, the first word that it fetches and, of a long instruction, the second one, fetched in the state that the first
leaves, decode to i: the step is exec of i in the state that the fetches leave, its quanta paid. In a repetition's later passes it is
exec of the buffered instruction. Both hold of a strand that is not paired, and of a pair whose strands hold the same values (R432). A
request that DESTROY dropped traps first; then a pending asynchronous trap that can be taken is entered, once the strand has no atomic
between its halves.
R139: an event that is due and comes before the next unit of the cycle is carried out; with no such event and no unit left the cycle ends. -/
def Obligations.StepRunsDecoded : Prop :=
  (∀ (s t u v : State) (w0 w1 : List Byte) (i : Instr) (rest : List Byte), Issues s t → canTakeAsync (me t) = false → (me t).dropped = none →
    bit (me t).str.rep 63 = false → FetchesAt t (me t).pc w0 u → decode (clsOf t.cur) (w0 ++ w1) = .ok (i, rest) →
    ((isLong (opcodeOf i) = false ∧ w1 = [] ∧ v = u) ∨ (isLong (opcodeOf i) = true ∧ FetchesAt u ((me t).pc + 4) w1 v)) → trailingCopies t = [] →
    step s = exec i (charge v (quanta (opcodeOf i))))
  ∧ (∀ (s t : State) (i : Instr), Issues s t → canTakeAsync (me t) = false → (me t).dropped = none → bit (me t).str.rep 63 = true →
    mfind (me t).repBuf (bodyIndex (me t)) = some i → trailingCopies t = [] → step s = exec i (charge t (quanta (opcodeOf i))))
  ∧ (∀ (s t : State) (w : Word), Issues s t → (me t).dropped = some w →
    step s = .next (takeTrap (modStrand t t.cur fun r => { r with dropped := none }) t.cur (droppedTrap w) 4))
  ∧ (∀ s t : State, Issues s t → (me t).dropped = none → canTakeAsync (me t) = true →
    step s = if betweenHalves t t.cur then .next t else exec (.asyncTrapEntry t.cur) t)
  ∧ (∀ (s : State) (e : Nat × Instr) (r : List (Nat × Instr)), nextDue s.cycle s.sched = some (e, r) → eventFirst e.2 (nextUnit s) = true →
    step s = exec e.2 { s with sched := r })
  ∧ ∀ s : State, nextDue s.cycle s.sched = none → nextUnit s = none → step s = .next (endCycle s)

/-- R276 to R292: words that the spec's worked encodings write out decode to the instructions that they stand for; 0xFF is unassigned. -/
def Obligations.DecodeWords : Prop :=
  decode .compute [0x00, 0x03, 0xC0, 0x6B] = .ok (.ste (.g 3) 0, [])
  ∧ decode .compute [0x03, 0x06, 0x05, 0x65] = .ok (.st16 (.g 5) (.g 6) 3, [])
  ∧ decode .compute [0xC0, 0x09, 0x28, 0xC7, 0x01, 0x00, 0x01, 0x04] = .ok (.ard .bf 8 (.g 9) false ⟨some (4, 1), none⟩, [])
  ∧ decode .compute [0xC0, 0x05, 0x07, 0xD0, 0x00, 0x00, 0x00, 0x00] = .ok (.cpy (.g 7) (.g 5) .zero ⟨none, none⟩, [])
  ∧ decode .stack [0xA0, 0x00, 0x05, 0xE5] = .ok (.sred (.g 5) 0 .i32 .add, [])
  ∧ decode .mgmt [0x00, 0xC0, 0xC0, 0x9F] = .ok (.halt, [])
  ∧ decode .mgmt [0x40, 0x63, 0x05, 0x9E] = .ok (.srw (.g 5) 0x6340, [])
  ∧ decode .compute [0xC0, 0xC0, 0xC0, 0xFF] = .error .unassigned

/-- R274 to R291: every well-formed instruction that has an encoding is what its bytes decode to, with nothing left over. -/
def Obligations.DecodeEncode : Prop :=
  ∀ i : Instr, wellFormed i = true → encode i ≠ [] → decode (execCls i) (encodeBytes i) = .ok (i, [])

/-- R285, R291: the opcode is looked at first: 0xFF and an opcode that is unassigned for the class are rejected as unassigned whatever the other bits
and the second word are, an opcode outside the profile as that; whatever decodes is well formed. -/
def Obligations.DecodeRejects : Prop :=
  ∀ (c : Cls) (b0 b1 b2 b3 : Byte) (rest : List Byte),
    ((b3 = 0xFF ∨ opAssigned c b3.toNat = false) → decode c (b0 :: b1 :: b2 :: b3 :: rest) = .error .unassigned)
    ∧ (b3 ≠ 0xFF → opAssigned c b3.toNat = true → profileOk c b3.toNat = false → decode c (b0 :: b1 :: b2 :: b3 :: rest) = .error .profile)
    ∧ ∀ i r, decode c (b0 :: b1 :: b2 :: b3 :: rest) = .ok (i, r) → wellFormed i = true

/-- R12, R141, R202, R235, R430, R449, R464, R487: what reset leaves, in the values that the spec gives; memory lists nothing, in canonical form. That
memory reads as zero where nothing is listed is the model's choice (log entry 2). -/
def Obligations.ResetState : Prop :=
  Memory.wf State.reset.mem = true ∧ State.reset.mem = [] ∧ State.reset.faults.fstate = 2 ∧ State.reset.entries = [] ∧ State.reset.sched = []
  ∧ (∀ a, (strandOf State.reset a).run = .free ∧ (strandOf State.reset a).str.syncretry = 0x0108 ∧ (strandOf State.reset a).str.timer = 0
    ∧ (strandOf State.reset a).str.fpctl = 0 ∧ (strandOf State.reset a).str.txstat = 0)
  ∧ (∀ q, (quadOf State.reset q).pt = 5 ∧ (quadOf State.reset q).mv = 800 ∧ (quadOf State.reset q).trip = 0x1A40 ∧ (quadOf State.reset q).hit = false)
  ∧ ∀ p, (mget {} State.reset.fabric.ports p : Port).state = 0 ∧ fld (mget {} State.reset.fabric.ports p : Port).cfg 9 0 = 0x0FF

/-- Memory stays in canonical form: no step leaves a byte listed twice, out of order, or at the value that an unlisted byte reads as. -/
def Obligations.MemoryStaysCanonical : Prop :=
  ∀ s t : State, Memory.wf s.mem = true → step s = .next t → Memory.wf t.mem = true

/-- No step ends in a fault or a refusal: every instruction and event of the table has an effect, a status or a trap in every state. -/
def Obligations.MachineNeverStops : Prop := ∀ s : State, ∃ t, step s = .next t
end

