-- ==== Sys2Proof/Laws/Maps.lean ====
section
/-! SUPPORT. The laws of the sorted maps and sets: what a lookup finds after an insertion, a removal or a clearing, for any list; and that
the insertions keep the canonical form. -/

namespace Sys2Proof.Machine

/-! ## Maps -/

theorem mfind_mset {α : Type} (m : List (Nat × α)) (k : Nat) (x : α) (j : Nat) :
    mfind (mset m k x) j = if k = j then some x else mfind m j := by
  induction m with
  | nil => simp [mset, mfind]
  | cons e r ih =>
    obtain ⟨i, v⟩ := e
    simp only [mset]
    split
    · simp [mfind]
    · split
      · subst_vars; simp only [mfind]; split <;> rfl
      · simp only [mfind, ih]
        by_cases h1 : i = j <;> by_cases h2 : k = j <;> simp_all

theorem mfind_mdel {α : Type} (m : List (Nat × α)) (k j : Nat) :
    mfind (mdel m k) j = if k = j then none else mfind m j := by
  induction m with
  | nil => simp [mdel, mfind]
  | cons e r ih =>
    obtain ⟨i, v⟩ := e
    simp only [mdel, List.filter_cons] at ih ⊢
    by_cases h : i = k
    · subst h
      simp only [bne_self_eq_false, Bool.false_eq_true, if_false, ih, mfind]
      split <;> rfl
    · have : (i != k) = true := by simp [h]
      simp only [this, if_true, mfind, ih]
      by_cases h1 : i = j <;> by_cases h2 : k = j <;> simp_all

theorem mfind_mclear {α : Type} (m : List (Nat × α)) (lo hi j : Nat) :
    mfind (mclear m lo hi) j = if lo ≤ j ∧ j < hi then none else mfind m j := by
  induction m with
  | nil => simp [mclear, mfind]
  | cons e r ih =>
    obtain ⟨i, v⟩ := e
    simp only [mclear, List.filter_cons] at ih ⊢
    split
    · rename_i h
      simp only [mfind, ih]
      by_cases h1 : i = j
      · subst h1
        simp only [Bool.or_eq_true, decide_eq_true_eq] at h
        simp only [if_true]
        rw [if_neg]; omega
      · simp [h1]
    · rename_i h
      simp only [Bool.or_eq_true, decide_eq_true_eq, not_or, Nat.not_lt, Nat.not_le] at h
      rw [ih]
      by_cases h1 : i = j
      · subst h1; simp [h]
      · simp [mfind, h1]

theorem mget_mset {α : Type} (d : α) (m : List (Nat × α)) (k : Nat) (x : α) (j : Nat) :
    mget d (mset m k x) j = if k = j then x else mget d m j := by
  unfold mget; rw [mfind_mset]; split <;> rfl

@[simp] theorem mget_mset_self {α : Type} (d : α) (m : List (Nat × α)) (k : Nat) (x : α) : mget d (mset m k x) k = x := by
  simp [mget_mset]

theorem mget_mset_ne {α : Type} (d : α) (m : List (Nat × α)) (k : Nat) (x : α) (j : Nat) (h : k ≠ j) :
    mget d (mset m k x) j = mget d m j := by simp [mget_mset, h]

theorem mget_mdel {α : Type} (d : α) (m : List (Nat × α)) (k j : Nat) :
    mget d (mdel m k) j = if k = j then d else mget d m j := by
  unfold mget; rw [mfind_mdel]; split <;> rfl

theorem mget_mput {α : Type} [DecidableEq α] (d : α) (m : List (Nat × α)) (k : Nat) (x : α) (j : Nat) :
    mget d (mput d m k x) j = if k = j then x else mget d m j := by
  unfold mput
  split
  · rw [mget_mdel]; subst_vars; rfl
  · exact mget_mset ..

@[simp] theorem mget_mput_self {α : Type} [DecidableEq α] (d : α) (m : List (Nat × α)) (k : Nat) (x : α) : mget d (mput d m k x) k = x := by
  simp [mget_mput]

/-- A second insertion at a key replaces the first. -/
theorem mset_mset {α : Type} (m : List (Nat × α)) (k : Nat) (x y : α) : mset (mset m k x) k y = mset m k y := by
  induction m with
  | nil => simp [mset]
  | cons e r ih =>
    obtain ⟨i, v⟩ := e
    simp only [mset]
    split
    · simp [mset]
    · split
      · simp [mset]
      · rename_i h1 h2; simp [mset, h1, h2, ih]

/-! ## Sets -/

theorem mem_sadd (m : List Nat) (k j : Nat) : j ∈ sadd m k ↔ j = k ∨ j ∈ m := by
  induction m with
  | nil => simp [sadd]
  | cons i r ih =>
    simp only [sadd]
    split
    · subst_vars; simp
    · split
      · simp
      · simp only [List.mem_cons, ih]; constructor <;> (rintro (h | h | h) <;> simp [h])

theorem shas_sadd (m : List Nat) (k j : Nat) : shas (sadd m k) j = (decide (j = k) || shas m j) := by
  rw [Bool.eq_iff_iff]; simp [shas, mem_sadd]

theorem shas_sdel (m : List Nat) (k j : Nat) : shas (sdel m k) j = (decide (j ≠ k) && shas m j) := by
  rw [Bool.eq_iff_iff]; simp [shas, sdel, and_comm]

theorem shas_sput (m : List Nat) (k : Nat) (b : Bool) (j : Nat) : shas (sput m k b) j = if j = k then b else shas m j := by
  cases b <;> simp only [sput, shas_sadd, shas_sdel, if_true, Bool.false_eq_true, if_false] <;> by_cases h : j = k <;> simp [h]

/-! ## The canonical form (R76; log entry 2) -/

/-- The form as a recursion on the tail alone. -/
theorem wf_cons (a : Nat) (b : Byte) (m : Memory) :
    Memory.wf ((a, b) :: m) = true ↔ b ≠ 0 ∧ (∀ e ∈ m, a < e.1) ∧ Memory.wf m = true := by
  induction m generalizing a b with
  | nil => simp [Memory.wf]
  | cons e r ih =>
    obtain ⟨a', b'⟩ := e
    simp only [Memory.wf, Bool.and_eq_true, bne_iff_ne, ne_eq, decide_eq_true_eq, List.mem_cons, forall_eq_or_imp, ih]
    constructor
    · rintro ⟨⟨h1, h2⟩, h3, h4, h5⟩
      exact ⟨h1, ⟨h2, fun e he => Nat.lt_trans h2 (h4 e he)⟩, h3, h4, h5⟩
    · rintro ⟨h1, ⟨h2, -⟩, h3⟩
      exact ⟨⟨h1, h2⟩, h3⟩

theorem wf_filter (m : Memory) (p : Host.Cell → Bool) (h : Memory.wf m = true) : Memory.wf (m.filter p) = true := by
  induction m with
  | nil => exact h
  | cons e r ih =>
    obtain ⟨a, b⟩ := e
    rw [wf_cons] at h
    rw [List.filter_cons]
    split
    · rw [wf_cons]
      exact ⟨h.1, fun e he => h.2.1 e (List.mem_filter.1 he).1, ih h.2.2⟩
    · exact ih h.2.2

theorem wf_mdel (m : Memory) (k : Nat) (h : Memory.wf m = true) : Memory.wf (mdel m k) = true := wf_filter m _ h

theorem wf_mclear (m : Memory) (lo hi : Nat) (h : Memory.wf m = true) : Memory.wf (mclear m lo hi) = true := wf_filter m _ h

theorem mem_mset_key {α : Type} (m : List (Nat × α)) (k : Nat) (x : α) (e : Nat × α) (h : e ∈ mset m k x) : e.1 = k ∨ e ∈ m := by
  induction m with
  | nil => simp [mset] at h; simp [h]
  | cons f r ih =>
    obtain ⟨i, v⟩ := f
    simp only [mset] at h
    split at h
    · simp only [List.mem_cons] at h ⊢; rcases h with rfl | h <;> simp_all
    · split at h
      · obtain rfl | h := List.mem_cons.mp h
        · exact .inl rfl
        · exact .inr (List.mem_cons_of_mem _ h)
      · obtain rfl | h := List.mem_cons.mp h
        · exact .inr (List.mem_cons_self ..)
        · exact (ih h).imp_right (List.mem_cons_of_mem _)

theorem wf_mset (m : Memory) (k : Nat) (x : Byte) (hx : x ≠ 0) (h : Memory.wf m = true) : Memory.wf (mset m k x) = true := by
  induction m with
  | nil => simpa [mset, Memory.wf] using hx
  | cons e r ih =>
    obtain ⟨a, b⟩ := e
    have h' := h
    rw [wf_cons] at h
    simp only [mset]
    split
    · rename_i hk
      rw [wf_cons]
      refine ⟨hx, fun e he => ?_, h'⟩
      rcases List.mem_cons.1 he with rfl | he
      · exact hk
      · exact Nat.lt_trans hk (h.2.1 e he)
    · split
      · subst_vars; rw [wf_cons]; exact ⟨hx, h.2⟩
      · rename_i h1 h2
        rw [wf_cons]
        refine ⟨h.1, fun e he => ?_, ih h.2.2⟩
        rcases mem_mset_key _ _ _ _ he with he | he
        · omega
        · exact h.2.1 e he

/-- Every write of a byte keeps the form. -/
theorem wf_mput (m : Memory) (k : Nat) (x : Byte) (h : Memory.wf m = true) : Memory.wf (mput memDefault m k x) = true := by
  unfold mput
  split
  · exact wf_mdel m k h
  · rename_i hx; exact wf_mset m k x hx h

end Sys2Proof.Machine
end

