-- ==== Sys2Proof/Laws/State.lean ====
section
/-! SUPPORT. What each update of the state leaves alone: one lemma for each field and update; and what the record that it writes reads as. -/

namespace Sys2Proof.Machine

variable (s : State)

/-! ## putStrand -/

@[simp] theorem putStrand_cycle (a : Agent) (r : Strand) : (putStrand s a r).cycle = s.cycle := rfl
@[simp] theorem putStrand_unit (a : Agent) (r : Strand) : (putStrand s a r).unit = s.unit := rfl
@[simp] theorem putStrand_cur (a : Agent) (r : Strand) : (putStrand s a r).cur = s.cur := rfl
@[simp] theorem putStrand_sched (a : Agent) (r : Strand) : (putStrand s a r).sched = s.sched := rfl
@[simp] theorem putStrand_inputs (a : Agent) (r : Strand) : (putStrand s a r).inputs = s.inputs := rfl
@[simp] theorem putStrand_freeCount (a : Agent) (r : Strand) : (putStrand s a r).freeCount = s.freeCount := rfl
@[simp] theorem putStrand_caps (a : Agent) (r : Strand) : (putStrand s a r).caps = s.caps := rfl
@[simp] theorem putStrand_mem (a : Agent) (r : Strand) : (putStrand s a r).mem = s.mem := rfl
@[simp] theorem putStrand_llc (a : Agent) (r : Strand) : (putStrand s a r).llc = s.llc := rfl
@[simp] theorem putStrand_feb (a : Agent) (r : Strand) : (putStrand s a r).feb = s.feb := rfl
@[simp] theorem putStrand_poison (a : Agent) (r : Strand) : (putStrand s a r).poison = s.poison := rfl
@[simp] theorem putStrand_llcBits (a : Agent) (r : Strand) : (putStrand s a r).llcBits = s.llcBits := rfl
@[simp] theorem putStrand_l1 (a : Agent) (r : Strand) : (putStrand s a r).l1 = s.l1 := rfl
@[simp] theorem putStrand_icache (a : Agent) (r : Strand) : (putStrand s a r).icache = s.icache := rfl
@[simp] theorem putStrand_tlbs (a : Agent) (r : Strand) : (putStrand s a r).tlbs = s.tlbs := rfl
@[simp] theorem putStrand_walkCache (a : Agent) (r : Strand) : (putStrand s a r).walkCache = s.walkCache := rfl
@[simp] theorem putStrand_walks (a : Agent) (r : Strand) : (putStrand s a r).walks = s.walks := rfl
@[simp] theorem putStrand_holders (a : Agent) (r : Strand) : (putStrand s a r).holders = s.holders := rfl
@[simp] theorem putStrand_invalidations (a : Agent) (r : Strand) : (putStrand s a r).invalidations = s.invalidations := rfl
@[simp] theorem putStrand_icInvs (a : Agent) (r : Strand) : (putStrand s a r).icInvs = s.icInvs := rfl
@[simp] theorem putStrand_htCmds (a : Agent) (r : Strand) : (putStrand s a r).htCmds = s.htCmds := rfl
@[simp] theorem putStrand_cores (a : Agent) (r : Strand) : (putStrand s a r).cores = s.cores := rfl
@[simp] theorem putStrand_quads (a : Agent) (r : Strand) : (putStrand s a r).quads = s.quads := rfl
@[simp] theorem putStrand_tiles (a : Agent) (r : Strand) : (putStrand s a r).tiles = s.tiles := rfl
@[simp] theorem putStrand_engines (a : Agent) (r : Strand) : (putStrand s a r).engines = s.engines := rfl
@[simp] theorem putStrand_entries (a : Agent) (r : Strand) : (putStrand s a r).entries = s.entries := rfl
@[simp] theorem putStrand_shares (a : Agent) (r : Strand) : (putStrand s a r).shares = s.shares := rfl
@[simp] theorem putStrand_transfers (a : Agent) (r : Strand) : (putStrand s a r).transfers = s.transfers := rfl
@[simp] theorem putStrand_tokenQueue (a : Agent) (r : Strand) : (putStrand s a r).tokenQueue = s.tokenQueue := rfl
@[simp] theorem putStrand_waiters (a : Agent) (r : Strand) : (putStrand s a r).waiters = s.waiters := rfl
@[simp] theorem putStrand_overflow (a : Agent) (r : Strand) : (putStrand s a r).overflow = s.overflow := rfl
@[simp] theorem putStrand_reserved (a : Agent) (r : Strand) : (putStrand s a r).reserved = s.reserved := rfl
@[simp] theorem putStrand_monitors (a : Agent) (r : Strand) : (putStrand s a r).monitors = s.monitors := rfl
@[simp] theorem putStrand_tdu (a : Agent) (r : Strand) : (putStrand s a r).tdu = s.tdu := rfl
@[simp] theorem putStrand_fabric (a : Agent) (r : Strand) : (putStrand s a r).fabric = s.fabric := rfl
@[simp] theorem putStrand_host (a : Agent) (r : Strand) : (putStrand s a r).host = s.host := rfl
@[simp] theorem putStrand_faults (a : Agent) (r : Strand) : (putStrand s a r).faults = s.faults := rfl
@[simp] theorem putStrand_board (a : Agent) (r : Strand) : (putStrand s a r).board = s.board := rfl

/-! ## modStrand -/

@[simp] theorem modStrand_cycle (a : Agent) (f : Strand → Strand) : (modStrand s a f).cycle = s.cycle := rfl
@[simp] theorem modStrand_unit (a : Agent) (f : Strand → Strand) : (modStrand s a f).unit = s.unit := rfl
@[simp] theorem modStrand_cur (a : Agent) (f : Strand → Strand) : (modStrand s a f).cur = s.cur := rfl
@[simp] theorem modStrand_sched (a : Agent) (f : Strand → Strand) : (modStrand s a f).sched = s.sched := rfl
@[simp] theorem modStrand_inputs (a : Agent) (f : Strand → Strand) : (modStrand s a f).inputs = s.inputs := rfl
@[simp] theorem modStrand_freeCount (a : Agent) (f : Strand → Strand) : (modStrand s a f).freeCount = s.freeCount := rfl
@[simp] theorem modStrand_caps (a : Agent) (f : Strand → Strand) : (modStrand s a f).caps = s.caps := rfl
@[simp] theorem modStrand_mem (a : Agent) (f : Strand → Strand) : (modStrand s a f).mem = s.mem := rfl
@[simp] theorem modStrand_llc (a : Agent) (f : Strand → Strand) : (modStrand s a f).llc = s.llc := rfl
@[simp] theorem modStrand_feb (a : Agent) (f : Strand → Strand) : (modStrand s a f).feb = s.feb := rfl
@[simp] theorem modStrand_poison (a : Agent) (f : Strand → Strand) : (modStrand s a f).poison = s.poison := rfl
@[simp] theorem modStrand_llcBits (a : Agent) (f : Strand → Strand) : (modStrand s a f).llcBits = s.llcBits := rfl
@[simp] theorem modStrand_l1 (a : Agent) (f : Strand → Strand) : (modStrand s a f).l1 = s.l1 := rfl
@[simp] theorem modStrand_icache (a : Agent) (f : Strand → Strand) : (modStrand s a f).icache = s.icache := rfl
@[simp] theorem modStrand_tlbs (a : Agent) (f : Strand → Strand) : (modStrand s a f).tlbs = s.tlbs := rfl
@[simp] theorem modStrand_walkCache (a : Agent) (f : Strand → Strand) : (modStrand s a f).walkCache = s.walkCache := rfl
@[simp] theorem modStrand_walks (a : Agent) (f : Strand → Strand) : (modStrand s a f).walks = s.walks := rfl
@[simp] theorem modStrand_holders (a : Agent) (f : Strand → Strand) : (modStrand s a f).holders = s.holders := rfl
@[simp] theorem modStrand_invalidations (a : Agent) (f : Strand → Strand) : (modStrand s a f).invalidations = s.invalidations := rfl
@[simp] theorem modStrand_icInvs (a : Agent) (f : Strand → Strand) : (modStrand s a f).icInvs = s.icInvs := rfl
@[simp] theorem modStrand_htCmds (a : Agent) (f : Strand → Strand) : (modStrand s a f).htCmds = s.htCmds := rfl
@[simp] theorem modStrand_cores (a : Agent) (f : Strand → Strand) : (modStrand s a f).cores = s.cores := rfl
@[simp] theorem modStrand_quads (a : Agent) (f : Strand → Strand) : (modStrand s a f).quads = s.quads := rfl
@[simp] theorem modStrand_tiles (a : Agent) (f : Strand → Strand) : (modStrand s a f).tiles = s.tiles := rfl
@[simp] theorem modStrand_engines (a : Agent) (f : Strand → Strand) : (modStrand s a f).engines = s.engines := rfl
@[simp] theorem modStrand_entries (a : Agent) (f : Strand → Strand) : (modStrand s a f).entries = s.entries := rfl
@[simp] theorem modStrand_shares (a : Agent) (f : Strand → Strand) : (modStrand s a f).shares = s.shares := rfl
@[simp] theorem modStrand_transfers (a : Agent) (f : Strand → Strand) : (modStrand s a f).transfers = s.transfers := rfl
@[simp] theorem modStrand_tokenQueue (a : Agent) (f : Strand → Strand) : (modStrand s a f).tokenQueue = s.tokenQueue := rfl
@[simp] theorem modStrand_waiters (a : Agent) (f : Strand → Strand) : (modStrand s a f).waiters = s.waiters := rfl
@[simp] theorem modStrand_overflow (a : Agent) (f : Strand → Strand) : (modStrand s a f).overflow = s.overflow := rfl
@[simp] theorem modStrand_reserved (a : Agent) (f : Strand → Strand) : (modStrand s a f).reserved = s.reserved := rfl
@[simp] theorem modStrand_monitors (a : Agent) (f : Strand → Strand) : (modStrand s a f).monitors = s.monitors := rfl
@[simp] theorem modStrand_tdu (a : Agent) (f : Strand → Strand) : (modStrand s a f).tdu = s.tdu := rfl
@[simp] theorem modStrand_fabric (a : Agent) (f : Strand → Strand) : (modStrand s a f).fabric = s.fabric := rfl
@[simp] theorem modStrand_host (a : Agent) (f : Strand → Strand) : (modStrand s a f).host = s.host := rfl
@[simp] theorem modStrand_faults (a : Agent) (f : Strand → Strand) : (modStrand s a f).faults = s.faults := rfl
@[simp] theorem modStrand_board (a : Agent) (f : Strand → Strand) : (modStrand s a f).board = s.board := rfl

/-! ## modCore -/

@[simp] theorem modCore_cycle (c : Nat) (f : Core → Core) : (modCore s c f).cycle = s.cycle := rfl
@[simp] theorem modCore_unit (c : Nat) (f : Core → Core) : (modCore s c f).unit = s.unit := rfl
@[simp] theorem modCore_cur (c : Nat) (f : Core → Core) : (modCore s c f).cur = s.cur := rfl
@[simp] theorem modCore_sched (c : Nat) (f : Core → Core) : (modCore s c f).sched = s.sched := rfl
@[simp] theorem modCore_inputs (c : Nat) (f : Core → Core) : (modCore s c f).inputs = s.inputs := rfl
@[simp] theorem modCore_freeCount (c : Nat) (f : Core → Core) : (modCore s c f).freeCount = s.freeCount := rfl
@[simp] theorem modCore_caps (c : Nat) (f : Core → Core) : (modCore s c f).caps = s.caps := rfl
@[simp] theorem modCore_mem (c : Nat) (f : Core → Core) : (modCore s c f).mem = s.mem := rfl
@[simp] theorem modCore_llc (c : Nat) (f : Core → Core) : (modCore s c f).llc = s.llc := rfl
@[simp] theorem modCore_feb (c : Nat) (f : Core → Core) : (modCore s c f).feb = s.feb := rfl
@[simp] theorem modCore_poison (c : Nat) (f : Core → Core) : (modCore s c f).poison = s.poison := rfl
@[simp] theorem modCore_llcBits (c : Nat) (f : Core → Core) : (modCore s c f).llcBits = s.llcBits := rfl
@[simp] theorem modCore_l1 (c : Nat) (f : Core → Core) : (modCore s c f).l1 = s.l1 := rfl
@[simp] theorem modCore_icache (c : Nat) (f : Core → Core) : (modCore s c f).icache = s.icache := rfl
@[simp] theorem modCore_tlbs (c : Nat) (f : Core → Core) : (modCore s c f).tlbs = s.tlbs := rfl
@[simp] theorem modCore_walkCache (c : Nat) (f : Core → Core) : (modCore s c f).walkCache = s.walkCache := rfl
@[simp] theorem modCore_walks (c : Nat) (f : Core → Core) : (modCore s c f).walks = s.walks := rfl
@[simp] theorem modCore_holders (c : Nat) (f : Core → Core) : (modCore s c f).holders = s.holders := rfl
@[simp] theorem modCore_invalidations (c : Nat) (f : Core → Core) : (modCore s c f).invalidations = s.invalidations := rfl
@[simp] theorem modCore_icInvs (c : Nat) (f : Core → Core) : (modCore s c f).icInvs = s.icInvs := rfl
@[simp] theorem modCore_htCmds (c : Nat) (f : Core → Core) : (modCore s c f).htCmds = s.htCmds := rfl
@[simp] theorem modCore_strands (c : Nat) (f : Core → Core) : (modCore s c f).strands = s.strands := rfl
@[simp] theorem modCore_quads (c : Nat) (f : Core → Core) : (modCore s c f).quads = s.quads := rfl
@[simp] theorem modCore_tiles (c : Nat) (f : Core → Core) : (modCore s c f).tiles = s.tiles := rfl
@[simp] theorem modCore_engines (c : Nat) (f : Core → Core) : (modCore s c f).engines = s.engines := rfl
@[simp] theorem modCore_entries (c : Nat) (f : Core → Core) : (modCore s c f).entries = s.entries := rfl
@[simp] theorem modCore_shares (c : Nat) (f : Core → Core) : (modCore s c f).shares = s.shares := rfl
@[simp] theorem modCore_transfers (c : Nat) (f : Core → Core) : (modCore s c f).transfers = s.transfers := rfl
@[simp] theorem modCore_tokenQueue (c : Nat) (f : Core → Core) : (modCore s c f).tokenQueue = s.tokenQueue := rfl
@[simp] theorem modCore_waiters (c : Nat) (f : Core → Core) : (modCore s c f).waiters = s.waiters := rfl
@[simp] theorem modCore_overflow (c : Nat) (f : Core → Core) : (modCore s c f).overflow = s.overflow := rfl
@[simp] theorem modCore_reserved (c : Nat) (f : Core → Core) : (modCore s c f).reserved = s.reserved := rfl
@[simp] theorem modCore_monitors (c : Nat) (f : Core → Core) : (modCore s c f).monitors = s.monitors := rfl
@[simp] theorem modCore_tdu (c : Nat) (f : Core → Core) : (modCore s c f).tdu = s.tdu := rfl
@[simp] theorem modCore_fabric (c : Nat) (f : Core → Core) : (modCore s c f).fabric = s.fabric := rfl
@[simp] theorem modCore_host (c : Nat) (f : Core → Core) : (modCore s c f).host = s.host := rfl
@[simp] theorem modCore_faults (c : Nat) (f : Core → Core) : (modCore s c f).faults = s.faults := rfl
@[simp] theorem modCore_board (c : Nat) (f : Core → Core) : (modCore s c f).board = s.board := rfl

/-! ## modQuad -/

@[simp] theorem modQuad_cycle (q : Nat) (f : Quad → Quad) : (modQuad s q f).cycle = s.cycle := rfl
@[simp] theorem modQuad_unit (q : Nat) (f : Quad → Quad) : (modQuad s q f).unit = s.unit := rfl
@[simp] theorem modQuad_cur (q : Nat) (f : Quad → Quad) : (modQuad s q f).cur = s.cur := rfl
@[simp] theorem modQuad_sched (q : Nat) (f : Quad → Quad) : (modQuad s q f).sched = s.sched := rfl
@[simp] theorem modQuad_inputs (q : Nat) (f : Quad → Quad) : (modQuad s q f).inputs = s.inputs := rfl
@[simp] theorem modQuad_freeCount (q : Nat) (f : Quad → Quad) : (modQuad s q f).freeCount = s.freeCount := rfl
@[simp] theorem modQuad_caps (q : Nat) (f : Quad → Quad) : (modQuad s q f).caps = s.caps := rfl
@[simp] theorem modQuad_mem (q : Nat) (f : Quad → Quad) : (modQuad s q f).mem = s.mem := rfl
@[simp] theorem modQuad_llc (q : Nat) (f : Quad → Quad) : (modQuad s q f).llc = s.llc := rfl
@[simp] theorem modQuad_feb (q : Nat) (f : Quad → Quad) : (modQuad s q f).feb = s.feb := rfl
@[simp] theorem modQuad_poison (q : Nat) (f : Quad → Quad) : (modQuad s q f).poison = s.poison := rfl
@[simp] theorem modQuad_llcBits (q : Nat) (f : Quad → Quad) : (modQuad s q f).llcBits = s.llcBits := rfl
@[simp] theorem modQuad_l1 (q : Nat) (f : Quad → Quad) : (modQuad s q f).l1 = s.l1 := rfl
@[simp] theorem modQuad_icache (q : Nat) (f : Quad → Quad) : (modQuad s q f).icache = s.icache := rfl
@[simp] theorem modQuad_tlbs (q : Nat) (f : Quad → Quad) : (modQuad s q f).tlbs = s.tlbs := rfl
@[simp] theorem modQuad_walkCache (q : Nat) (f : Quad → Quad) : (modQuad s q f).walkCache = s.walkCache := rfl
@[simp] theorem modQuad_walks (q : Nat) (f : Quad → Quad) : (modQuad s q f).walks = s.walks := rfl
@[simp] theorem modQuad_holders (q : Nat) (f : Quad → Quad) : (modQuad s q f).holders = s.holders := rfl
@[simp] theorem modQuad_invalidations (q : Nat) (f : Quad → Quad) : (modQuad s q f).invalidations = s.invalidations := rfl
@[simp] theorem modQuad_icInvs (q : Nat) (f : Quad → Quad) : (modQuad s q f).icInvs = s.icInvs := rfl
@[simp] theorem modQuad_htCmds (q : Nat) (f : Quad → Quad) : (modQuad s q f).htCmds = s.htCmds := rfl
@[simp] theorem modQuad_strands (q : Nat) (f : Quad → Quad) : (modQuad s q f).strands = s.strands := rfl
@[simp] theorem modQuad_cores (q : Nat) (f : Quad → Quad) : (modQuad s q f).cores = s.cores := rfl
@[simp] theorem modQuad_tiles (q : Nat) (f : Quad → Quad) : (modQuad s q f).tiles = s.tiles := rfl
@[simp] theorem modQuad_engines (q : Nat) (f : Quad → Quad) : (modQuad s q f).engines = s.engines := rfl
@[simp] theorem modQuad_entries (q : Nat) (f : Quad → Quad) : (modQuad s q f).entries = s.entries := rfl
@[simp] theorem modQuad_shares (q : Nat) (f : Quad → Quad) : (modQuad s q f).shares = s.shares := rfl
@[simp] theorem modQuad_transfers (q : Nat) (f : Quad → Quad) : (modQuad s q f).transfers = s.transfers := rfl
@[simp] theorem modQuad_tokenQueue (q : Nat) (f : Quad → Quad) : (modQuad s q f).tokenQueue = s.tokenQueue := rfl
@[simp] theorem modQuad_waiters (q : Nat) (f : Quad → Quad) : (modQuad s q f).waiters = s.waiters := rfl
@[simp] theorem modQuad_overflow (q : Nat) (f : Quad → Quad) : (modQuad s q f).overflow = s.overflow := rfl
@[simp] theorem modQuad_reserved (q : Nat) (f : Quad → Quad) : (modQuad s q f).reserved = s.reserved := rfl
@[simp] theorem modQuad_monitors (q : Nat) (f : Quad → Quad) : (modQuad s q f).monitors = s.monitors := rfl
@[simp] theorem modQuad_tdu (q : Nat) (f : Quad → Quad) : (modQuad s q f).tdu = s.tdu := rfl
@[simp] theorem modQuad_fabric (q : Nat) (f : Quad → Quad) : (modQuad s q f).fabric = s.fabric := rfl
@[simp] theorem modQuad_host (q : Nat) (f : Quad → Quad) : (modQuad s q f).host = s.host := rfl
@[simp] theorem modQuad_faults (q : Nat) (f : Quad → Quad) : (modQuad s q f).faults = s.faults := rfl
@[simp] theorem modQuad_board (q : Nat) (f : Quad → Quad) : (modQuad s q f).board = s.board := rfl

/-! ## modTile -/

@[simp] theorem modTile_cycle (t : Nat) (f : Tile → Tile) : (modTile s t f).cycle = s.cycle := rfl
@[simp] theorem modTile_unit (t : Nat) (f : Tile → Tile) : (modTile s t f).unit = s.unit := rfl
@[simp] theorem modTile_cur (t : Nat) (f : Tile → Tile) : (modTile s t f).cur = s.cur := rfl
@[simp] theorem modTile_sched (t : Nat) (f : Tile → Tile) : (modTile s t f).sched = s.sched := rfl
@[simp] theorem modTile_inputs (t : Nat) (f : Tile → Tile) : (modTile s t f).inputs = s.inputs := rfl
@[simp] theorem modTile_freeCount (t : Nat) (f : Tile → Tile) : (modTile s t f).freeCount = s.freeCount := rfl
@[simp] theorem modTile_caps (t : Nat) (f : Tile → Tile) : (modTile s t f).caps = s.caps := rfl
@[simp] theorem modTile_mem (t : Nat) (f : Tile → Tile) : (modTile s t f).mem = s.mem := rfl
@[simp] theorem modTile_llc (t : Nat) (f : Tile → Tile) : (modTile s t f).llc = s.llc := rfl
@[simp] theorem modTile_feb (t : Nat) (f : Tile → Tile) : (modTile s t f).feb = s.feb := rfl
@[simp] theorem modTile_poison (t : Nat) (f : Tile → Tile) : (modTile s t f).poison = s.poison := rfl
@[simp] theorem modTile_llcBits (t : Nat) (f : Tile → Tile) : (modTile s t f).llcBits = s.llcBits := rfl
@[simp] theorem modTile_l1 (t : Nat) (f : Tile → Tile) : (modTile s t f).l1 = s.l1 := rfl
@[simp] theorem modTile_icache (t : Nat) (f : Tile → Tile) : (modTile s t f).icache = s.icache := rfl
@[simp] theorem modTile_tlbs (t : Nat) (f : Tile → Tile) : (modTile s t f).tlbs = s.tlbs := rfl
@[simp] theorem modTile_walkCache (t : Nat) (f : Tile → Tile) : (modTile s t f).walkCache = s.walkCache := rfl
@[simp] theorem modTile_walks (t : Nat) (f : Tile → Tile) : (modTile s t f).walks = s.walks := rfl
@[simp] theorem modTile_holders (t : Nat) (f : Tile → Tile) : (modTile s t f).holders = s.holders := rfl
@[simp] theorem modTile_invalidations (t : Nat) (f : Tile → Tile) : (modTile s t f).invalidations = s.invalidations := rfl
@[simp] theorem modTile_icInvs (t : Nat) (f : Tile → Tile) : (modTile s t f).icInvs = s.icInvs := rfl
@[simp] theorem modTile_htCmds (t : Nat) (f : Tile → Tile) : (modTile s t f).htCmds = s.htCmds := rfl
@[simp] theorem modTile_strands (t : Nat) (f : Tile → Tile) : (modTile s t f).strands = s.strands := rfl
@[simp] theorem modTile_cores (t : Nat) (f : Tile → Tile) : (modTile s t f).cores = s.cores := rfl
@[simp] theorem modTile_quads (t : Nat) (f : Tile → Tile) : (modTile s t f).quads = s.quads := rfl
@[simp] theorem modTile_engines (t : Nat) (f : Tile → Tile) : (modTile s t f).engines = s.engines := rfl
@[simp] theorem modTile_entries (t : Nat) (f : Tile → Tile) : (modTile s t f).entries = s.entries := rfl
@[simp] theorem modTile_shares (t : Nat) (f : Tile → Tile) : (modTile s t f).shares = s.shares := rfl
@[simp] theorem modTile_transfers (t : Nat) (f : Tile → Tile) : (modTile s t f).transfers = s.transfers := rfl
@[simp] theorem modTile_tokenQueue (t : Nat) (f : Tile → Tile) : (modTile s t f).tokenQueue = s.tokenQueue := rfl
@[simp] theorem modTile_waiters (t : Nat) (f : Tile → Tile) : (modTile s t f).waiters = s.waiters := rfl
@[simp] theorem modTile_overflow (t : Nat) (f : Tile → Tile) : (modTile s t f).overflow = s.overflow := rfl
@[simp] theorem modTile_reserved (t : Nat) (f : Tile → Tile) : (modTile s t f).reserved = s.reserved := rfl
@[simp] theorem modTile_monitors (t : Nat) (f : Tile → Tile) : (modTile s t f).monitors = s.monitors := rfl
@[simp] theorem modTile_tdu (t : Nat) (f : Tile → Tile) : (modTile s t f).tdu = s.tdu := rfl
@[simp] theorem modTile_fabric (t : Nat) (f : Tile → Tile) : (modTile s t f).fabric = s.fabric := rfl
@[simp] theorem modTile_host (t : Nat) (f : Tile → Tile) : (modTile s t f).host = s.host := rfl
@[simp] theorem modTile_faults (t : Nat) (f : Tile → Tile) : (modTile s t f).faults = s.faults := rfl
@[simp] theorem modTile_board (t : Nat) (f : Tile → Tile) : (modTile s t f).board = s.board := rfl

/-! ## modMesh -/

@[simp] theorem modMesh_cycle (t : Nat) (f : Mesh → Mesh) : (modMesh s t f).cycle = s.cycle := rfl
@[simp] theorem modMesh_unit (t : Nat) (f : Mesh → Mesh) : (modMesh s t f).unit = s.unit := rfl
@[simp] theorem modMesh_cur (t : Nat) (f : Mesh → Mesh) : (modMesh s t f).cur = s.cur := rfl
@[simp] theorem modMesh_sched (t : Nat) (f : Mesh → Mesh) : (modMesh s t f).sched = s.sched := rfl
@[simp] theorem modMesh_inputs (t : Nat) (f : Mesh → Mesh) : (modMesh s t f).inputs = s.inputs := rfl
@[simp] theorem modMesh_freeCount (t : Nat) (f : Mesh → Mesh) : (modMesh s t f).freeCount = s.freeCount := rfl
@[simp] theorem modMesh_caps (t : Nat) (f : Mesh → Mesh) : (modMesh s t f).caps = s.caps := rfl
@[simp] theorem modMesh_mem (t : Nat) (f : Mesh → Mesh) : (modMesh s t f).mem = s.mem := rfl
@[simp] theorem modMesh_llc (t : Nat) (f : Mesh → Mesh) : (modMesh s t f).llc = s.llc := rfl
@[simp] theorem modMesh_feb (t : Nat) (f : Mesh → Mesh) : (modMesh s t f).feb = s.feb := rfl
@[simp] theorem modMesh_poison (t : Nat) (f : Mesh → Mesh) : (modMesh s t f).poison = s.poison := rfl
@[simp] theorem modMesh_llcBits (t : Nat) (f : Mesh → Mesh) : (modMesh s t f).llcBits = s.llcBits := rfl
@[simp] theorem modMesh_l1 (t : Nat) (f : Mesh → Mesh) : (modMesh s t f).l1 = s.l1 := rfl
@[simp] theorem modMesh_icache (t : Nat) (f : Mesh → Mesh) : (modMesh s t f).icache = s.icache := rfl
@[simp] theorem modMesh_tlbs (t : Nat) (f : Mesh → Mesh) : (modMesh s t f).tlbs = s.tlbs := rfl
@[simp] theorem modMesh_walkCache (t : Nat) (f : Mesh → Mesh) : (modMesh s t f).walkCache = s.walkCache := rfl
@[simp] theorem modMesh_walks (t : Nat) (f : Mesh → Mesh) : (modMesh s t f).walks = s.walks := rfl
@[simp] theorem modMesh_holders (t : Nat) (f : Mesh → Mesh) : (modMesh s t f).holders = s.holders := rfl
@[simp] theorem modMesh_invalidations (t : Nat) (f : Mesh → Mesh) : (modMesh s t f).invalidations = s.invalidations := rfl
@[simp] theorem modMesh_icInvs (t : Nat) (f : Mesh → Mesh) : (modMesh s t f).icInvs = s.icInvs := rfl
@[simp] theorem modMesh_htCmds (t : Nat) (f : Mesh → Mesh) : (modMesh s t f).htCmds = s.htCmds := rfl
@[simp] theorem modMesh_strands (t : Nat) (f : Mesh → Mesh) : (modMesh s t f).strands = s.strands := rfl
@[simp] theorem modMesh_cores (t : Nat) (f : Mesh → Mesh) : (modMesh s t f).cores = s.cores := rfl
@[simp] theorem modMesh_quads (t : Nat) (f : Mesh → Mesh) : (modMesh s t f).quads = s.quads := rfl
@[simp] theorem modMesh_engines (t : Nat) (f : Mesh → Mesh) : (modMesh s t f).engines = s.engines := rfl
@[simp] theorem modMesh_entries (t : Nat) (f : Mesh → Mesh) : (modMesh s t f).entries = s.entries := rfl
@[simp] theorem modMesh_shares (t : Nat) (f : Mesh → Mesh) : (modMesh s t f).shares = s.shares := rfl
@[simp] theorem modMesh_transfers (t : Nat) (f : Mesh → Mesh) : (modMesh s t f).transfers = s.transfers := rfl
@[simp] theorem modMesh_tokenQueue (t : Nat) (f : Mesh → Mesh) : (modMesh s t f).tokenQueue = s.tokenQueue := rfl
@[simp] theorem modMesh_waiters (t : Nat) (f : Mesh → Mesh) : (modMesh s t f).waiters = s.waiters := rfl
@[simp] theorem modMesh_overflow (t : Nat) (f : Mesh → Mesh) : (modMesh s t f).overflow = s.overflow := rfl
@[simp] theorem modMesh_reserved (t : Nat) (f : Mesh → Mesh) : (modMesh s t f).reserved = s.reserved := rfl
@[simp] theorem modMesh_monitors (t : Nat) (f : Mesh → Mesh) : (modMesh s t f).monitors = s.monitors := rfl
@[simp] theorem modMesh_tdu (t : Nat) (f : Mesh → Mesh) : (modMesh s t f).tdu = s.tdu := rfl
@[simp] theorem modMesh_fabric (t : Nat) (f : Mesh → Mesh) : (modMesh s t f).fabric = s.fabric := rfl
@[simp] theorem modMesh_host (t : Nat) (f : Mesh → Mesh) : (modMesh s t f).host = s.host := rfl
@[simp] theorem modMesh_faults (t : Nat) (f : Mesh → Mesh) : (modMesh s t f).faults = s.faults := rfl
@[simp] theorem modMesh_board (t : Nat) (f : Mesh → Mesh) : (modMesh s t f).board = s.board := rfl

/-! ## modEngine -/

@[simp] theorem modEngine_cycle (e : Nat) (f : Engine → Engine) : (modEngine s e f).cycle = s.cycle := rfl
@[simp] theorem modEngine_unit (e : Nat) (f : Engine → Engine) : (modEngine s e f).unit = s.unit := rfl
@[simp] theorem modEngine_cur (e : Nat) (f : Engine → Engine) : (modEngine s e f).cur = s.cur := rfl
@[simp] theorem modEngine_sched (e : Nat) (f : Engine → Engine) : (modEngine s e f).sched = s.sched := rfl
@[simp] theorem modEngine_inputs (e : Nat) (f : Engine → Engine) : (modEngine s e f).inputs = s.inputs := rfl
@[simp] theorem modEngine_freeCount (e : Nat) (f : Engine → Engine) : (modEngine s e f).freeCount = s.freeCount := rfl
@[simp] theorem modEngine_caps (e : Nat) (f : Engine → Engine) : (modEngine s e f).caps = s.caps := rfl
@[simp] theorem modEngine_mem (e : Nat) (f : Engine → Engine) : (modEngine s e f).mem = s.mem := rfl
@[simp] theorem modEngine_llc (e : Nat) (f : Engine → Engine) : (modEngine s e f).llc = s.llc := rfl
@[simp] theorem modEngine_feb (e : Nat) (f : Engine → Engine) : (modEngine s e f).feb = s.feb := rfl
@[simp] theorem modEngine_poison (e : Nat) (f : Engine → Engine) : (modEngine s e f).poison = s.poison := rfl
@[simp] theorem modEngine_llcBits (e : Nat) (f : Engine → Engine) : (modEngine s e f).llcBits = s.llcBits := rfl
@[simp] theorem modEngine_l1 (e : Nat) (f : Engine → Engine) : (modEngine s e f).l1 = s.l1 := rfl
@[simp] theorem modEngine_icache (e : Nat) (f : Engine → Engine) : (modEngine s e f).icache = s.icache := rfl
@[simp] theorem modEngine_tlbs (e : Nat) (f : Engine → Engine) : (modEngine s e f).tlbs = s.tlbs := rfl
@[simp] theorem modEngine_walkCache (e : Nat) (f : Engine → Engine) : (modEngine s e f).walkCache = s.walkCache := rfl
@[simp] theorem modEngine_walks (e : Nat) (f : Engine → Engine) : (modEngine s e f).walks = s.walks := rfl
@[simp] theorem modEngine_holders (e : Nat) (f : Engine → Engine) : (modEngine s e f).holders = s.holders := rfl
@[simp] theorem modEngine_invalidations (e : Nat) (f : Engine → Engine) : (modEngine s e f).invalidations = s.invalidations := rfl
@[simp] theorem modEngine_icInvs (e : Nat) (f : Engine → Engine) : (modEngine s e f).icInvs = s.icInvs := rfl
@[simp] theorem modEngine_htCmds (e : Nat) (f : Engine → Engine) : (modEngine s e f).htCmds = s.htCmds := rfl
@[simp] theorem modEngine_strands (e : Nat) (f : Engine → Engine) : (modEngine s e f).strands = s.strands := rfl
@[simp] theorem modEngine_cores (e : Nat) (f : Engine → Engine) : (modEngine s e f).cores = s.cores := rfl
@[simp] theorem modEngine_quads (e : Nat) (f : Engine → Engine) : (modEngine s e f).quads = s.quads := rfl
@[simp] theorem modEngine_tiles (e : Nat) (f : Engine → Engine) : (modEngine s e f).tiles = s.tiles := rfl
@[simp] theorem modEngine_entries (e : Nat) (f : Engine → Engine) : (modEngine s e f).entries = s.entries := rfl
@[simp] theorem modEngine_shares (e : Nat) (f : Engine → Engine) : (modEngine s e f).shares = s.shares := rfl
@[simp] theorem modEngine_transfers (e : Nat) (f : Engine → Engine) : (modEngine s e f).transfers = s.transfers := rfl
@[simp] theorem modEngine_tokenQueue (e : Nat) (f : Engine → Engine) : (modEngine s e f).tokenQueue = s.tokenQueue := rfl
@[simp] theorem modEngine_waiters (e : Nat) (f : Engine → Engine) : (modEngine s e f).waiters = s.waiters := rfl
@[simp] theorem modEngine_overflow (e : Nat) (f : Engine → Engine) : (modEngine s e f).overflow = s.overflow := rfl
@[simp] theorem modEngine_reserved (e : Nat) (f : Engine → Engine) : (modEngine s e f).reserved = s.reserved := rfl
@[simp] theorem modEngine_monitors (e : Nat) (f : Engine → Engine) : (modEngine s e f).monitors = s.monitors := rfl
@[simp] theorem modEngine_tdu (e : Nat) (f : Engine → Engine) : (modEngine s e f).tdu = s.tdu := rfl
@[simp] theorem modEngine_fabric (e : Nat) (f : Engine → Engine) : (modEngine s e f).fabric = s.fabric := rfl
@[simp] theorem modEngine_host (e : Nat) (f : Engine → Engine) : (modEngine s e f).host = s.host := rfl
@[simp] theorem modEngine_faults (e : Nat) (f : Engine → Engine) : (modEngine s e f).faults = s.faults := rfl
@[simp] theorem modEngine_board (e : Nat) (f : Engine → Engine) : (modEngine s e f).board = s.board := rfl

/-! ## post -/

@[simp] theorem post_cycle (d : Nat) (i : Instr) : (post s d i).cycle = s.cycle := rfl
@[simp] theorem post_unit (d : Nat) (i : Instr) : (post s d i).unit = s.unit := rfl
@[simp] theorem post_cur (d : Nat) (i : Instr) : (post s d i).cur = s.cur := rfl
@[simp] theorem post_inputs (d : Nat) (i : Instr) : (post s d i).inputs = s.inputs := rfl
@[simp] theorem post_freeCount (d : Nat) (i : Instr) : (post s d i).freeCount = s.freeCount := rfl
@[simp] theorem post_caps (d : Nat) (i : Instr) : (post s d i).caps = s.caps := rfl
@[simp] theorem post_mem (d : Nat) (i : Instr) : (post s d i).mem = s.mem := rfl
@[simp] theorem post_llc (d : Nat) (i : Instr) : (post s d i).llc = s.llc := rfl
@[simp] theorem post_feb (d : Nat) (i : Instr) : (post s d i).feb = s.feb := rfl
@[simp] theorem post_poison (d : Nat) (i : Instr) : (post s d i).poison = s.poison := rfl
@[simp] theorem post_llcBits (d : Nat) (i : Instr) : (post s d i).llcBits = s.llcBits := rfl
@[simp] theorem post_l1 (d : Nat) (i : Instr) : (post s d i).l1 = s.l1 := rfl
@[simp] theorem post_icache (d : Nat) (i : Instr) : (post s d i).icache = s.icache := rfl
@[simp] theorem post_tlbs (d : Nat) (i : Instr) : (post s d i).tlbs = s.tlbs := rfl
@[simp] theorem post_walkCache (d : Nat) (i : Instr) : (post s d i).walkCache = s.walkCache := rfl
@[simp] theorem post_walks (d : Nat) (i : Instr) : (post s d i).walks = s.walks := rfl
@[simp] theorem post_holders (d : Nat) (i : Instr) : (post s d i).holders = s.holders := rfl
@[simp] theorem post_invalidations (d : Nat) (i : Instr) : (post s d i).invalidations = s.invalidations := rfl
@[simp] theorem post_icInvs (d : Nat) (i : Instr) : (post s d i).icInvs = s.icInvs := rfl
@[simp] theorem post_htCmds (d : Nat) (i : Instr) : (post s d i).htCmds = s.htCmds := rfl
@[simp] theorem post_strands (d : Nat) (i : Instr) : (post s d i).strands = s.strands := rfl
@[simp] theorem post_cores (d : Nat) (i : Instr) : (post s d i).cores = s.cores := rfl
@[simp] theorem post_quads (d : Nat) (i : Instr) : (post s d i).quads = s.quads := rfl
@[simp] theorem post_tiles (d : Nat) (i : Instr) : (post s d i).tiles = s.tiles := rfl
@[simp] theorem post_engines (d : Nat) (i : Instr) : (post s d i).engines = s.engines := rfl
@[simp] theorem post_entries (d : Nat) (i : Instr) : (post s d i).entries = s.entries := rfl
@[simp] theorem post_shares (d : Nat) (i : Instr) : (post s d i).shares = s.shares := rfl
@[simp] theorem post_transfers (d : Nat) (i : Instr) : (post s d i).transfers = s.transfers := rfl
@[simp] theorem post_tokenQueue (d : Nat) (i : Instr) : (post s d i).tokenQueue = s.tokenQueue := rfl
@[simp] theorem post_waiters (d : Nat) (i : Instr) : (post s d i).waiters = s.waiters := rfl
@[simp] theorem post_overflow (d : Nat) (i : Instr) : (post s d i).overflow = s.overflow := rfl
@[simp] theorem post_reserved (d : Nat) (i : Instr) : (post s d i).reserved = s.reserved := rfl
@[simp] theorem post_monitors (d : Nat) (i : Instr) : (post s d i).monitors = s.monitors := rfl
@[simp] theorem post_tdu (d : Nat) (i : Instr) : (post s d i).tdu = s.tdu := rfl
@[simp] theorem post_fabric (d : Nat) (i : Instr) : (post s d i).fabric = s.fabric := rfl
@[simp] theorem post_host (d : Nat) (i : Instr) : (post s d i).host = s.host := rfl
@[simp] theorem post_faults (d : Nat) (i : Instr) : (post s d i).faults = s.faults := rfl
@[simp] theorem post_board (d : Nat) (i : Instr) : (post s d i).board = s.board := rfl

/-! ## putHbm -/

@[simp] theorem putHbm_cycle (l : Nat) (b : Byte) : (putHbm s l b).cycle = s.cycle := rfl
@[simp] theorem putHbm_unit (l : Nat) (b : Byte) : (putHbm s l b).unit = s.unit := rfl
@[simp] theorem putHbm_cur (l : Nat) (b : Byte) : (putHbm s l b).cur = s.cur := rfl
@[simp] theorem putHbm_sched (l : Nat) (b : Byte) : (putHbm s l b).sched = s.sched := rfl
@[simp] theorem putHbm_inputs (l : Nat) (b : Byte) : (putHbm s l b).inputs = s.inputs := rfl
@[simp] theorem putHbm_freeCount (l : Nat) (b : Byte) : (putHbm s l b).freeCount = s.freeCount := rfl
@[simp] theorem putHbm_caps (l : Nat) (b : Byte) : (putHbm s l b).caps = s.caps := rfl
@[simp] theorem putHbm_llc (l : Nat) (b : Byte) : (putHbm s l b).llc = s.llc := rfl
@[simp] theorem putHbm_feb (l : Nat) (b : Byte) : (putHbm s l b).feb = s.feb := rfl
@[simp] theorem putHbm_poison (l : Nat) (b : Byte) : (putHbm s l b).poison = s.poison := rfl
@[simp] theorem putHbm_llcBits (l : Nat) (b : Byte) : (putHbm s l b).llcBits = s.llcBits := rfl
@[simp] theorem putHbm_l1 (l : Nat) (b : Byte) : (putHbm s l b).l1 = s.l1 := rfl
@[simp] theorem putHbm_icache (l : Nat) (b : Byte) : (putHbm s l b).icache = s.icache := rfl
@[simp] theorem putHbm_tlbs (l : Nat) (b : Byte) : (putHbm s l b).tlbs = s.tlbs := rfl
@[simp] theorem putHbm_walkCache (l : Nat) (b : Byte) : (putHbm s l b).walkCache = s.walkCache := rfl
@[simp] theorem putHbm_walks (l : Nat) (b : Byte) : (putHbm s l b).walks = s.walks := rfl
@[simp] theorem putHbm_holders (l : Nat) (b : Byte) : (putHbm s l b).holders = s.holders := rfl
@[simp] theorem putHbm_invalidations (l : Nat) (b : Byte) : (putHbm s l b).invalidations = s.invalidations := rfl
@[simp] theorem putHbm_icInvs (l : Nat) (b : Byte) : (putHbm s l b).icInvs = s.icInvs := rfl
@[simp] theorem putHbm_htCmds (l : Nat) (b : Byte) : (putHbm s l b).htCmds = s.htCmds := rfl
@[simp] theorem putHbm_strands (l : Nat) (b : Byte) : (putHbm s l b).strands = s.strands := rfl
@[simp] theorem putHbm_cores (l : Nat) (b : Byte) : (putHbm s l b).cores = s.cores := rfl
@[simp] theorem putHbm_quads (l : Nat) (b : Byte) : (putHbm s l b).quads = s.quads := rfl
@[simp] theorem putHbm_tiles (l : Nat) (b : Byte) : (putHbm s l b).tiles = s.tiles := rfl
@[simp] theorem putHbm_engines (l : Nat) (b : Byte) : (putHbm s l b).engines = s.engines := rfl
@[simp] theorem putHbm_entries (l : Nat) (b : Byte) : (putHbm s l b).entries = s.entries := rfl
@[simp] theorem putHbm_shares (l : Nat) (b : Byte) : (putHbm s l b).shares = s.shares := rfl
@[simp] theorem putHbm_transfers (l : Nat) (b : Byte) : (putHbm s l b).transfers = s.transfers := rfl
@[simp] theorem putHbm_tokenQueue (l : Nat) (b : Byte) : (putHbm s l b).tokenQueue = s.tokenQueue := rfl
@[simp] theorem putHbm_waiters (l : Nat) (b : Byte) : (putHbm s l b).waiters = s.waiters := rfl
@[simp] theorem putHbm_overflow (l : Nat) (b : Byte) : (putHbm s l b).overflow = s.overflow := rfl
@[simp] theorem putHbm_reserved (l : Nat) (b : Byte) : (putHbm s l b).reserved = s.reserved := rfl
@[simp] theorem putHbm_monitors (l : Nat) (b : Byte) : (putHbm s l b).monitors = s.monitors := rfl
@[simp] theorem putHbm_tdu (l : Nat) (b : Byte) : (putHbm s l b).tdu = s.tdu := rfl
@[simp] theorem putHbm_fabric (l : Nat) (b : Byte) : (putHbm s l b).fabric = s.fabric := rfl
@[simp] theorem putHbm_host (l : Nat) (b : Byte) : (putHbm s l b).host = s.host := rfl
@[simp] theorem putHbm_faults (l : Nat) (b : Byte) : (putHbm s l b).faults = s.faults := rfl
@[simp] theorem putHbm_board (l : Nat) (b : Byte) : (putHbm s l b).board = s.board := rfl

/-! ## putHbmBits -/

@[simp] theorem putHbmBits_cycle (l : Nat) (b : Bool × Bool) : (putHbmBits s l b).cycle = s.cycle := rfl
@[simp] theorem putHbmBits_unit (l : Nat) (b : Bool × Bool) : (putHbmBits s l b).unit = s.unit := rfl
@[simp] theorem putHbmBits_cur (l : Nat) (b : Bool × Bool) : (putHbmBits s l b).cur = s.cur := rfl
@[simp] theorem putHbmBits_sched (l : Nat) (b : Bool × Bool) : (putHbmBits s l b).sched = s.sched := rfl
@[simp] theorem putHbmBits_inputs (l : Nat) (b : Bool × Bool) : (putHbmBits s l b).inputs = s.inputs := rfl
@[simp] theorem putHbmBits_freeCount (l : Nat) (b : Bool × Bool) : (putHbmBits s l b).freeCount = s.freeCount := rfl
@[simp] theorem putHbmBits_caps (l : Nat) (b : Bool × Bool) : (putHbmBits s l b).caps = s.caps := rfl
@[simp] theorem putHbmBits_mem (l : Nat) (b : Bool × Bool) : (putHbmBits s l b).mem = s.mem := rfl
@[simp] theorem putHbmBits_llc (l : Nat) (b : Bool × Bool) : (putHbmBits s l b).llc = s.llc := rfl
@[simp] theorem putHbmBits_llcBits (l : Nat) (b : Bool × Bool) : (putHbmBits s l b).llcBits = s.llcBits := rfl
@[simp] theorem putHbmBits_l1 (l : Nat) (b : Bool × Bool) : (putHbmBits s l b).l1 = s.l1 := rfl
@[simp] theorem putHbmBits_icache (l : Nat) (b : Bool × Bool) : (putHbmBits s l b).icache = s.icache := rfl
@[simp] theorem putHbmBits_tlbs (l : Nat) (b : Bool × Bool) : (putHbmBits s l b).tlbs = s.tlbs := rfl
@[simp] theorem putHbmBits_walkCache (l : Nat) (b : Bool × Bool) : (putHbmBits s l b).walkCache = s.walkCache := rfl
@[simp] theorem putHbmBits_walks (l : Nat) (b : Bool × Bool) : (putHbmBits s l b).walks = s.walks := rfl
@[simp] theorem putHbmBits_holders (l : Nat) (b : Bool × Bool) : (putHbmBits s l b).holders = s.holders := rfl
@[simp] theorem putHbmBits_invalidations (l : Nat) (b : Bool × Bool) : (putHbmBits s l b).invalidations = s.invalidations := rfl
@[simp] theorem putHbmBits_icInvs (l : Nat) (b : Bool × Bool) : (putHbmBits s l b).icInvs = s.icInvs := rfl
@[simp] theorem putHbmBits_htCmds (l : Nat) (b : Bool × Bool) : (putHbmBits s l b).htCmds = s.htCmds := rfl
@[simp] theorem putHbmBits_strands (l : Nat) (b : Bool × Bool) : (putHbmBits s l b).strands = s.strands := rfl
@[simp] theorem putHbmBits_cores (l : Nat) (b : Bool × Bool) : (putHbmBits s l b).cores = s.cores := rfl
@[simp] theorem putHbmBits_quads (l : Nat) (b : Bool × Bool) : (putHbmBits s l b).quads = s.quads := rfl
@[simp] theorem putHbmBits_tiles (l : Nat) (b : Bool × Bool) : (putHbmBits s l b).tiles = s.tiles := rfl
@[simp] theorem putHbmBits_engines (l : Nat) (b : Bool × Bool) : (putHbmBits s l b).engines = s.engines := rfl
@[simp] theorem putHbmBits_entries (l : Nat) (b : Bool × Bool) : (putHbmBits s l b).entries = s.entries := rfl
@[simp] theorem putHbmBits_shares (l : Nat) (b : Bool × Bool) : (putHbmBits s l b).shares = s.shares := rfl
@[simp] theorem putHbmBits_transfers (l : Nat) (b : Bool × Bool) : (putHbmBits s l b).transfers = s.transfers := rfl
@[simp] theorem putHbmBits_tokenQueue (l : Nat) (b : Bool × Bool) : (putHbmBits s l b).tokenQueue = s.tokenQueue := rfl
@[simp] theorem putHbmBits_waiters (l : Nat) (b : Bool × Bool) : (putHbmBits s l b).waiters = s.waiters := rfl
@[simp] theorem putHbmBits_overflow (l : Nat) (b : Bool × Bool) : (putHbmBits s l b).overflow = s.overflow := rfl
@[simp] theorem putHbmBits_reserved (l : Nat) (b : Bool × Bool) : (putHbmBits s l b).reserved = s.reserved := rfl
@[simp] theorem putHbmBits_monitors (l : Nat) (b : Bool × Bool) : (putHbmBits s l b).monitors = s.monitors := rfl
@[simp] theorem putHbmBits_tdu (l : Nat) (b : Bool × Bool) : (putHbmBits s l b).tdu = s.tdu := rfl
@[simp] theorem putHbmBits_fabric (l : Nat) (b : Bool × Bool) : (putHbmBits s l b).fabric = s.fabric := rfl
@[simp] theorem putHbmBits_host (l : Nat) (b : Bool × Bool) : (putHbmBits s l b).host = s.host := rfl
@[simp] theorem putHbmBits_faults (l : Nat) (b : Bool × Bool) : (putHbmBits s l b).faults = s.faults := rfl
@[simp] theorem putHbmBits_board (l : Nat) (b : Bool × Bool) : (putHbmBits s l b).board = s.board := rfl

/-! ## putHome -/

@[simp] theorem putHome_cycle (l : Nat) (b : Byte) : (putHome s l b).cycle = s.cycle := by unfold putHome; split <;> rfl
@[simp] theorem putHome_unit (l : Nat) (b : Byte) : (putHome s l b).unit = s.unit := by unfold putHome; split <;> rfl
@[simp] theorem putHome_cur (l : Nat) (b : Byte) : (putHome s l b).cur = s.cur := by unfold putHome; split <;> rfl
@[simp] theorem putHome_sched (l : Nat) (b : Byte) : (putHome s l b).sched = s.sched := by unfold putHome; split <;> rfl
@[simp] theorem putHome_inputs (l : Nat) (b : Byte) : (putHome s l b).inputs = s.inputs := by unfold putHome; split <;> rfl
@[simp] theorem putHome_freeCount (l : Nat) (b : Byte) : (putHome s l b).freeCount = s.freeCount := by unfold putHome; split <;> rfl
@[simp] theorem putHome_caps (l : Nat) (b : Byte) : (putHome s l b).caps = s.caps := by unfold putHome; split <;> rfl
@[simp] theorem putHome_feb (l : Nat) (b : Byte) : (putHome s l b).feb = s.feb := by unfold putHome; split <;> rfl
@[simp] theorem putHome_poison (l : Nat) (b : Byte) : (putHome s l b).poison = s.poison := by unfold putHome; split <;> rfl
@[simp] theorem putHome_llcBits (l : Nat) (b : Byte) : (putHome s l b).llcBits = s.llcBits := by unfold putHome; split <;> rfl
@[simp] theorem putHome_l1 (l : Nat) (b : Byte) : (putHome s l b).l1 = s.l1 := by unfold putHome; split <;> rfl
@[simp] theorem putHome_icache (l : Nat) (b : Byte) : (putHome s l b).icache = s.icache := by unfold putHome; split <;> rfl
@[simp] theorem putHome_tlbs (l : Nat) (b : Byte) : (putHome s l b).tlbs = s.tlbs := by unfold putHome; split <;> rfl
@[simp] theorem putHome_walkCache (l : Nat) (b : Byte) : (putHome s l b).walkCache = s.walkCache := by unfold putHome; split <;> rfl
@[simp] theorem putHome_walks (l : Nat) (b : Byte) : (putHome s l b).walks = s.walks := by unfold putHome; split <;> rfl
@[simp] theorem putHome_holders (l : Nat) (b : Byte) : (putHome s l b).holders = s.holders := by unfold putHome; split <;> rfl
@[simp] theorem putHome_invalidations (l : Nat) (b : Byte) : (putHome s l b).invalidations = s.invalidations := by unfold putHome; split <;> rfl
@[simp] theorem putHome_icInvs (l : Nat) (b : Byte) : (putHome s l b).icInvs = s.icInvs := by unfold putHome; split <;> rfl
@[simp] theorem putHome_htCmds (l : Nat) (b : Byte) : (putHome s l b).htCmds = s.htCmds := by unfold putHome; split <;> rfl
@[simp] theorem putHome_strands (l : Nat) (b : Byte) : (putHome s l b).strands = s.strands := by unfold putHome; split <;> rfl
@[simp] theorem putHome_cores (l : Nat) (b : Byte) : (putHome s l b).cores = s.cores := by unfold putHome; split <;> rfl
@[simp] theorem putHome_quads (l : Nat) (b : Byte) : (putHome s l b).quads = s.quads := by unfold putHome; split <;> rfl
@[simp] theorem putHome_tiles (l : Nat) (b : Byte) : (putHome s l b).tiles = s.tiles := by unfold putHome; split <;> rfl
@[simp] theorem putHome_engines (l : Nat) (b : Byte) : (putHome s l b).engines = s.engines := by unfold putHome; split <;> rfl
@[simp] theorem putHome_entries (l : Nat) (b : Byte) : (putHome s l b).entries = s.entries := by unfold putHome; split <;> rfl
@[simp] theorem putHome_shares (l : Nat) (b : Byte) : (putHome s l b).shares = s.shares := by unfold putHome; split <;> rfl
@[simp] theorem putHome_transfers (l : Nat) (b : Byte) : (putHome s l b).transfers = s.transfers := by unfold putHome; split <;> rfl
@[simp] theorem putHome_tokenQueue (l : Nat) (b : Byte) : (putHome s l b).tokenQueue = s.tokenQueue := by unfold putHome; split <;> rfl
@[simp] theorem putHome_waiters (l : Nat) (b : Byte) : (putHome s l b).waiters = s.waiters := by unfold putHome; split <;> rfl
@[simp] theorem putHome_overflow (l : Nat) (b : Byte) : (putHome s l b).overflow = s.overflow := by unfold putHome; split <;> rfl
@[simp] theorem putHome_reserved (l : Nat) (b : Byte) : (putHome s l b).reserved = s.reserved := by unfold putHome; split <;> rfl
@[simp] theorem putHome_monitors (l : Nat) (b : Byte) : (putHome s l b).monitors = s.monitors := by unfold putHome; split <;> rfl
@[simp] theorem putHome_tdu (l : Nat) (b : Byte) : (putHome s l b).tdu = s.tdu := by unfold putHome; split <;> rfl
@[simp] theorem putHome_fabric (l : Nat) (b : Byte) : (putHome s l b).fabric = s.fabric := by unfold putHome; split <;> rfl
@[simp] theorem putHome_host (l : Nat) (b : Byte) : (putHome s l b).host = s.host := by unfold putHome; split <;> rfl
@[simp] theorem putHome_faults (l : Nat) (b : Byte) : (putHome s l b).faults = s.faults := by unfold putHome; split <;> rfl
@[simp] theorem putHome_board (l : Nat) (b : Byte) : (putHome s l b).board = s.board := by unfold putHome; split <;> rfl

/-! ## The bits of a word at its home -/

@[simp] theorem putHomeBits_cycle (l : Nat) (b : Bool × Bool) : (putHomeBits s l b).cycle = s.cycle := by unfold putHomeBits; split <;> rfl
@[simp] theorem putBitsBy_cycle (na : Bool) (l : Nat) (b : Bool × Bool) : (putBitsBy na s l b).cycle = s.cycle := by cases na <;> simp [putBitsBy]
@[simp] theorem setFull_cycle (l : Nat) (b na : Bool) : (setFull s l b na).cycle = s.cycle := putBitsBy_cycle ..
@[simp] theorem setPoison_cycle (l : Nat) (b na : Bool) : (setPoison s l b na).cycle = s.cycle := putBitsBy_cycle ..
@[simp] theorem putHomeBits_unit (l : Nat) (b : Bool × Bool) : (putHomeBits s l b).unit = s.unit := by unfold putHomeBits; split <;> rfl
@[simp] theorem putBitsBy_unit (na : Bool) (l : Nat) (b : Bool × Bool) : (putBitsBy na s l b).unit = s.unit := by cases na <;> simp [putBitsBy]
@[simp] theorem setFull_unit (l : Nat) (b na : Bool) : (setFull s l b na).unit = s.unit := putBitsBy_unit ..
@[simp] theorem setPoison_unit (l : Nat) (b na : Bool) : (setPoison s l b na).unit = s.unit := putBitsBy_unit ..
@[simp] theorem putHomeBits_cur (l : Nat) (b : Bool × Bool) : (putHomeBits s l b).cur = s.cur := by unfold putHomeBits; split <;> rfl
@[simp] theorem putBitsBy_cur (na : Bool) (l : Nat) (b : Bool × Bool) : (putBitsBy na s l b).cur = s.cur := by cases na <;> simp [putBitsBy]
@[simp] theorem setFull_cur (l : Nat) (b na : Bool) : (setFull s l b na).cur = s.cur := putBitsBy_cur ..
@[simp] theorem setPoison_cur (l : Nat) (b na : Bool) : (setPoison s l b na).cur = s.cur := putBitsBy_cur ..
@[simp] theorem putHomeBits_sched (l : Nat) (b : Bool × Bool) : (putHomeBits s l b).sched = s.sched := by unfold putHomeBits; split <;> rfl
@[simp] theorem putBitsBy_sched (na : Bool) (l : Nat) (b : Bool × Bool) : (putBitsBy na s l b).sched = s.sched := by cases na <;> simp [putBitsBy]
@[simp] theorem setFull_sched (l : Nat) (b na : Bool) : (setFull s l b na).sched = s.sched := putBitsBy_sched ..
@[simp] theorem setPoison_sched (l : Nat) (b na : Bool) : (setPoison s l b na).sched = s.sched := putBitsBy_sched ..
@[simp] theorem putHomeBits_inputs (l : Nat) (b : Bool × Bool) : (putHomeBits s l b).inputs = s.inputs := by unfold putHomeBits; split <;> rfl
@[simp] theorem putBitsBy_inputs (na : Bool) (l : Nat) (b : Bool × Bool) : (putBitsBy na s l b).inputs = s.inputs := by cases na <;> simp [putBitsBy]
@[simp] theorem setFull_inputs (l : Nat) (b na : Bool) : (setFull s l b na).inputs = s.inputs := putBitsBy_inputs ..
@[simp] theorem setPoison_inputs (l : Nat) (b na : Bool) : (setPoison s l b na).inputs = s.inputs := putBitsBy_inputs ..
@[simp] theorem putHomeBits_freeCount (l : Nat) (b : Bool × Bool) : (putHomeBits s l b).freeCount = s.freeCount := by unfold putHomeBits; split <;> rfl
@[simp] theorem putBitsBy_freeCount (na : Bool) (l : Nat) (b : Bool × Bool) : (putBitsBy na s l b).freeCount = s.freeCount := by cases na <;> simp [putBitsBy]
@[simp] theorem setFull_freeCount (l : Nat) (b na : Bool) : (setFull s l b na).freeCount = s.freeCount := putBitsBy_freeCount ..
@[simp] theorem setPoison_freeCount (l : Nat) (b na : Bool) : (setPoison s l b na).freeCount = s.freeCount := putBitsBy_freeCount ..
@[simp] theorem putHomeBits_caps (l : Nat) (b : Bool × Bool) : (putHomeBits s l b).caps = s.caps := by unfold putHomeBits; split <;> rfl
@[simp] theorem putBitsBy_caps (na : Bool) (l : Nat) (b : Bool × Bool) : (putBitsBy na s l b).caps = s.caps := by cases na <;> simp [putBitsBy]
@[simp] theorem setFull_caps (l : Nat) (b na : Bool) : (setFull s l b na).caps = s.caps := putBitsBy_caps ..
@[simp] theorem setPoison_caps (l : Nat) (b na : Bool) : (setPoison s l b na).caps = s.caps := putBitsBy_caps ..
@[simp] theorem putHomeBits_mem (l : Nat) (b : Bool × Bool) : (putHomeBits s l b).mem = s.mem := by unfold putHomeBits; split <;> rfl
@[simp] theorem putBitsBy_mem (na : Bool) (l : Nat) (b : Bool × Bool) : (putBitsBy na s l b).mem = s.mem := by cases na <;> simp [putBitsBy]
@[simp] theorem setFull_mem (l : Nat) (b na : Bool) : (setFull s l b na).mem = s.mem := putBitsBy_mem ..
@[simp] theorem setPoison_mem (l : Nat) (b na : Bool) : (setPoison s l b na).mem = s.mem := putBitsBy_mem ..
@[simp] theorem putHomeBits_llc (l : Nat) (b : Bool × Bool) : (putHomeBits s l b).llc = s.llc := by unfold putHomeBits; split <;> rfl
@[simp] theorem putBitsBy_llc (na : Bool) (l : Nat) (b : Bool × Bool) : (putBitsBy na s l b).llc = s.llc := by cases na <;> simp [putBitsBy]
@[simp] theorem setFull_llc (l : Nat) (b na : Bool) : (setFull s l b na).llc = s.llc := putBitsBy_llc ..
@[simp] theorem setPoison_llc (l : Nat) (b na : Bool) : (setPoison s l b na).llc = s.llc := putBitsBy_llc ..
@[simp] theorem putHomeBits_l1 (l : Nat) (b : Bool × Bool) : (putHomeBits s l b).l1 = s.l1 := by unfold putHomeBits; split <;> rfl
@[simp] theorem putBitsBy_l1 (na : Bool) (l : Nat) (b : Bool × Bool) : (putBitsBy na s l b).l1 = s.l1 := by cases na <;> simp [putBitsBy]
@[simp] theorem setFull_l1 (l : Nat) (b na : Bool) : (setFull s l b na).l1 = s.l1 := putBitsBy_l1 ..
@[simp] theorem setPoison_l1 (l : Nat) (b na : Bool) : (setPoison s l b na).l1 = s.l1 := putBitsBy_l1 ..
@[simp] theorem putHomeBits_icache (l : Nat) (b : Bool × Bool) : (putHomeBits s l b).icache = s.icache := by unfold putHomeBits; split <;> rfl
@[simp] theorem putBitsBy_icache (na : Bool) (l : Nat) (b : Bool × Bool) : (putBitsBy na s l b).icache = s.icache := by cases na <;> simp [putBitsBy]
@[simp] theorem setFull_icache (l : Nat) (b na : Bool) : (setFull s l b na).icache = s.icache := putBitsBy_icache ..
@[simp] theorem setPoison_icache (l : Nat) (b na : Bool) : (setPoison s l b na).icache = s.icache := putBitsBy_icache ..
@[simp] theorem putHomeBits_tlbs (l : Nat) (b : Bool × Bool) : (putHomeBits s l b).tlbs = s.tlbs := by unfold putHomeBits; split <;> rfl
@[simp] theorem putBitsBy_tlbs (na : Bool) (l : Nat) (b : Bool × Bool) : (putBitsBy na s l b).tlbs = s.tlbs := by cases na <;> simp [putBitsBy]
@[simp] theorem setFull_tlbs (l : Nat) (b na : Bool) : (setFull s l b na).tlbs = s.tlbs := putBitsBy_tlbs ..
@[simp] theorem setPoison_tlbs (l : Nat) (b na : Bool) : (setPoison s l b na).tlbs = s.tlbs := putBitsBy_tlbs ..
@[simp] theorem putHomeBits_walkCache (l : Nat) (b : Bool × Bool) : (putHomeBits s l b).walkCache = s.walkCache := by unfold putHomeBits; split <;> rfl
@[simp] theorem putBitsBy_walkCache (na : Bool) (l : Nat) (b : Bool × Bool) : (putBitsBy na s l b).walkCache = s.walkCache := by cases na <;> simp [putBitsBy]
@[simp] theorem setFull_walkCache (l : Nat) (b na : Bool) : (setFull s l b na).walkCache = s.walkCache := putBitsBy_walkCache ..
@[simp] theorem setPoison_walkCache (l : Nat) (b na : Bool) : (setPoison s l b na).walkCache = s.walkCache := putBitsBy_walkCache ..
@[simp] theorem putHomeBits_walks (l : Nat) (b : Bool × Bool) : (putHomeBits s l b).walks = s.walks := by unfold putHomeBits; split <;> rfl
@[simp] theorem putBitsBy_walks (na : Bool) (l : Nat) (b : Bool × Bool) : (putBitsBy na s l b).walks = s.walks := by cases na <;> simp [putBitsBy]
@[simp] theorem setFull_walks (l : Nat) (b na : Bool) : (setFull s l b na).walks = s.walks := putBitsBy_walks ..
@[simp] theorem setPoison_walks (l : Nat) (b na : Bool) : (setPoison s l b na).walks = s.walks := putBitsBy_walks ..
@[simp] theorem putHomeBits_holders (l : Nat) (b : Bool × Bool) : (putHomeBits s l b).holders = s.holders := by unfold putHomeBits; split <;> rfl
@[simp] theorem putBitsBy_holders (na : Bool) (l : Nat) (b : Bool × Bool) : (putBitsBy na s l b).holders = s.holders := by cases na <;> simp [putBitsBy]
@[simp] theorem setFull_holders (l : Nat) (b na : Bool) : (setFull s l b na).holders = s.holders := putBitsBy_holders ..
@[simp] theorem setPoison_holders (l : Nat) (b na : Bool) : (setPoison s l b na).holders = s.holders := putBitsBy_holders ..
@[simp] theorem putHomeBits_invalidations (l : Nat) (b : Bool × Bool) : (putHomeBits s l b).invalidations = s.invalidations := by unfold putHomeBits; split <;> rfl
@[simp] theorem putBitsBy_invalidations (na : Bool) (l : Nat) (b : Bool × Bool) : (putBitsBy na s l b).invalidations = s.invalidations := by cases na <;> simp [putBitsBy]
@[simp] theorem setFull_invalidations (l : Nat) (b na : Bool) : (setFull s l b na).invalidations = s.invalidations := putBitsBy_invalidations ..
@[simp] theorem setPoison_invalidations (l : Nat) (b na : Bool) : (setPoison s l b na).invalidations = s.invalidations := putBitsBy_invalidations ..
@[simp] theorem putHomeBits_icInvs (l : Nat) (b : Bool × Bool) : (putHomeBits s l b).icInvs = s.icInvs := by unfold putHomeBits; split <;> rfl
@[simp] theorem putBitsBy_icInvs (na : Bool) (l : Nat) (b : Bool × Bool) : (putBitsBy na s l b).icInvs = s.icInvs := by cases na <;> simp [putBitsBy]
@[simp] theorem setFull_icInvs (l : Nat) (b na : Bool) : (setFull s l b na).icInvs = s.icInvs := putBitsBy_icInvs ..
@[simp] theorem setPoison_icInvs (l : Nat) (b na : Bool) : (setPoison s l b na).icInvs = s.icInvs := putBitsBy_icInvs ..
@[simp] theorem putHomeBits_htCmds (l : Nat) (b : Bool × Bool) : (putHomeBits s l b).htCmds = s.htCmds := by unfold putHomeBits; split <;> rfl
@[simp] theorem putBitsBy_htCmds (na : Bool) (l : Nat) (b : Bool × Bool) : (putBitsBy na s l b).htCmds = s.htCmds := by cases na <;> simp [putBitsBy]
@[simp] theorem setFull_htCmds (l : Nat) (b na : Bool) : (setFull s l b na).htCmds = s.htCmds := putBitsBy_htCmds ..
@[simp] theorem setPoison_htCmds (l : Nat) (b na : Bool) : (setPoison s l b na).htCmds = s.htCmds := putBitsBy_htCmds ..
@[simp] theorem putHomeBits_strands (l : Nat) (b : Bool × Bool) : (putHomeBits s l b).strands = s.strands := by unfold putHomeBits; split <;> rfl
@[simp] theorem putBitsBy_strands (na : Bool) (l : Nat) (b : Bool × Bool) : (putBitsBy na s l b).strands = s.strands := by cases na <;> simp [putBitsBy]
@[simp] theorem setFull_strands (l : Nat) (b na : Bool) : (setFull s l b na).strands = s.strands := putBitsBy_strands ..
@[simp] theorem setPoison_strands (l : Nat) (b na : Bool) : (setPoison s l b na).strands = s.strands := putBitsBy_strands ..
@[simp] theorem putHomeBits_cores (l : Nat) (b : Bool × Bool) : (putHomeBits s l b).cores = s.cores := by unfold putHomeBits; split <;> rfl
@[simp] theorem putBitsBy_cores (na : Bool) (l : Nat) (b : Bool × Bool) : (putBitsBy na s l b).cores = s.cores := by cases na <;> simp [putBitsBy]
@[simp] theorem setFull_cores (l : Nat) (b na : Bool) : (setFull s l b na).cores = s.cores := putBitsBy_cores ..
@[simp] theorem setPoison_cores (l : Nat) (b na : Bool) : (setPoison s l b na).cores = s.cores := putBitsBy_cores ..
@[simp] theorem putHomeBits_quads (l : Nat) (b : Bool × Bool) : (putHomeBits s l b).quads = s.quads := by unfold putHomeBits; split <;> rfl
@[simp] theorem putBitsBy_quads (na : Bool) (l : Nat) (b : Bool × Bool) : (putBitsBy na s l b).quads = s.quads := by cases na <;> simp [putBitsBy]
@[simp] theorem setFull_quads (l : Nat) (b na : Bool) : (setFull s l b na).quads = s.quads := putBitsBy_quads ..
@[simp] theorem setPoison_quads (l : Nat) (b na : Bool) : (setPoison s l b na).quads = s.quads := putBitsBy_quads ..
@[simp] theorem putHomeBits_tiles (l : Nat) (b : Bool × Bool) : (putHomeBits s l b).tiles = s.tiles := by unfold putHomeBits; split <;> rfl
@[simp] theorem putBitsBy_tiles (na : Bool) (l : Nat) (b : Bool × Bool) : (putBitsBy na s l b).tiles = s.tiles := by cases na <;> simp [putBitsBy]
@[simp] theorem setFull_tiles (l : Nat) (b na : Bool) : (setFull s l b na).tiles = s.tiles := putBitsBy_tiles ..
@[simp] theorem setPoison_tiles (l : Nat) (b na : Bool) : (setPoison s l b na).tiles = s.tiles := putBitsBy_tiles ..
@[simp] theorem putHomeBits_engines (l : Nat) (b : Bool × Bool) : (putHomeBits s l b).engines = s.engines := by unfold putHomeBits; split <;> rfl
@[simp] theorem putBitsBy_engines (na : Bool) (l : Nat) (b : Bool × Bool) : (putBitsBy na s l b).engines = s.engines := by cases na <;> simp [putBitsBy]
@[simp] theorem setFull_engines (l : Nat) (b na : Bool) : (setFull s l b na).engines = s.engines := putBitsBy_engines ..
@[simp] theorem setPoison_engines (l : Nat) (b na : Bool) : (setPoison s l b na).engines = s.engines := putBitsBy_engines ..
@[simp] theorem putHomeBits_entries (l : Nat) (b : Bool × Bool) : (putHomeBits s l b).entries = s.entries := by unfold putHomeBits; split <;> rfl
@[simp] theorem putBitsBy_entries (na : Bool) (l : Nat) (b : Bool × Bool) : (putBitsBy na s l b).entries = s.entries := by cases na <;> simp [putBitsBy]
@[simp] theorem setFull_entries (l : Nat) (b na : Bool) : (setFull s l b na).entries = s.entries := putBitsBy_entries ..
@[simp] theorem setPoison_entries (l : Nat) (b na : Bool) : (setPoison s l b na).entries = s.entries := putBitsBy_entries ..
@[simp] theorem putHomeBits_shares (l : Nat) (b : Bool × Bool) : (putHomeBits s l b).shares = s.shares := by unfold putHomeBits; split <;> rfl
@[simp] theorem putBitsBy_shares (na : Bool) (l : Nat) (b : Bool × Bool) : (putBitsBy na s l b).shares = s.shares := by cases na <;> simp [putBitsBy]
@[simp] theorem setFull_shares (l : Nat) (b na : Bool) : (setFull s l b na).shares = s.shares := putBitsBy_shares ..
@[simp] theorem setPoison_shares (l : Nat) (b na : Bool) : (setPoison s l b na).shares = s.shares := putBitsBy_shares ..
@[simp] theorem putHomeBits_transfers (l : Nat) (b : Bool × Bool) : (putHomeBits s l b).transfers = s.transfers := by unfold putHomeBits; split <;> rfl
@[simp] theorem putBitsBy_transfers (na : Bool) (l : Nat) (b : Bool × Bool) : (putBitsBy na s l b).transfers = s.transfers := by cases na <;> simp [putBitsBy]
@[simp] theorem setFull_transfers (l : Nat) (b na : Bool) : (setFull s l b na).transfers = s.transfers := putBitsBy_transfers ..
@[simp] theorem setPoison_transfers (l : Nat) (b na : Bool) : (setPoison s l b na).transfers = s.transfers := putBitsBy_transfers ..
@[simp] theorem putHomeBits_tokenQueue (l : Nat) (b : Bool × Bool) : (putHomeBits s l b).tokenQueue = s.tokenQueue := by unfold putHomeBits; split <;> rfl
@[simp] theorem putBitsBy_tokenQueue (na : Bool) (l : Nat) (b : Bool × Bool) : (putBitsBy na s l b).tokenQueue = s.tokenQueue := by cases na <;> simp [putBitsBy]
@[simp] theorem setFull_tokenQueue (l : Nat) (b na : Bool) : (setFull s l b na).tokenQueue = s.tokenQueue := putBitsBy_tokenQueue ..
@[simp] theorem setPoison_tokenQueue (l : Nat) (b na : Bool) : (setPoison s l b na).tokenQueue = s.tokenQueue := putBitsBy_tokenQueue ..
@[simp] theorem putHomeBits_waiters (l : Nat) (b : Bool × Bool) : (putHomeBits s l b).waiters = s.waiters := by unfold putHomeBits; split <;> rfl
@[simp] theorem putBitsBy_waiters (na : Bool) (l : Nat) (b : Bool × Bool) : (putBitsBy na s l b).waiters = s.waiters := by cases na <;> simp [putBitsBy]
@[simp] theorem setFull_waiters (l : Nat) (b na : Bool) : (setFull s l b na).waiters = s.waiters := putBitsBy_waiters ..
@[simp] theorem setPoison_waiters (l : Nat) (b na : Bool) : (setPoison s l b na).waiters = s.waiters := putBitsBy_waiters ..
@[simp] theorem putHomeBits_overflow (l : Nat) (b : Bool × Bool) : (putHomeBits s l b).overflow = s.overflow := by unfold putHomeBits; split <;> rfl
@[simp] theorem putBitsBy_overflow (na : Bool) (l : Nat) (b : Bool × Bool) : (putBitsBy na s l b).overflow = s.overflow := by cases na <;> simp [putBitsBy]
@[simp] theorem setFull_overflow (l : Nat) (b na : Bool) : (setFull s l b na).overflow = s.overflow := putBitsBy_overflow ..
@[simp] theorem setPoison_overflow (l : Nat) (b na : Bool) : (setPoison s l b na).overflow = s.overflow := putBitsBy_overflow ..
@[simp] theorem putHomeBits_reserved (l : Nat) (b : Bool × Bool) : (putHomeBits s l b).reserved = s.reserved := by unfold putHomeBits; split <;> rfl
@[simp] theorem putBitsBy_reserved (na : Bool) (l : Nat) (b : Bool × Bool) : (putBitsBy na s l b).reserved = s.reserved := by cases na <;> simp [putBitsBy]
@[simp] theorem setFull_reserved (l : Nat) (b na : Bool) : (setFull s l b na).reserved = s.reserved := putBitsBy_reserved ..
@[simp] theorem setPoison_reserved (l : Nat) (b na : Bool) : (setPoison s l b na).reserved = s.reserved := putBitsBy_reserved ..
@[simp] theorem putHomeBits_monitors (l : Nat) (b : Bool × Bool) : (putHomeBits s l b).monitors = s.monitors := by unfold putHomeBits; split <;> rfl
@[simp] theorem putBitsBy_monitors (na : Bool) (l : Nat) (b : Bool × Bool) : (putBitsBy na s l b).monitors = s.monitors := by cases na <;> simp [putBitsBy]
@[simp] theorem setFull_monitors (l : Nat) (b na : Bool) : (setFull s l b na).monitors = s.monitors := putBitsBy_monitors ..
@[simp] theorem setPoison_monitors (l : Nat) (b na : Bool) : (setPoison s l b na).monitors = s.monitors := putBitsBy_monitors ..
@[simp] theorem putHomeBits_tdu (l : Nat) (b : Bool × Bool) : (putHomeBits s l b).tdu = s.tdu := by unfold putHomeBits; split <;> rfl
@[simp] theorem putBitsBy_tdu (na : Bool) (l : Nat) (b : Bool × Bool) : (putBitsBy na s l b).tdu = s.tdu := by cases na <;> simp [putBitsBy]
@[simp] theorem setFull_tdu (l : Nat) (b na : Bool) : (setFull s l b na).tdu = s.tdu := putBitsBy_tdu ..
@[simp] theorem setPoison_tdu (l : Nat) (b na : Bool) : (setPoison s l b na).tdu = s.tdu := putBitsBy_tdu ..
@[simp] theorem putHomeBits_fabric (l : Nat) (b : Bool × Bool) : (putHomeBits s l b).fabric = s.fabric := by unfold putHomeBits; split <;> rfl
@[simp] theorem putBitsBy_fabric (na : Bool) (l : Nat) (b : Bool × Bool) : (putBitsBy na s l b).fabric = s.fabric := by cases na <;> simp [putBitsBy]
@[simp] theorem setFull_fabric (l : Nat) (b na : Bool) : (setFull s l b na).fabric = s.fabric := putBitsBy_fabric ..
@[simp] theorem setPoison_fabric (l : Nat) (b na : Bool) : (setPoison s l b na).fabric = s.fabric := putBitsBy_fabric ..
@[simp] theorem putHomeBits_host (l : Nat) (b : Bool × Bool) : (putHomeBits s l b).host = s.host := by unfold putHomeBits; split <;> rfl
@[simp] theorem putBitsBy_host (na : Bool) (l : Nat) (b : Bool × Bool) : (putBitsBy na s l b).host = s.host := by cases na <;> simp [putBitsBy]
@[simp] theorem setFull_host (l : Nat) (b na : Bool) : (setFull s l b na).host = s.host := putBitsBy_host ..
@[simp] theorem setPoison_host (l : Nat) (b na : Bool) : (setPoison s l b na).host = s.host := putBitsBy_host ..
@[simp] theorem putHomeBits_faults (l : Nat) (b : Bool × Bool) : (putHomeBits s l b).faults = s.faults := by unfold putHomeBits; split <;> rfl
@[simp] theorem putBitsBy_faults (na : Bool) (l : Nat) (b : Bool × Bool) : (putBitsBy na s l b).faults = s.faults := by cases na <;> simp [putBitsBy]
@[simp] theorem setFull_faults (l : Nat) (b na : Bool) : (setFull s l b na).faults = s.faults := putBitsBy_faults ..
@[simp] theorem setPoison_faults (l : Nat) (b na : Bool) : (setPoison s l b na).faults = s.faults := putBitsBy_faults ..
@[simp] theorem putHomeBits_board (l : Nat) (b : Bool × Bool) : (putHomeBits s l b).board = s.board := by unfold putHomeBits; split <;> rfl
@[simp] theorem putBitsBy_board (na : Bool) (l : Nat) (b : Bool × Bool) : (putBitsBy na s l b).board = s.board := by cases na <;> simp [putBitsBy]
@[simp] theorem setFull_board (l : Nat) (b na : Bool) : (setFull s l b na).board = s.board := putBitsBy_board ..
@[simp] theorem setPoison_board (l : Nat) (b na : Bool) : (setPoison s l b na).board = s.board := putBitsBy_board ..

/-! ## What a record reads as after an update -/

theorem strandOf_putStrand (a b : Agent) (r : Strand) : strandOf (putStrand s a r) b = if strandKey a = strandKey b then r else strandOf s b := mget_mset ..
@[simp] theorem strandOf_putStrand_self (a : Agent) (r : Strand) : strandOf (putStrand s a r) a = r := mget_mset_self ..
theorem strandOf_modStrand (a b : Agent) (f : Strand → Strand) :
    strandOf (modStrand s a f) b = if strandKey a = strandKey b then f (strandOf s a) else strandOf s b := mget_mset ..
@[simp] theorem strandOf_modStrand_self (a : Agent) (f : Strand → Strand) : strandOf (modStrand s a f) a = f (strandOf s a) := mget_mset_self ..
@[simp] theorem me_putStrand_cur (r : Strand) : me (putStrand s s.cur r) = r := mget_mset_self ..
@[simp] theorem me_modStrand_cur (f : Strand → Strand) : me (modStrand s s.cur f) = f (me s) := mget_mset_self ..
@[simp] theorem me_post (d : Nat) (i : Instr) : me (post s d i) = me s := rfl
@[simp] theorem me_modCore (c : Nat) (f : Core → Core) : me (modCore s c f) = me s := rfl
@[simp] theorem strandOf_modCore (c : Nat) (f : Core → Core) (a : Agent) : strandOf (modCore s c f) a = strandOf s a := rfl
@[simp] theorem strandOf_post (d : Nat) (i : Instr) (a : Agent) : strandOf (post s d i) a = strandOf s a := rfl
theorem coreOf_modCore (c d : Nat) (f : Core → Core) : coreOf (modCore s c f) d = if c = d then f (coreOf s c) else coreOf s d := mget_mset ..
@[simp] theorem coreOf_modCore_self (c : Nat) (f : Core → Core) : coreOf (modCore s c f) c = f (coreOf s c) := mget_mset_self ..
theorem quadOf_modQuad (c d : Nat) (f : Quad → Quad) : quadOf (modQuad s c f) d = if c = d then f (quadOf s c) else quadOf s d := mget_mset ..
@[simp] theorem quadOf_modQuad_self (c : Nat) (f : Quad → Quad) : quadOf (modQuad s c f) c = f (quadOf s c) := mget_mset_self ..
theorem tileOf_modTile (c d : Nat) (f : Tile → Tile) : tileOf (modTile s c f) d = if c = d then f (tileOf s c) else tileOf s d := mget_mset ..
@[simp] theorem tileOf_modTile_self (c : Nat) (f : Tile → Tile) : tileOf (modTile s c f) c = f (tileOf s c) := mget_mset_self ..
theorem engineOf_modEngine (c d : Nat) (f : Engine → Engine) : engineOf (modEngine s c f) d = if c = d then f (engineOf s c) else engineOf s d := mget_mset ..
@[simp] theorem engineOf_modEngine_self (c : Nat) (f : Engine → Engine) : engineOf (modEngine s c f) c = f (engineOf s c) := mget_mset_self ..
@[simp] theorem modStrand_putStrand (a : Agent) (r : Strand) (f : Strand → Strand) : modStrand (putStrand s a r) a f = putStrand s a (f r) := by
  have h : strandOf (putStrand s a r) a = r := strandOf_putStrand_self s a r
  simp only [modStrand, h]
  simp only [putStrand, mset_mset]

/-- Two changes of one record are one. -/
@[simp] theorem modStrand_modStrand (a : Agent) (f g : Strand → Strand) : modStrand (modStrand s a f) a g = modStrand s a fun r => g (f r) :=
  modStrand_putStrand s a _ g

/-! ## Registers of a strand (R53, R54, R165) -/

variable (r : Strand) (n m : Nat) (v : Word)

theorem reg_setReg : (r.setReg n v).reg m = if n = m then v else r.reg m := mget_mput ..
@[simp] theorem reg_setReg_self : (r.setReg n v).reg n = v := mget_mput_self ..
@[simp] theorem reg_markEmpty : (r.markEmpty n).reg m = r.reg m := rfl
theorem isEmpty_setReg : (r.setReg n v).isEmpty m = (decide (m ≠ n) && r.isEmpty m) := shas_sdel ..
@[simp] theorem isEmpty_setReg_self : (r.setReg n v).isEmpty n = false := by simp [isEmpty_setReg]
theorem isEmpty_markEmpty : (r.markEmpty n).isEmpty m = (decide (m = n) || r.isEmpty m) := shas_sadd ..
@[simp] theorem isEmpty_markEmpty_self : (r.markEmpty n).isEmpty n = true := by simp [isEmpty_markEmpty]
@[simp] theorem setReg_str : (r.setReg n v).str = r.str := rfl
@[simp] theorem setReg_pc : (r.setReg n v).pc = r.pc := rfl
@[simp] theorem setReg_run : (r.setReg n v).run = r.run := rfl
@[simp] theorem setReg_svs : (r.setReg n v).svs = r.svs := rfl
@[simp] theorem setReg_party : (r.setReg n v).party = r.party := rfl
@[simp] theorem markEmpty_str : (r.markEmpty n).str = r.str := rfl
@[simp] theorem markEmpty_pc : (r.markEmpty n).pc = r.pc := rfl
@[simp] theorem markEmpty_run : (r.markEmpty n).run = r.run := rfl
@[simp] theorem markEmpty_svs : (r.markEmpty n).svs = r.svs := rfl
@[simp] theorem markEmpty_party : (r.markEmpty n).party = r.party := rfl

/-- What moving the pc on leaves alone: everything but the pc, the repetition and the notes of one instruction. -/
theorem advanced_frame (len : Nat) :
    ∃ pc rep buf, advanced r len = { r with clauseOk := false, walkFault := none, walked := [], pc := pc, repBuf := buf, str := { r.str with rep := rep } } := by
  unfold advanced
  extract_lets
  split
  · exact ⟨_, _, _, rfl⟩
  · split
    · exact ⟨_, _, _, rfl⟩
    · split
      · exact ⟨_, _, _, rfl⟩
      · exact ⟨_, _, _, rfl⟩

@[simp] theorem advanced_reg (len : Nat) : (advanced r len).reg n = r.reg n := by
  obtain ⟨_, _, _, h⟩ := advanced_frame r len; rw [h]; rfl
@[simp] theorem advanced_isEmpty (len : Nat) : (advanced r len).isEmpty n = r.isEmpty n := by
  obtain ⟨_, _, _, h⟩ := advanced_frame r len; rw [h]; rfl
@[simp] theorem advanced_svs (len : Nat) : (advanced r len).svs = r.svs := by
  obtain ⟨_, _, _, h⟩ := advanced_frame r len; rw [h]
@[simp] theorem advanced_run (len : Nat) : (advanced r len).run = r.run := by
  obtain ⟨_, _, _, h⟩ := advanced_frame r len; rw [h]
@[simp] theorem advanced_party (len : Nat) : (advanced r len).party = r.party := by
  obtain ⟨_, _, _, h⟩ := advanced_frame r len; rw [h]
/-- Outside a repetition the pc goes to the next instruction (R275). -/
theorem advanced_pc (len : Nat) (h : bit r.str.rep 63 = false) : (advanced r len).pc = r.pc + word len := by
  unfold advanced; simp [h]

end Sys2Proof.Machine
end

