-- ==== Sys2Proof/Laws/Memory.lean ====
section
/-! SUPPORT. What the memory operations do: each keeps the canonical form, and a byte that was written is the byte that is read. -/

namespace Sys2Proof.Machine

/-- Memory of the state is in canonical form. -/
abbrev Canonical (s : State) : Prop := Memory.wf s.mem = true

theorem reset_canonical : Canonical State.reset := rfl

/-- A property that every step of a fold keeps holds at its end. -/
theorem foldl_keeps {α β : Type} (P : β → Prop) (f : β → α → β) (l : List α) (b : β) (hb : P b) (h : ∀ b a, P b → P (f b a)) :
    P (l.foldl f b) := by
  induction l generalizing b with
  | nil => exact hb
  | cons a r ih => exact ih _ (h _ _ hb)

/-- A fold whose steps leave a quantity alone leaves it alone. -/
theorem foldl_same {α β γ : Type} (g : β → γ) (f : β → α → β) (l : List α) (b : β) (h : ∀ b a, g (f b a) = g b) : g (l.foldl f b) = g b :=
  foldl_keeps (fun x => g x = g b) f l b rfl fun x a hx => (h x a).trans hx

/-! ## Single bytes -/

variable {s : State}

theorem putHbm_canonical (h : Canonical s) (l : Nat) (b : Byte) : Canonical (putHbm s l b) := wf_mput s.mem l b h

theorem putHome_canonical (h : Canonical s) (l : Nat) (b : Byte) : Canonical (putHome s l b) := by
  unfold putHome; split
  · exact h
  · exact putHbm_canonical h l b

theorem putBy_canonical (h : Canonical s) (na : Bool) (l : Nat) (b : Byte) : Canonical (putBy na s l b) := by
  unfold putBy; split
  · exact putHbm_canonical (s := { s with llc := mdel s.llc l }) h l b
  · exact putHome_canonical h l b

theorem hbmByte_putHbm (s : State) (l : Nat) (b : Byte) (m : Nat) : hbmByte (putHbm s l b) m = if l = m then b else hbmByte s m := mget_mput ..

theorem homeByte_putHome (s : State) (l : Nat) (b : Byte) (m : Nat) : homeByte (putHome s l b) m = if l = m then b else homeByte s m := by
  unfold putHome homeByte
  by_cases hl : isDram l = true
  · simp only [hl, if_true]
    by_cases hm : isDram m = true
    · simp only [hm, if_true, mfind_mset]
      by_cases h : l = m <;> simp [h, hbmByte]
    · have : l ≠ m := fun h => hm (h ▸ hl)
      simp [hm, this, hbmByte]
  · simp only [hl, Bool.false_eq_true, if_false]
    by_cases hm : isDram m = true
    · have : l ≠ m := fun h => hl (h ▸ hm)
      rw [if_pos hm, if_pos hm, if_neg this, hbmByte_putHbm, if_neg this]; rfl
    · simp [hm, hbmByte_putHbm]

/-- A write of a page with NA = 1 is what the home reads, and HBM holds it too (R70). -/
theorem homeByte_putThrough (s : State) (l : Nat) (b : Byte) (m : Nat) : homeByte (putThrough s l b) m = if l = m then b else homeByte s m := by
  unfold putThrough homeByte
  by_cases hm : isDram m = true
  · rw [if_pos hm, if_pos hm, hbmByte_putHbm]
    by_cases h : l = m
    · subst h; simp only [putHbm, mfind_mdel, if_true]; rfl
    · simp only [putHbm, mfind_mdel, if_neg h]; rfl
  · rw [if_neg hm, if_neg hm, hbmByte_putHbm]; rfl

theorem homeByte_putBy (na : Bool) (s : State) (l : Nat) (b : Byte) (m : Nat) : homeByte (putBy na s l b) m = if l = m then b else homeByte s m := by
  unfold putBy; split
  · exact homeByte_putThrough s l b m
  · exact homeByte_putHome s l b m

/-- Writing bytes by a writer that keeps the form keeps it. -/
theorem writeBy_keeps (P : State → Prop) (f : State → Nat → Byte → State) (hf : ∀ s l b, P s → P (f s l b)) (s : State) (l : Nat) (bs : List Byte)
    (h : P s) : P (writeBy f s l bs) := by
  induction bs generalizing s l with
  | nil => exact h
  | cons b r ih => exact ih _ _ (hf _ _ _ h)

/-- What a reader gives after bytes were written by a writer that it reads byte by byte. -/
theorem read_writeBy (g : State → Nat → Byte) (f : State → Nat → Byte → State) (hf : ∀ s l b m, g (f s l b) m = if l = m then b else g s m)
    (s : State) (l : Nat) (bs : List Byte) (m : Nat) :
    g (writeBy f s l bs) m = if l ≤ m ∧ m < l + bs.length then bs.getD (m - l) 0 else g s m := by
  induction bs generalizing s l with
  | nil => simp only [writeBy, List.length_nil]; rw [if_neg (by omega)]
  | cons b r ih =>
    simp only [writeBy, ih, hf, List.length_cons]
    by_cases h1 : l = m
    · subst h1
      rw [if_neg (by omega), if_pos rfl, if_pos (by omega)]; simp
    · by_cases h2 : l + 1 ≤ m ∧ m < l + 1 + r.length
      · have h3 : l ≤ m ∧ m < l + (r.length + 1) := by omega
        have h4 : m - l = (m - (l + 1)) + 1 := by omega
        rw [if_pos h2, if_pos h3, h4]; simp
      · have h3 : ¬(l ≤ m ∧ m < l + (r.length + 1)) := by omega
        rw [if_neg h2, if_neg h3, if_neg h1]

theorem homeByte_writeBy (s : State) (l : Nat) (bs : List Byte) (m : Nat) :
    homeByte (writeBy putHome s l bs) m = if l ≤ m ∧ m < l + bs.length then bs.getD (m - l) 0 else homeByte s m :=
  read_writeBy homeByte putHome homeByte_putHome s l bs m

theorem hbmByte_writeBy (s : State) (l : Nat) (bs : List Byte) (m : Nat) :
    hbmByte (writeBy putHbm s l bs) m = if l ≤ m ∧ m < l + bs.length then bs.getD (m - l) 0 else hbmByte s m :=
  read_writeBy hbmByte putHbm hbmByte_putHbm s l bs m

/-! ## Stores and flushes -/

theorem hbmBits_putHbmBits (s : State) (l : Nat) (b : Bool × Bool) (m : Nat) : hbmBits (putHbmBits s l b) m = if m = l then b else hbmBits s m := by
  simp only [hbmBits, putHbmBits, shas_sput]
  split
  · subst_vars; rcases b with ⟨_ | _, _⟩ <;> cases resetFull m <;> rfl
  · rfl

/-- The bits written at a word's home are those that its home reads, and no other word's change. -/
theorem homeBits_putBitsBy (na : Bool) (s : State) (l : Nat) (b : Bool × Bool) (m : Nat) :
    homeBits (putBitsBy na s l b) m = if m = l then b else homeBits s m := by
  have through : homeBits (putHbmBits { s with llcBits := mdel s.llcBits l } l b) m = if m = l then b else homeBits s m := by
    simp only [homeBits, hbmBits_putHbmBits, putHbmBits_llcBits, mfind_mdel]
    by_cases h : m = l
    · subst h; simp
    · simp only [if_neg h, if_neg (Ne.symm h)]; rfl
  unfold putBitsBy putHomeBits
  split
  · exact through
  · split
    · simp only [homeBits, mfind_mset]
      by_cases h : m = l
      · subst h; simp
      · simp only [if_neg h, if_neg (Ne.symm h)]; rfl
    · exact through

theorem isFull_setFull (s : State) (l m : Nat) (b na : Bool) : isFull (setFull s l b na) m = if m = l then b else isFull s m := by
  simp only [isFull, setFull, homeBits_putBitsBy]; split <;> rfl

theorem isPoison_setPoison (s : State) (l m : Nat) (b na : Bool) : isPoison (setPoison s l b na) m = if m = l then b else isPoison s m := by
  simp only [isPoison, setPoison, homeBits_putBitsBy]; split <;> rfl

theorem storeBits_mem {get : State → Nat → Bool × Bool} {put : State → Nat → Bool × Bool → State} (hp : ∀ s l b, (put s l b).mem = s.mem)
    (s : State) (l n : Nat) : (storeBits get put s l n).mem = s.mem :=
  foldl_same State.mem _ _ s fun _ _ => hp ..

theorem rouse_mem (s : State) (a : Agent) : (rouse s a).mem = s.mem := by unfold rouse; split <;> rfl

theorem hitLine_mem (s : State) (l : Nat) : (hitLine s l).mem = s.mem :=
  foldl_same State.mem _ _ s fun _ _ => by split; exact rouse_mem ..; rfl

theorem hitRange_mem (s : State) (l n : Nat) : (hitRange s l n).mem = s.mem := foldl_same State.mem _ _ s fun _ _ => hitLine_mem ..

theorem touchSlice_mem (s : State) (a : Agent) (pa : Nat) : (touchSlice s a pa).mem = s.mem := by unfold touchSlice; split <;> rfl

theorem homeStore_canonical (h : Canonical s) (l : Nat) (bs : List Byte) : Canonical (homeStore s l bs) := by
  unfold homeStore Canonical
  rw [hitRange_mem, storeBits_mem fun _ _ _ => putHomeBits_mem ..]
  exact writeBy_keeps Canonical putHome (fun _ l b h => putHome_canonical h l b) s l bs h

theorem hbmStore_canonical (h : Canonical s) (l : Nat) (bs : List Byte) : Canonical (hbmStore s l bs) := by
  unfold hbmStore Canonical
  rw [storeBits_mem fun _ _ _ => putHbmBits_mem ..]
  exact writeBy_keeps Canonical putHbm (fun _ l b h => putHbm_canonical h l b) s l bs h

theorem storeAt_canonical (h : Canonical s) (na : Bool) (l : Nat) (bs : List Byte) : Canonical (storeAt na s l bs) := by
  unfold storeAt Canonical
  rw [hitRange_mem, storeBits_mem fun _ _ _ => putBitsBy_mem ..]
  exact writeBy_keeps Canonical (putBy na) (fun _ l b h => putBy_canonical h na l b) s l bs h

theorem flushRange_canonical (h : Canonical s) (lo hi : Nat) : Canonical (flushRange s lo hi) :=
  foldl_keeps (fun m => Memory.wf m = true) _ _ s.mem h fun m e hm => wf_mput m e.1 e.2 hm

/-! ## The L1 data cache -/

theorem wordBits_mem (s : State) (ln : Line) (w : Nat) : (wordBits s ln w).mem = s.mem := by
  unfold wordBits; split
  · rfl
  · exact putBitsBy_mem ..

theorem writeBack_canonical (h : Canonical s) (ln : Line) : Canonical (writeBack s ln) := by
  unfold writeBack
  split
  · exact h
  · have h1 := foldl_keeps Canonical (fun s i => putBy ln.na s (ln.line * 64 + i) (lineByte ln.data i)) (positions 64 fun i => ln.dirty.getLsbD i) s h
      fun _ _ h => putBy_canonical h ..
    have h2 := foldl_keeps Canonical (fun s w => wordBits s ln w) (List.range 8) _ h1 fun s w h => by
      simp only [Canonical, wordBits_mem]; exact h
    simp only []
    split
    · simp only [Canonical, touchSlice_mem, hitLine_mem]; exact h2
    · simp only [Canonical, hitLine_mem]; exact h2

theorem sweepLines_canonical (h : Canonical s) (p : Line → Bool) : Canonical (sweepLines s p) :=
  foldl_keeps Canonical writeBack _ s h fun _ _ h => writeBack_canonical h _

theorem cleanLines_canonical (h : Canonical s) (p : Line → Bool) : Canonical (cleanLines s p) :=
  foldl_keeps Canonical writeBack _ s h fun _ _ h => writeBack_canonical h _

theorem evictFor_canonical (h : Canonical s) (core line : Nat) : Canonical (evictFor s core line) := by
  simp only [evictFor]
  split
  · exact h
  · split
    · exact sweepLines_canonical h _
    · exact h

theorem lookupLine_canonical (h : Canonical s) (core line key gen : Nat) : Canonical (lookupLine s core line key gen).2 := by
  unfold lookupLine
  split
  · exact h
  · split
    · exact h
    · exact sweepLines_canonical h _

theorem l1Load_canonical (h : Canonical s) (a : Agent) (t : LineTag) (pa n : Nat) : Canonical (l1Load s a t pa n).2.2 := by
  have hl := lookupLine_canonical h a.unit (pa / 64) t.entry t.gen
  unfold l1Load
  simp only []
  split
  · split
    · exact hl
    · simp only [Canonical, putLine, touchSlice_mem]; exact hl
  · simp only [Canonical, putLine, touchSlice_mem]; exact evictFor_canonical hl _ _

theorem l1Store_canonical (h : Canonical s) (a : Agent) (t : LineTag) (pa : Nat) (bs : List Byte) : Canonical (l1Store s a t pa bs) := by
  have hl := lookupLine_canonical h a.unit (pa / 64) t.entry t.gen
  unfold l1Store
  simp only []
  split
  · exact hl
  · exact evictFor_canonical hl _ _

/-! ## The caches of translations and of holder-table entries -/

theorem holdIn_canonical (h : Canonical s) (a : Agent) (key : Nat) (u : Nat × Nat × Nat) : Canonical (holdIn a key s u) := by
  have h' : ∀ hs, Canonical { s with holders := hs } := fun _ => h
  unfold holdIn
  simp only []
  split
  · exact sweepLines_canonical (h' _) _
  · exact h

theorem noteHolder_canonical (h : Canonical s) (a : Agent) (key : Nat) : Canonical (noteHolder s a key) :=
  foldl_keeps Canonical (holdIn a key) _ s h fun _ _ h => holdIn_canonical h ..

theorem noteLeaf_mem (s : State) (x : Actor) (u va : Nat) : (noteLeaf s x u va).mem = s.mem := by
  unfold noteLeaf
  split
  · rfl
  · exact foldl_same State.mem _ _ s fun _ _ => rfl

theorem noteParts_canonical (h : Canonical s) (x : Actor) (ps : List Part) : Canonical (noteParts s x ps) := by
  unfold noteParts
  split
  · exact h
  · refine foldl_keeps Canonical _ ps s h fun s p h => ?_
    have h1 : ∀ b : Bool, ∀ u, Canonical (if b then noteLeaf s x u p.va else s) := fun b u => by
      split
      · simp only [Canonical, noteLeaf_mem]; exact h
      · exact h
    have h2 : ∀ c : Prop, [Decidable c] → ∀ u, Canonical (if c then noteLeaf s x u p.va else s) := fun c _ u => by
      have := h1 (decide c) u; simpa using this
    simp only []
    split
    · split
      · exact noteHolder_canonical (h2 _ _) ..
      · exact h2 _ _
    · exact h2 _ _

/-! ## Parts -/

theorem readPart_canonical (h : Canonical s) (x : Actor) (p : Part) : Canonical (readPart s x p).2.2 := by
  unfold readPart
  split
  · split
    · split
      · exact foldl_keeps (fun acc : List Byte × Nat × State => Canonical acc.2.2) _ _ _ h fun acc q hq => l1Load_canonical hq ..
      · exact foldl_keeps (fun acc : List Byte × Nat × State => Canonical acc.2.2) _ _ _ h fun acc q hq => by
          simp only [Canonical, touchSlice_mem]; exact hq
    · split <;> exact h
    · split <;> exact h
    · split <;> exact h
    · exact h
  all_goals exact h

theorem writePart_canonical (h : Canonical s) (x : Actor) (p : Part) (bs : List Byte) : Canonical (writePart s x p bs) := by
  unfold writePart
  split
  · split
    · split
      · exact foldl_keeps (fun acc : List Byte × State => Canonical acc.2) _ _ _ h fun acc q hq => l1Store_canonical hq ..
      · exact foldl_keeps (fun acc : List Byte × State => Canonical acc.2) _ _ _ h fun acc q hq =>
          storeAt_canonical (by simp only [Canonical, touchSlice_mem]; exact hq) ..
    · split
      · exact storeAt_canonical h ..
      · exact hbmStore_canonical h ..
    · split <;> first | exact storeAt_canonical h .. | exact hbmStore_canonical h ..
    · split
      · exact storeAt_canonical h ..
      · exact hbmStore_canonical h ..
    · exact storeAt_canonical h ..
  · exact writeBy_keeps Canonical putHbm (fun _ l b h => putHbm_canonical h l b) _ _ _ h
  · exact homeStore_canonical h ..
  · exact homeStore_canonical h ..
  · exact homeStore_canonical h ..
  · exact writeBy_keeps Canonical (fun s i b => putAccByte s _ i b) (fun _ _ _ h => h) _ _ _ h
  · exact writeBy_keeps Canonical (fun s i b => putMetaByte s _ i b) (fun _ _ _ h => h) _ _ _ h
  · exact h
  · exact h

theorem readParts_canonical (h : Canonical s) (x : Actor) (ps : List Part) : Canonical (readParts s x ps).2.2 :=
  foldl_keeps (fun acc : List Byte × Nat × State => Canonical acc.2.2) _ _ _ (noteParts_canonical h x ps) fun _ _ hq => readPart_canonical hq ..

theorem writeParts_canonical (h : Canonical s) (x : Actor) (ps : List Part) (bs : List Byte) : Canonical (writeParts s x ps bs) :=
  foldl_keeps (fun acc : List Byte × State => Canonical acc.2) _ _ _ (noteParts_canonical h x ps) fun _ _ hq => writePart_canonical hq ..

end Sys2Proof.Machine
end

