-- ==== Sys2Proof/Laws/Ops.lean ====
section
/-! SUPPORT. What the shared operations of the instructions do: the checks at issue, results at once and delayed. -/

namespace Sys2Proof.Machine

variable {s t : State}

/-- An instruction whose registers are ready runs its effect. -/
theorem issue_full {us : List Use} (h : Full s us) (k : State → Res) : issue s false us k = k s := by
  unfold issue
  rw [if_neg (by simp), if_neg (by simp [h.1]), if_neg (by simp [h.2])]

/-- An illegal use traps before its registers are looked at. -/
theorem issue_illegal (us : List Use) (k : State → Res) : issue s true us k = .trap s { code := 1 } := by
  unfold issue; rw [if_pos rfl]

/-- A register beyond its range traps. -/
theorem issue_beyond {us : List Use} (h : (us.any fun u => u.beyond (partSize s.cur (me s))) = true) (k : State → Res) :
    issue s false us k = .trap s { code := 3 } := by
  unfold issue; rw [if_neg (by simp), if_pos h]

/-- An empty register parks the strand. -/
theorem issue_empty {us : List Use} (h : (us.any fun u => u.beyond (partSize s.cur (me s))) = false) (h' : emptyUses (me s) us ≠ [])
    (k : State → Res) : issue s false us k = parkMe s (.regs (emptyUses (me s) us)) := by
  unfold issue; rw [if_neg (by simp), if_neg (by simp [h]), if_pos h']

theorem finish_done (len : Nat) (s : State) : finish len (.done s) = .next (wentOn len s) := rfl

theorem SameMemory.refl (s : State) : SameMemory s s := fun _ => ⟨rfl, rfl, rfl, rfl⟩

/-- Memory reads the same in any state that differs in the strands and the scheduled events alone. -/
theorem sameMemory_strand (s : State) (r : Strand) (q : List (Nat × Instr)) : SameMemory s { putStrand s s.cur r with sched := q } :=
  fun _ => ⟨rfl, rfl, rfl, rfl⟩

/-- A record that differs as a register write and the pc's advance do gives the frame. -/
theorem frame_of_record (len : Nat) (r : Strand) (q : List (Nat × Instr)) (ds : List Nat) (fl : Word)
    (hr : ∀ n, n ∉ ds → r.reg n = (me s).reg n ∧ r.isEmpty n = (me s).isEmpty n)
    (hs : r.str = { (me s).str with fpctl := (me s).str.fpctl ||| fl }) (hv : r.svs = (me s).svs) (hp : r.party = (me s).party) :
    Frame s { putStrand s s.cur (advanced r len) with sched := q } ds fl := by
  have hm : me { putStrand s s.cur (advanced r len) with sched := q } = advanced r len := strandOf_putStrand_self s s.cur _
  obtain ⟨pc, rep, buf, ha⟩ := advanced_frame r len
  refine ⟨⟨_, q, rfl⟩, ?_, ?_, ?_, ?_, sameMemory_strand s _ _⟩
  · intro n hn; rw [hm, advanced_reg, advanced_isEmpty]; exact hr n hn
  · rw [hm, ha]; simp [hs]
  · rw [hm, advanced_svs, hv]
  · rw [hm, advanced_party, hp]

theorem wentOn_putDst (len : Nat) (s : State) (d : Option Nat) (v : Word) :
    wentOn len (putDst s d v) = { putStrand s s.cur (advanced (match d with | some n => (me s).setReg n v | none => me s) len) with sched := s.sched } := by
  cases d with
  | none => rfl
  | some n => exact modStrand_putStrand s s.cur _ _

/-- A result written at once. -/
theorem wrote_putDst (len : Nat) (s : State) (d : Option Nat) (v : Word) : Wrote len s (wentOn len (putDst s d v)) d v 0 := by
  rw [wentOn_putDst]
  have hm (r : Strand) (q) : me { putStrand s s.cur (advanced r len) with sched := q } = advanced r len := strandOf_putStrand_self s s.cur _
  refine ⟨?_, ?_, ?_⟩
  · rintro n rfl; rw [hm]; simp
  · apply frame_of_record <;> cases d <;> simp [reg_setReg, isEmpty_setReg]
    intro n hn; exact ⟨fun h => absurd h.symm hn, fun _ h => absurd h hn⟩
  · intro h; rw [hm, advanced_pc] <;> cases d <;> simp [h]

/-- The events of a schedule with one more: the new one is among them. -/
theorem mem_insertEvent (q : List (Nat × Instr)) (c : Nat) (i : Instr) : (c, i) ∈ insertEvent q c i := by
  induction q with
  | nil => simp [insertEvent]
  | cons e r ih =>
    obtain ⟨c', j⟩ := e
    simp only [insertEvent]
    split <;> simp [ih]

/-- The state after a delayed result is queued: the destination empty, the pc past the instruction, the arrival among the events. -/
theorem wentOn_post_emptyDst (len : Nat) (s : State) (d : Option Nat) (lat : Nat) (i : Instr) :
    wentOn len (post (emptyDst s d) lat i)
      = { putStrand s s.cur (advanced (match d with | some n => (me s).markEmpty n | none => me s) len) with
          sched := insertEvent s.sched (s.cycle + lat) i } := by
  cases d with
  | none => rfl
  | some n =>
    exact congrArg (fun x : State => { x with sched := insertEvent s.sched (s.cycle + lat) i })
      (modStrand_putStrand s s.cur ((me s).markEmpty n) fun r => advanced r len)

/-- A delayed result that is queued. -/
theorem sent_queued (len : Nat) (s : State) (d : Option Nat) (v : Word) (fl : Flags) (can : Bool) (own : List (Nat × Word)) (lat : Nat) :
    Sent len s (wentOn len (post (emptyDst s d) lat (.resultArrival s.cur (resultOf d v can ++ own) fl 0))) d v fl lat can own := by
  have hm (r : Strand) (q) : me { putStrand s s.cur (advanced r len) with sched := q } = advanced r len := strandOf_putStrand_self s s.cur _
  rw [wentOn_post_emptyDst]
  refine ⟨?_, fun _ _ => mem_insertEvent .., ?_, ?_⟩
  · rintro n rfl; rw [hm]; simp; exact mem_insertEvent ..
  · apply frame_of_record <;> cases d <;> simp [isEmpty_markEmpty]
    intro m hm h; exact absurd h hm
  · intro h; rw [hm, advanced_pc] <;> cases d <;> simp [h]

/-- A delayed result. -/
theorem sent_post (len : Nat) (s : State) (d : Option Nat) (v : Word) (fl : Flags) (can : Bool) (lat : Nat) :
    Sent len s (wentOn len (deliverFlags (emptyDst s d) s.cur d v fl can lat)) d v fl lat can ownMark := by
  unfold deliverFlags
  split
  · rename_i h
    obtain ⟨hd, hf, hc⟩ := h
    obtain rfl : d = none := by simpa using hd
    refine ⟨by simp, ?_, (wrote_putDst len s none 0).frame, (wrote_putDst len s none 0).pc⟩
    rintro - (h | h)
    · exact absurd hf h
    · simp [h] at hc
  · exact sent_queued ..

theorem sent_later (len : Nat) (s : State) (d : Option Nat) (v : Word) (lat : Nat) : Sent len s (wentOn len (later s d v lat)) d v 0 lat := by
  cases d with
  | none => exact ⟨by simp, by simp, (wrote_putDst len s none 0).frame, (wrote_putDst len s none 0).pc⟩
  | some n => exact sent_queued len s (some n) v 0 false [] lat

/-- What resultLater comes to. -/
theorem delivers_resultLater {i : Instr} {d : Option Nat} {v : Word} {fl : Flags} {can : Bool} {lat : Nat}
    (h : exec i s = finish 4 (resultLater s d v fl can lat)) : Delivers i s d v fl can lat := by
  unfold Delivers
  unfold resultLater arithTrap at h
  split
  · rename_i h1; rw [h, if_pos h1]; rfl
  · rename_i h1
    rw [if_neg h1] at h
    split
    · rename_i h2; rw [h, if_pos h2]; cases d <;> rfl
    · rename_i h2
      rw [if_neg h2] at h
      exact ⟨_, h, sent_post ..⟩

/-- A result written at once after its flags have been raised. -/
theorem wrote_raise (len : Nat) (s : State) (d : Option Nat) (v : Word) (fl : Flags) :
    Wrote len s (wentOn len (putDst (raise s fl) d v)) d v (fl.setWidth 64) := by
  have he : wentOn len (putDst (raise s fl) d v) = { putStrand s s.cur (advanced
      (match d with
        | some n => ({ me s with str := { (me s).str with fpctl := (me s).str.fpctl ||| fl.setWidth 64 } } : Strand).setReg n v
        | none => { me s with str := { (me s).str with fpctl := (me s).str.fpctl ||| fl.setWidth 64 } }) len) with sched := s.sched } := by
    cases d <;> simp only [wentOn, putDst, raise, modStrand_cur, modStrand_modStrand] <;> rfl
  have hm (r : Strand) (q) : me { putStrand s s.cur (advanced r len) with sched := q } = advanced r len := strandOf_putStrand_self s s.cur _
  rw [he]
  refine ⟨?_, ?_, ?_⟩
  · rintro n rfl; rw [hm]; simp
  · apply frame_of_record
    · intro n hn
      cases d with
      | none => exact ⟨rfl, rfl⟩
      | some m =>
        have hm : m ≠ n := by rintro rfl; simp at hn
        refine ⟨?_, ?_⟩
        · show Strand.reg (Strand.setReg _ m v) n = _
          rw [reg_setReg, if_neg hm]; rfl
        · show Strand.isEmpty (Strand.setReg _ m v) n = _
          rw [isEmpty_setReg, decide_eq_true (Ne.symm hm)]; rfl
    · cases d <;> rfl
    · cases d <;> rfl
    · cases d <;> rfl
  · intro h; rw [hm, advanced_pc] <;> cases d <;> simp [h]

/-- What resultNow comes to. -/
theorem saturated_resultNow {i : Instr} {d : Option Nat} {v : Word} {b : Bool}
    (h : exec i s = finish 4 (resultNow s d v (flagIf flagIS b))) : Saturated i s d v b := by
  unfold Saturated
  unfold resultNow arithTrap flagIf at h
  cases b with
  | false =>
    rw [if_neg (by simp)]
    simp at h
    exact ⟨_, h, wrote_raise 4 s d v 0⟩
  | true =>
    split
    · rename_i h1; rw [if_pos rfl, if_pos h1.2] at h; exact h
    · rename_i h1
      have h2 : ¬(flagIS &&& enables (me s) ≠ 0) := fun h => h1 ⟨rfl, h⟩
      rw [if_pos rfl, if_neg h2] at h
      exact ⟨_, h, wrote_raise 4 s d v flagIS⟩

/-! ## Order, memory operands, clauses, parking, traps -/

/-- With no fence in progress an event goes on. -/
theorem eventGate_open {us : List Use} (h : Open s us) (k : Res) : eventGate s k = k := by
  unfold eventGate; rw [if_neg (by simp [h.2])]

/-- An operation that comes after every earlier event goes on once they have been performed. -/
theorem orderGate_ordered (h : Ordered s) (k : Res) : orderGate s k = k := by
  unfold orderGate; rw [if_neg (by simp [h.1]), if_neg (by simp [h.2])]

/-- A misaligned operand traps. -/
theorem withAccess_misaligned {va : Word} {n al : Nat} (m : Mode) (k : List Part → Res) (h : va.toNat % al ≠ 0) :
    withAccess s m va n al k = .trap s { code := 4, va := va } := by
  unfold withAccess; rw [if_pos h]

/-- An operand whose checks succeed goes on with its parts, a store where no accepted pass's staging holds it back. -/
theorem withAccess_granted {m : Mode} {va : Word} {n al : Nat} {ps : List Part} (k : List Part → Res) (h : Granted s m va n ps)
    (ha : va.toNat % al = 0) (hs : m = .store → stagingHeld s ps = false) : withAccess s m va n al k = k ps := by
  unfold withAccess; rw [if_neg (by simp [ha]), h]
  by_cases hm : m = .store <;> simp [hm, hs]

/-- A store into the staging of an accepted pass forfeits its slot (R363). -/
theorem withAccess_staged {va : Word} {n al : Nat} {ps : List Part} (k : List Part → Res) (h : Granted s .store va n ps) (ha : va.toNat % al = 0)
    (hs : stagingHeld s ps = true) : withAccess s .store va n al k = retryMe s 1 := by
  unfold withAccess; rw [if_neg (by simp [ha]), h]; simp [hs]

/-- An operand that fails a check does what the check says. -/
theorem withAccess_bad {m : Mode} {va : Word} {n al : Nat} {b : Bad} (k : List Part → Res)
    (h : access s (myself s) (myTlb s) m va.toNat n = .error b) (ha : va.toNat % al = 0) : withAccess s m va n al k = onBad s b := by
  unfold withAccess; rw [if_neg (by simp [ha]), h]

/-- A read that meets no poison goes on. -/
theorem consume_clean {ps : List Part} (k : Res) (h : poisonedVa s (myself s) ps = none) : consume s ps k = k := by
  unfold consume; rw [h]

/-- A wait clause that is met goes on. -/
theorem waitClause_met {c : Clauses} (k : Res) (h : Waited s c) : waitClause s c k = k := by
  unfold waitClause
  split
  · rfl
  · rename_i i th hc
    rw [if_pos (h i th hc)]

/-- A trap onto a handler that runs kills the strand; so does one with no handler; else it is entered (R419, R427). -/
theorem takeTrap_cases (a : Agent) (c : Trap) (len : Nat) (h : a.kind ≠ .engine) :
    (inTrap (strandOf s a) = true ∧ ∃ u, takeTrap s a c len = killStrand u a 3 0)
    ∨ (inTrap (strandOf s a) = false ∧ fld (strandOf s a).str.tvec 55 6 = 0
        ∧ takeTrap s a c len = killStrand (putStrand s a { trapEntered a (strandOf s a) c len with pc := (strandOf s a).pc }) a 4 0)
    ∨ (inTrap (strandOf s a) = false ∧ fld (strandOf s a).str.tvec 55 6 ≠ 0
        ∧ takeTrap s a c len = putStrand s a (trapEntered a (strandOf s a) c len)) := by
  unfold takeTrap
  simp only [h, if_false]
  split
  · rename_i h1; exact .inl ⟨h1, _, rfl⟩
  · rename_i h1
    simp only [Bool.not_eq_true] at h1
    split
    · rename_i h2; exact .inr (.inl ⟨h1, h2, rfl⟩)
    · rename_i h2; exact .inr (.inr ⟨h1, h2, rfl⟩)

/-- An engine's trap ends its operation (R290, R393). -/
theorem takeTrap_engine (a : Agent) (c : Trap) (len : Nat) (h : a.kind = .engine) :
    takeTrap s a c len = post (putStrand s a { strandOf s a with run := .free }) 1
      (.endOp a.unit (engineTrap (strandOf s a) c).1 (engineTrap (strandOf s a) c).2) := by
  unfold takeTrap; rw [if_pos h]

/-- A strand that parks keeps its registers and its pc. -/
theorem parkAs_strand (a : Agent) (p : Park) : strandOf (parkAs s a p) a = { strandOf s a with run := .parked p, parkedAt := s.cycle } :=
  strandOf_putStrand_self s a _

end Sys2Proof.Machine
end

