-- ==== Sys2Proof/Laws/PerInstr.lean ====
section
/-! SUPPORT. The family Encoding: what every constructor's encoding is like, one lemma per constructor. -/

namespace Sys2Proof.Laws.Encoding

/-- An instruction's encoding has at most two words, and an event of the table none (R275, R276, R279). -/
def Statement (i : Instr) : Prop := (encode i).length ≤ 2

theorem add (d : GDst) (a : Src) (b : Src) : Statement (.add d a b) := Nat.le_succ 1
theorem sub (d : GDst) (a : Src) (b : Src) : Statement (.sub d a b) := Nat.le_succ 1
theorem mul (d : GDst) (a : Src) (b : Src) : Statement (.mul d a b) := Nat.le_succ 1
theorem mulh (d : GDst) (a : Src) (b : Src) : Statement (.mulh d a b) := Nat.le_succ 1
theorem mulhu (d : GDst) (a : Src) (b : Src) : Statement (.mulhu d a b) := Nat.le_succ 1
theorem div (d : GDst) (a : Src) (b : Src) : Statement (.div d a b) := Nat.le_succ 1
theorem divu (d : GDst) (a : Src) (b : Src) : Statement (.divu d a b) := Nat.le_succ 1
theorem rem (d : GDst) (a : Src) (b : Src) : Statement (.rem d a b) := Nat.le_succ 1
theorem remu (d : GDst) (a : Src) (b : Src) : Statement (.remu d a b) := Nat.le_succ 1
theorem and (d : GDst) (a : Src) (b : Src) : Statement (.and d a b) := Nat.le_succ 1
theorem or (d : GDst) (a : Src) (b : Src) : Statement (.or d a b) := Nat.le_succ 1
theorem xor (d : GDst) (a : Src) (b : Src) : Statement (.xor d a b) := Nat.le_succ 1
theorem andn (d : GDst) (a : Src) (b : Src) : Statement (.andn d a b) := Nat.le_succ 1
theorem shl (d : GDst) (a : Src) (b : Src) : Statement (.shl d a b) := Nat.le_succ 1
theorem shr (d : GDst) (a : Src) (b : Src) : Statement (.shr d a b) := Nat.le_succ 1
theorem sar (d : GDst) (a : Src) (b : Src) : Statement (.sar d a b) := Nat.le_succ 1
theorem ror (d : GDst) (a : Src) (b : Src) : Statement (.ror d a b) := Nat.le_succ 1
theorem min (d : GDst) (a : Src) (b : Src) : Statement (.min d a b) := Nat.le_succ 1
theorem max (d : GDst) (a : Src) (b : Src) : Statement (.max d a b) := Nat.le_succ 1
theorem minu (d : GDst) (a : Src) (b : Src) : Statement (.minu d a b) := Nat.le_succ 1
theorem maxu (d : GDst) (a : Src) (b : Src) : Statement (.maxu d a b) := Nat.le_succ 1
theorem seq (d : GDst) (a : Src) (b : Src) : Statement (.seq d a b) := Nat.le_succ 1
theorem slt (d : GDst) (a : Src) (b : Src) : Statement (.slt d a b) := Nat.le_succ 1
theorem sltu (d : GDst) (a : Src) (b : Src) : Statement (.sltu d a b) := Nat.le_succ 1
theorem sel (d : GDst) (a : Src) (b : Src) : Statement (.sel d a b) := Nat.le_succ 1
theorem clz (d : GDst) (a : Src) : Statement (.clz d a) := Nat.le_succ 1
theorem ctz (d : GDst) (a : Src) : Statement (.ctz d a) := Nat.le_succ 1
theorem popc (d : GDst) (a : Src) : Statement (.popc d a) := Nat.le_succ 1
theorem bfx (d : GDst) (a : Src) (b : Src) : Statement (.bfx d a b) := Nat.le_succ 1
theorem bfi (d : GDst) (a : Src) (b : Src) : Statement (.bfi d a b) := Nat.le_succ 1
theorem brev (d : GDst) (a : Src) : Statement (.brev d a) := Nat.le_succ 1
theorem adds (d : GDst) (a : Src) (b : Src) : Statement (.adds d a b) := Nat.le_succ 1
theorem subs (d : GDst) (a : Src) (b : Src) : Statement (.subs d a b) := Nat.le_succ 1
theorem addsu (d : GDst) (a : Src) (b : Src) : Statement (.addsu d a b) := Nat.le_succ 1
theorem subsu (d : GDst) (a : Src) (b : Src) : Statement (.subsu d a b) := Nat.le_succ 1
theorem li (d : GDst) (i : BitVec 16) : Statement (.li d i) := Nat.le_succ 1
theorem liz (d : GDst) (i : BitVec 16) : Statement (.liz d i) := Nat.le_succ 1
theorem lsi (d : GDst) (i : BitVec 16) : Statement (.lsi d i) := Nat.le_succ 1
theorem addi (d : GDst) (i : BitVec 16) : Statement (.addi d i) := Nat.le_succ 1
theorem andi (d : GDst) (i : BitVec 16) : Statement (.andi d i) := Nat.le_succ 1
theorem ori (d : GDst) (i : BitVec 16) : Statement (.ori d i) := Nat.le_succ 1
theorem xori (d : GDst) (i : BitVec 16) : Statement (.xori d i) := Nat.le_succ 1
theorem shli (d : GDst) (i : BitVec 6) : Statement (.shli d i) := Nat.le_succ 1
theorem shri (d : GDst) (i : BitVec 6) : Statement (.shri d i) := Nat.le_succ 1
theorem sari (d : GDst) (i : BitVec 6) : Statement (.sari d i) := Nat.le_succ 1
theorem slti (d : GDst) (i : BitVec 16) : Statement (.slti d i) := Nat.le_succ 1
theorem nop : Statement (.nop) := Nat.le_succ 1
theorem paddI8 (d : GDst) (a : Src) (b : Src) : Statement (.paddI8 d a b) := Nat.le_succ 1
theorem paddI16 (d : GDst) (a : Src) (b : Src) : Statement (.paddI16 d a b) := Nat.le_succ 1
theorem paddI32 (d : GDst) (a : Src) (b : Src) : Statement (.paddI32 d a b) := Nat.le_succ 1
theorem psubI8 (d : GDst) (a : Src) (b : Src) : Statement (.psubI8 d a b) := Nat.le_succ 1
theorem psubI16 (d : GDst) (a : Src) (b : Src) : Statement (.psubI16 d a b) := Nat.le_succ 1
theorem psubI32 (d : GDst) (a : Src) (b : Src) : Statement (.psubI32 d a b) := Nat.le_succ 1
theorem paddsI8 (d : GDst) (a : Src) (b : Src) : Statement (.paddsI8 d a b) := Nat.le_succ 1
theorem paddsI16 (d : GDst) (a : Src) (b : Src) : Statement (.paddsI16 d a b) := Nat.le_succ 1
theorem paddsI32 (d : GDst) (a : Src) (b : Src) : Statement (.paddsI32 d a b) := Nat.le_succ 1
theorem psubsI8 (d : GDst) (a : Src) (b : Src) : Statement (.psubsI8 d a b) := Nat.le_succ 1
theorem psubsI16 (d : GDst) (a : Src) (b : Src) : Statement (.psubsI16 d a b) := Nat.le_succ 1
theorem psubsI32 (d : GDst) (a : Src) (b : Src) : Statement (.psubsI32 d a b) := Nat.le_succ 1
theorem fadd (r : Rm) (t : FTy) (d : GReg) (a : Src) (b : Src) : Statement (.fadd r t d a b) := Nat.le_succ 1
theorem fsub (r : Rm) (t : FTy) (d : GReg) (a : Src) (b : Src) : Statement (.fsub r t d a b) := Nat.le_succ 1
theorem fmul (r : Rm) (t : FTy) (d : GReg) (a : Src) (b : Src) : Statement (.fmul r t d a b) := Nat.le_succ 1
theorem fdiv (r : Rm) (t : FTy) (d : GReg) (a : Src) (b : Src) : Statement (.fdiv r t d a b) := Nat.le_succ 1
theorem fma (r : Rm) (t : FTy) (d : GReg) (a : Src) (b : Src) : Statement (.fma r t d a b) := Nat.le_succ 1
theorem fsqrt (r : Rm) (t : FTy) (d : GReg) (a : Src) : Statement (.fsqrt r t d a) := Nat.le_succ 1
theorem fcvt (r : Rm) (d : GReg) (a : Src) (s : Fmt) (t : Fmt) : Statement (.fcvt r d a s t) := Nat.le_succ 1
theorem fmin (t : FTy) (d : GReg) (a : Src) (b : Src) : Statement (.fmin t d a b) := Nat.le_succ 1
theorem fmax (t : FTy) (d : GReg) (a : Src) (b : Src) : Statement (.fmax t d a b) := Nat.le_succ 1
theorem fcmp (t : FTy) (d : GReg) (a : Src) (b : Src) : Statement (.fcmp t d a b) := Nat.le_succ 1
theorem ffun (t : FTy) (d : GReg) (a : Src) (r : Rm) (fn : BitVec 6) : Statement (.ffun t d a r fn) := Nat.le_succ 1
theorem ld8 (sx : Bool) (d : GReg) (a : Src) (o : BitVec 8) : Statement (.ld8 sx d a o) := Nat.le_succ 1
theorem ld16 (sx : Bool) (d : GReg) (a : Src) (o : BitVec 8) : Statement (.ld16 sx d a o) := Nat.le_succ 1
theorem ld32 (sx : Bool) (d : GReg) (a : Src) (o : BitVec 8) : Statement (.ld32 sx d a o) := Nat.le_succ 1
theorem ld64 (d : GReg) (a : Src) (o : BitVec 8) : Statement (.ld64 d a o) := Nat.le_succ 1
theorem st8 (d : Src) (a : Src) (o : BitVec 8) : Statement (.st8 d a o) := Nat.le_succ 1
theorem st16 (d : Src) (a : Src) (o : BitVec 8) : Statement (.st16 d a o) := Nat.le_succ 1
theorem st32 (d : Src) (a : Src) (o : BitVec 8) : Statement (.st32 d a o) := Nat.le_succ 1
theorem st64 (d : Src) (a : Src) (o : BitVec 8) : Statement (.st64 d a o) := Nat.le_succ 1
theorem lds (d : GDst) (a : Src) (o : BitVec 8) : Statement (.lds d a o) := Nat.le_succ 1
theorem stf (d : Src) (a : Src) (o : BitVec 8) : Statement (.stf d a o) := Nat.le_succ 1
theorem ldp (d : GDst) (a : Src) (o : BitVec 8) : Statement (.ldp d a o) := Nat.le_succ 1
theorem ste (a : Src) (o : BitVec 8) : Statement (.ste a o) := Nat.le_succ 1
theorem aadd (d : GDst) (a : Src) (o : BitVec 8) : Statement (.aadd d a o) := Nat.le_succ 1
theorem aand (d : GDst) (a : Src) (o : BitVec 8) : Statement (.aand d a o) := Nat.le_succ 1
theorem aor (d : GDst) (a : Src) (o : BitVec 8) : Statement (.aor d a o) := Nat.le_succ 1
theorem amin (d : GDst) (a : Src) (o : BitVec 8) : Statement (.amin d a o) := Nat.le_succ 1
theorem amax (d : GDst) (a : Src) (o : BitVec 8) : Statement (.amax d a o) := Nat.le_succ 1
theorem axch (d : GDst) (a : Src) (o : BitVec 8) : Statement (.axch d a o) := Nat.le_succ 1
theorem acas (d : GDst) (a : Src) (o : BitVec 8) : Statement (.acas d a o) := Nat.le_succ 1
theorem fenceQ (d : GDst) : Statement (.fenceQ d) := Nat.le_succ 1
theorem fenceT (d : GDst) : Statement (.fenceT d) := Nat.le_succ 1
theorem fenceD (d : GDst) : Statement (.fenceD d) := Nat.le_succ 1
theorem fenceS (d : GDst) : Statement (.fenceS d) := Nat.le_succ 1
theorem marm (d : GDst) (a : Src) (slot : Fin 4) : Statement (.marm d a slot) := Nat.le_succ 1
theorem marmDis (d : GDst) (slot : Fin 4) : Statement (.marmDis d slot) := Nat.le_succ 1
theorem mwait (d : GDst) (a : Src) : Statement (.mwait d a) := Nat.le_succ 1
theorem semw (d : GDst) (a : Src) (b : Src) : Statement (.semw d a b) := Nat.le_succ 1
theorem semsig (d : GDst) (a : Src) (b : Src) : Statement (.semsig d a b) := Nat.le_succ 1
theorem semrd (d : GDst) (a : Src) : Statement (.semrd d a) := Nat.le_succ 1
theorem semset (d : GDst) (a : Src) (b : Src) : Statement (.semset d a b) := Nat.le_succ 1
theorem tret (d : GDst) (a : Src) : Statement (.tret d a) := Nat.le_succ 1
theorem unshr (d : GDst) (a : Src) (b : Src) : Statement (.unshr d a b) := Nat.le_succ 1
theorem tqry (d : GDst) (a : Src) : Statement (.tqry d a) := Nat.le_succ 1
theorem bez (a : Src) (o : BitVec 16) : Statement (.bez a o) := Nat.le_succ 1
theorem bnz (a : Src) (o : BitVec 16) : Statement (.bnz a o) := Nat.le_succ 1
theorem bltz (a : Src) (o : BitVec 16) : Statement (.bltz a o) := Nat.le_succ 1
theorem bgez (a : Src) (o : BitVec 16) : Statement (.bgez a o) := Nat.le_succ 1
theorem bgtz (a : Src) (o : BitVec 16) : Statement (.bgtz a o) := Nat.le_succ 1
theorem blez (a : Src) (o : BitVec 16) : Statement (.blez a o) := Nat.le_succ 1
theorem call (d : GDst) (o : BitVec 16) : Statement (.call d o) := Nat.le_succ 1
theorem jr (d : GDst) (a : Src) : Statement (.jr d a) := Nat.le_succ 1
theorem rep (nm1 : BitVec 4) (km1 : BitVec 12) (st : BitVec 7) : Statement (.rep nm1 km1 st) := Nat.le_succ 1
theorem spawn (d : GDst) (a : Src) (b : Src) : Statement (.spawn d a b) := Nat.le_succ 1
theorem exit (a : Src) : Statement (.exit a) := Nat.le_succ 1
theorem yield : Statement (.yield) := Nat.le_succ 1
theorem tbind (d : GDst) (a : Src) (b : Src) : Statement (.tbind d a b) := Nat.le_succ 1
theorem tunb (d : GDst) (a : Src) : Statement (.tunb d a) := Nat.le_succ 1
theorem rqput (d : GDst) (a : Src) (b : Src) : Statement (.rqput d a b) := Nat.le_succ 1
theorem rqtake (d : GDst) : Statement (.rqtake d) := Nat.le_succ 1
theorem rqtakeW (d : GDst) : Statement (.rqtakeW d) := Nat.le_succ 1
theorem migr (d : GDst) (a : Src) (b : Src) : Statement (.migr d a b) := Nat.le_succ 1
theorem join (d : GDst) (a : Src) : Statement (.join d a) := Nat.le_succ 1
theorem leave (d : GDst) (a : Src) : Statement (.leave d a) := Nat.le_succ 1
theorem gbar (d : GDst) (a : Src) : Statement (.gbar d a) := Nat.le_succ 1
theorem trap (a : Src) : Statement (.trap a) := Nat.le_succ 1
theorem rft : Statement (.rft) := Nat.le_succ 1
theorem srr (d : GDst) (n : BitVec 16) : Statement (.srr d n) := Nat.le_succ 1
theorem srw (d : Src) (n : BitVec 16) : Statement (.srw d n) := Nat.le_succ 1
theorem halt : Statement (.halt) := Nat.le_succ 1
theorem wait (a : Src) : Statement (.wait a) := Nat.le_succ 1
theorem venter : Statement (.venter) := Nat.le_succ 1
theorem vexit : Statement (.vexit) := Nat.le_succ 1
theorem vld (d : LReg) (a : Src) (o : BitVec 8) : Statement (.vld d a o) := Nat.le_succ 1
theorem vst (d : LReg) (a : Src) (o : BitVec 8) : Statement (.vst d a o) := Nat.le_succ 1
theorem vadd (t : LTy) (d : LReg) (a : LSrc) (b : LSrc) : Statement (.vadd t d a b) := Nat.le_succ 1
theorem vsub (t : LTy) (d : LReg) (a : LSrc) (b : LSrc) : Statement (.vsub t d a b) := Nat.le_succ 1
theorem vmul (t : LTy) (d : LReg) (a : LSrc) (b : LSrc) : Statement (.vmul t d a b) := Nat.le_succ 1
theorem vfma (t : LTy) (d : LReg) (a : LSrc) (b : LSrc) : Statement (.vfma t d a b) := Nat.le_succ 1
theorem vmin (t : LTy) (d : LReg) (a : LSrc) (b : LSrc) : Statement (.vmin t d a b) := Nat.le_succ 1
theorem vmax (t : LTy) (d : LReg) (a : LSrc) (b : LSrc) : Statement (.vmax t d a b) := Nat.le_succ 1
theorem vcmp (t : LTy) (d : LReg) (a : LSrc) (b : LSrc) : Statement (.vcmp t d a b) := Nat.le_succ 1
theorem vsel (t : LTy) (d : LReg) (a : LSrc) (b : LSrc) : Statement (.vsel t d a b) := Nat.le_succ 1
theorem vand (t : LTy) (d : LReg) (a : LSrc) (b : LSrc) : Statement (.vand t d a b) := Nat.le_succ 1
theorem vor (t : LTy) (d : LReg) (a : LSrc) (b : LSrc) : Statement (.vor t d a b) := Nat.le_succ 1
theorem vxor (t : LTy) (d : LReg) (a : LSrc) (b : LSrc) : Statement (.vxor t d a b) := Nat.le_succ 1
theorem vshf (t : LTy) (d : LReg) (a : LSrc) (b : LSrc) : Statement (.vshf t d a b) := Nat.le_succ 1
theorem vred (t : LTy) (d : LReg) (a : LSrc) (lg : BitVec 4) (op : ScanOp) : Statement (.vred t d a lg op) := Nat.le_succ 1
theorem vscan (t : LTy) (d : LReg) (a : LSrc) (ex : Bool) (lg : BitVec 4) (op : ScanOp) : Statement (.vscan t d a ex lg op) := Nat.le_succ 1
theorem vperm (t : LTy) (d : LReg) (a : LSrc) (b : LSrc) : Statement (.vperm t d a b) := Nat.le_succ 1
theorem vsf (t : LTy) (d : LReg) (a : LSrc) (r : Rm) (fn : BitVec 6) : Statement (.vsf t d a r fn) := Nat.le_succ 1
theorem vcvt (t : LTy) (d : LReg) (a : LSrc) (s : LTy) (r : Rm) (part : BitVec 3) : Statement (.vcvt t d a s r part) := Nat.le_succ 1
theorem vqnt (d : LReg) (a : LSrc) (s : LTy) (r : Rm) (f : Fin 6) : Statement (.vqnt d a s r f) := Nat.le_succ 1
theorem vdq (t : LTy) (d : LReg) (a : LSrc) (r : Rm) (f : Fin 6) : Statement (.vdq t d a r f) := Nat.le_succ 1
theorem vdot (t : LTy) (d : LReg) (a : LReg) (s : LTy) (sat : Bool) : Statement (.vdot t d a s sat) := Nat.le_succ 1
theorem vmma (t : LTy) (d : LReg) (c : BitVec 3) (a : LReg) (b : LReg) : Statement (.vmma t d c a b) := Nat.le_succ 1
theorem vmovg (d : GDst) (a : LReg) (b : Src) : Statement (.vmovg d a b) := Nat.le_succ 1
theorem vmovv (d : LReg) (a : Src) (b : Src) : Statement (.vmovv d a b) := Nat.le_succ 1
theorem mfmt (d : GDst) (a : Src) (c : Clauses) : Statement (.mfmt d a c) := Nat.le_refl 2
theorem pload (d : GDst) (a : Src) (c : Clauses) : Statement (.pload d a c) := Nat.le_refl 2
theorem pswap (d : GDst) (c : Clauses) : Statement (.pswap d c) := Nat.le_refl 2
theorem mpass (d : GDst) (a : Src) (b : Src) (c : Clauses) : Statement (.mpass d a b c) := Nat.le_refl 2
theorem mtran (d : GDst) (a : Src) (b : Src) (c : Clauses) : Statement (.mtran d a b c) := Nat.le_refl 2
theorem mprobe (d : GDst) (c : Clauses) : Statement (.mprobe d c) := Nat.le_refl 2
theorem aclr (d : GDst) (a : Src) (b : Src) (c : Clauses) : Statement (.aclr d a b c) := Nat.le_refl 2
theorem ard (t : LTy) (d : LReg) (a : Src) (x : Bool) (c : Clauses) : Statement (.ard t d a x c) := Nat.le_refl 2
theorem awr (d : GDst) (a : LSrc) (b : Src) (x : Bool) (c : Clauses) : Statement (.awr d a b x c) := Nat.le_refl 2
theorem mstat (d : GDst) (a : Src) (c : Clauses) : Statement (.mstat d a c) := Nat.le_refl 2
theorem cpy (d : GDst) (a : Src) (b : Src) (c : Clauses) : Statement (.cpy d a b c) := Nat.le_refl 2
theorem cpy2d (d : GDst) (a : Src) (b : Src) (c : Clauses) : Statement (.cpy2d d a b c) := Nat.le_refl 2
theorem cpyg (d : GDst) (a : Src) (b : Src) (c : Clauses) : Statement (.cpyg d a b c) := Nat.le_refl 2
theorem stdec (d : GDst) (a : Src) (c : Clauses) : Statement (.stdec d a c) := Nat.le_refl 2
theorem lend (d : GDst) (a : Src) (b : Src) (c : Clauses) : Statement (.lend d a b c) := Nat.le_refl 2
theorem lendGive (d : GDst) (a : Src) (b : Src) (c : Clauses) : Statement (.lendGive d a b c) := Nat.le_refl 2
theorem share (d : GDst) (a : Src) (b : Src) (c : Clauses) : Statement (.share d a b c) := Nat.le_refl 2
theorem split (d : GDst) (a : Src) (b : Src) (c : Clauses) : Statement (.split d a b c) := Nat.le_refl 2
theorem merge (d : GDst) (a : Src) (b : Src) (c : Clauses) : Statement (.merge d a b c) := Nat.le_refl 2
theorem kick (d : GDst) (a : Src) (b : Src) (c : Clauses) : Statement (.kick d a b c) := Nat.le_refl 2
theorem svld (d : SvReg) (a : Src) (o : BitVec 8) : Statement (.svld d a o) := Nat.le_succ 1
theorem svst (d : SvReg) (a : Src) (o : BitVec 8) : Statement (.svst d a o) := Nat.le_succ 1
theorem sgath (t : LTy) (d : SvReg) (a : Src) (i : SvReg) : Statement (.sgath t d a i) := Nat.le_succ 1
theorem sscat (t : LTy) (d : SvReg) (a : Src) (i : SvReg) : Statement (.sscat t d a i) := Nat.le_succ 1
theorem sscan (t : LTy) (d : SvReg) (a : Src) (ex : Bool) (op : ScanOp) (v : SvReg) : Statement (.sscan t d a ex op v) := Nat.le_succ 1
theorem sred (d : GDst) (a : SvReg) (t : LTy) (op : ScanOp) : Statement (.sred d a t op) := Nat.le_succ 1
theorem scmpr (t : LTy) (d : SvReg) (a : SvReg) (m : SvReg) : Statement (.scmpr t d a m) := Nat.le_succ 1
theorem shist (d : Src) (a : SvReg) (b : Src) : Statement (.shist d a b) := Nat.le_succ 1
theorem ssort (t : LTy) (d : SvReg) (k : BitVec 8) (desc : Bool) (j : BitVec 4) : Statement (.ssort t d k desc j) := Nat.le_succ 1
theorem svalu (t : LTy) (op : SvOp) (d : SvReg) (a : SvReg) (b : SvSrc) : Statement (.svalu t op d a b) := Nat.le_succ 1
theorem blkrd (d : GDst) (a : Src) (b : Src) : Statement (.blkrd d a b) := Nat.le_succ 1
theorem blkwr (d : GDst) (a : Src) (b : Src) : Statement (.blkwr d a b) := Nat.le_succ 1
theorem blkred (d : GDst) (a : Src) (b : Src) : Statement (.blkred d a b) := Nat.le_succ 1
theorem lsend (d : GDst) (a : Src) (b : Src) : Statement (.lsend d a b) := Nat.le_succ 1
theorem jrot (d : GDst) (a : Src) : Statement (.jrot d a) := Nat.le_succ 1
theorem gphase (d : GDst) (a : Src) (b : Src) : Statement (.gphase d a b) := Nat.le_succ 1
theorem phq (d : GDst) : Statement (.phq d) := Nat.le_succ 1
theorem svnrm (d : GDst) : Statement (.svnrm d) := Nat.le_succ 1
theorem stwr (d : GDst) (a : Src) (b : Src) : Statement (.stwr d a b) := Nat.le_succ 1
theorem walkReturn (unit : Nat) (asid : Nat) (vpage : Nat) : Statement (.walkReturn unit asid vpage) := Nat.zero_le 2
theorem resultArrival (a : Agent) (ds : List (Nat × Word)) (fl : BitVec 6) (vf : BitVec 6) : Statement (.resultArrival a ds fl vf) := Nat.zero_le 2
theorem fenceEcho (a : Agent) (slice : Nat) : Statement (.fenceEcho a slice) := Nat.zero_le 2
theorem transferComplete (key : Nat) : Statement (.transferComplete key) := Nat.zero_le 2
theorem atomicFill (a : Agent) (loc : Nat) (v : Word) : Statement (.atomicFill a loc v) := Nat.zero_le 2
theorem overflowForward (home : Nat) : Statement (.overflowForward home) := Nat.zero_le 2
theorem hostFillBound (id : Nat) : Statement (.hostFillBound id) := Nat.zero_le 2
theorem engineBusyRetry (e : Nat) : Statement (.engineBusyRetry e) := Nat.zero_le 2
theorem mwaitTimeout (a : Agent) (due : Nat) : Statement (.mwaitTimeout a due) := Nat.zero_le 2
theorem waitTimeout (a : Agent) (due : Nat) : Statement (.waitTimeout a due) := Nat.zero_le 2
theorem strandTimerExpiry (a : Agent) : Statement (.strandTimerExpiry a) := Nat.zero_le 2
theorem asyncTrapEntry (a : Agent) : Statement (.asyncTrapEntry a) := Nat.zero_le 2
theorem longWait (a : Agent) : Statement (.longWait a) := Nat.zero_le 2
theorem reportFill (asid : Nat) (va : Word) (v : Word) : Statement (.reportFill asid va v) := Nat.zero_le 2
theorem leaseGrant (core : Nat) : Statement (.leaseGrant core) := Nat.zero_le 2
theorem wvuComplete (core : Nat) : Statement (.wvuComplete core) := Nat.zero_le 2
theorem meshAccept (tile : Nat) : Statement (.meshAccept tile) := Nat.zero_le 2
theorem ploadDone (tile : Nat) : Statement (.ploadDone tile) := Nat.zero_le 2
theorem pswapEffect (tile : Nat) : Statement (.pswapEffect tile) := Nat.zero_le 2
theorem vectorAccadd (tile : Nat) : Statement (.vectorAccadd tile) := Nat.zero_le 2
theorem passComplete (tile : Nat) : Statement (.passComplete tile) := Nat.zero_le 2
theorem probeSlot (tile : Nat) : Statement (.probeSlot tile) := Nat.zero_le 2
theorem declarationUpdate (tile : Nat) : Statement (.declarationUpdate tile) := Nat.zero_le 2
theorem trimLoop (tile : Nat) : Statement (.trimLoop tile) := Nat.zero_le 2
theorem sensorWitnessTimeout (tile : Nat) (col : Nat) : Statement (.sensorWitnessTimeout tile col) := Nat.zero_le 2
theorem recalibration (tile : Nat) : Statement (.recalibration tile) := Nat.zero_le 2
theorem recalComplete (tile : Nat) : Statement (.recalComplete tile) := Nat.zero_le 2
theorem kickAccept (e : Nat) : Statement (.kickAccept e) := Nat.zero_le 2
theorem copy (e : Nat) : Statement (.copy e) := Nat.zero_le 2
theorem copy2d (e : Nat) : Statement (.copy2d e) := Nat.zero_le 2
theorem gather (e : Nat) : Statement (.gather e) := Nat.zero_le 2
theorem stencilDecomposition (e : Nat) : Statement (.stencilDecomposition e) := Nat.zero_le 2
theorem fabricTokenRequest (e : Nat) : Statement (.fabricTokenRequest e) := Nat.zero_le 2
theorem linkMessageSend (e : Nat) : Statement (.linkMessageSend e) := Nat.zero_le 2
theorem noroutine (e : Nat) : Statement (.noroutine e) := Nat.zero_le 2
theorem endOp (e : Nat) (status : Nat) (detail : Nat) : Statement (.endOp e status detail) := Nat.zero_le 2
theorem hostApertureCompletion (e : Nat) (err : Bool) (va : Word) : Statement (.hostApertureCompletion e err va) := Nat.zero_le 2
theorem errorConsumed (a : Agent) (va : Word) : Statement (.errorConsumed a va) := Nat.zero_le 2
theorem engineError (e : Nat) : Statement (.engineError e) := Nat.zero_le 2
theorem deviceFault (cause : Nat) : Statement (.deviceFault cause) := Nat.zero_le 2
theorem opPointSwitch (quad : Nat) : Statement (.opPointSwitch quad) := Nat.zero_le 2
theorem deepGateEntry (quad : Nat) : Statement (.deepGateEntry quad) := Nat.zero_le 2
theorem wakeEvent (quad : Nat) : Statement (.wakeEvent quad) := Nat.zero_le 2
theorem wakeComplete (quad : Nat) : Statement (.wakeComplete quad) := Nat.zero_le 2
theorem fabricResend (dst : Nat) (tc : Nat) : Statement (.fabricResend dst tc) := Nat.zero_le 2
theorem peerDeclaredLost (chip : Nat) : Statement (.peerDeclaredLost chip) := Nat.zero_le 2
theorem acceptanceWindowEnd (tv : Nat) : Statement (.acceptanceWindowEnd tv) := Nat.zero_le 2
theorem hostPortBusyRetry (id : Nat) : Statement (.hostPortBusyRetry id) := Nat.zero_le 2
theorem reset : Statement (.reset) := Nat.zero_le 2
theorem tlbinvPage : Statement (.tlbinvPage) := Nat.zero_le 2
theorem tlbinvAsid : Statement (.tlbinvAsid) := Nat.zero_le 2
theorem tlbinvNonglobal : Statement (.tlbinvNonglobal) := Nat.zero_le 2
theorem tlbinvAll : Statement (.tlbinvAll) := Nat.zero_le 2
theorem invalidationComplete : Statement (.invalidationComplete) := Nat.zero_le 2
theorem icinvLine : Statement (.icinvLine) := Nat.zero_le 2
theorem icinvAll : Statement (.icinvAll) := Nat.zero_le 2
theorem icinvComplete : Statement (.icinvComplete) := Nat.zero_le 2
theorem create : Statement (.create) := Nat.zero_le 2
theorem destroy : Statement (.destroy) := Nat.zero_le 2
theorem reclaim : Statement (.reclaim) := Nat.zero_le 2
theorem seize : Statement (.seize) := Nat.zero_le 2
theorem htBadop : Statement (.htBadop) := Nat.zero_le 2
theorem placement : Statement (.placement) := Nat.zero_le 2
theorem tduAdmit : Statement (.tduAdmit) := Nat.zero_le 2
theorem preempt : Statement (.preempt) := Nat.zero_le 2
theorem haltStart : Statement (.haltStart) := Nat.zero_le 2
theorem shadowSwap : Statement (.shadowSwap) := Nat.zero_le 2
theorem resume : Statement (.resume) := Nat.zero_le 2
theorem save : Statement (.save) := Nat.zero_le 2
theorem restore : Statement (.restore) := Nat.zero_le 2
theorem release : Statement (.release) := Nat.zero_le 2
theorem sizeq : Statement (.sizeq) := Nat.zero_le 2
theorem badcmd : Statement (.badcmd) := Nat.zero_le 2
theorem dumpComplete : Statement (.dumpComplete) := Nat.zero_le 2
theorem watchdogExpiry : Statement (.watchdogExpiry) := Nat.zero_le 2
theorem mgmtTakeover : Statement (.mgmtTakeover) := Nat.zero_le 2
theorem flogBaseWrite : Statement (.flogBaseWrite) := Nat.zero_le 2
theorem refillEpoch : Statement (.refillEpoch) := Nat.zero_le 2
theorem healthCertificate : Statement (.healthCertificate) := Nat.zero_le 2
theorem pldmFileTransfer : Statement (.pldmFileTransfer) := Nat.zero_le 2
theorem p2pflush : Statement (.p2pflush) := Nat.zero_le 2
theorem getVersion : Statement (.getVersion) := Nat.zero_le 2
theorem getCapabilities : Statement (.getCapabilities) := Nat.zero_le 2
theorem negotiateAlgorithms : Statement (.negotiateAlgorithms) := Nat.zero_le 2
theorem getDigests : Statement (.getDigests) := Nat.zero_le 2
theorem getCertificate : Statement (.getCertificate) := Nat.zero_le 2
theorem hostLinkTimeout : Statement (.hostLinkTimeout) := Nat.zero_le 2
theorem cxlReset : Statement (.cxlReset) := Nat.zero_le 2
theorem commit : Statement (.commit) := Nat.zero_le 2
theorem notificationFillRetry : Statement (.notificationFillRetry) := Nat.zero_le 2
theorem linkEnable : Statement (.linkEnable) := Nat.zero_le 2
theorem linkDisable : Statement (.linkDisable) := Nat.zero_le 2
theorem retrain : Statement (.retrain) := Nat.zero_le 2
theorem lock : Statement (.lock) := Nat.zero_le 2
theorem train : Statement (.train) := Nat.zero_le 2
theorem up : Statement (.up) := Nat.zero_le 2
theorem failed : Statement (.failed) := Nat.zero_le 2
theorem sensorSample : Statement (.sensorSample) := Nat.zero_le 2
theorem patrolScrub : Statement (.patrolScrub) := Nat.zero_le 2
theorem reinitialisation : Statement (.reinitialisation) := Nat.zero_le 2
theorem ageingSample : Statement (.ageingSample) := Nat.zero_le 2
theorem powerCapSet : Statement (.powerCapSet) := Nat.zero_le 2
theorem pldmFirmwareUpdate : Statement (.pldmFirmwareUpdate) := Nat.zero_le 2
theorem laserModuleFailure : Statement (.laserModuleFailure) := Nat.zero_le 2
theorem tjTrip : Statement (.tjTrip) := Nat.zero_le 2
theorem modeOrCellFailure : Statement (.modeOrCellFailure) := Nat.zero_le 2
theorem coreFailure : Statement (.coreFailure) := Nat.zero_le 2
theorem dieToDieWireFailure : Statement (.dieToDieWireFailure) := Nat.zero_le 2
theorem laserModuleInsertion : Statement (.laserModuleInsertion) := Nat.zero_le 2
theorem channelPatch : Statement (.channelPatch) := Nat.zero_le 2
theorem linkLevelReplay : Statement (.linkLevelReplay) := Nat.zero_le 2
theorem memRd : Statement (.memRd) := Nat.zero_le 2
theorem memRdData : Statement (.memRdData) := Nat.zero_le 2
theorem memWr : Statement (.memWr) := Nat.zero_le 2
theorem memWrPtl : Statement (.memWrPtl) := Nat.zero_le 2
theorem dumpWindowRead : Statement (.dumpWindowRead) := Nat.zero_le 2
theorem tokenPortTret : Statement (.tokenPortTret) := Nat.zero_le 2
theorem tokenPortUnshr : Statement (.tokenPortUnshr) := Nat.zero_le 2
theorem tokenPortTqry : Statement (.tokenPortTqry) := Nat.zero_le 2
theorem tokenPortBadop : Statement (.tokenPortBadop) := Nat.zero_le 2
theorem bar4Write : Statement (.bar4Write) := Nat.zero_le 2
theorem bar4Read : Statement (.bar4Read) := Nat.zero_le 2
theorem challenge : Statement (.challenge) := Nat.zero_le 2
theorem getMeasurements : Statement (.getMeasurements) := Nat.zero_le 2
theorem write : Statement (.write) := Nat.zero_le 2
theorem ack : Statement (.ack) := Nat.zero_le 2
theorem nak : Statement (.nak) := Nat.zero_le 2
theorem tokreq : Statement (.tokreq) := Nat.zero_le 2
theorem tokrsp : Statement (.tokrsp) := Nat.zero_le 2
theorem migrPacket : Statement (.migrPacket) := Nat.zero_le 2
theorem migrrsp : Statement (.migrrsp) := Nat.zero_le 2
theorem linkmsg : Statement (.linkmsg) := Nat.zero_le 2
theorem reservedTypePacket : Statement (.reservedTypePacket) := Nat.zero_le 2

end Sys2Proof.Laws.Encoding
end

