-- ==== Sys2Proof/Tests/Slice0.lean ====
section
/-! SUPPORT. Tests of the model's own: each check of well-formedness refuses an ill-formed term; the words of spec/ decode as they should; one
step on small states, with results worked by hand from the rules; and for every statement with hypotheses a state that meets them. -/

namespace Sys2Proof.Tests

open Sys2Proof.Machine

-- theorem by theorem: each evaluation is long enough to be checked alone
set_option Elab.async false

/-! ## Small states -/

/-- A strand of a class, ready to run at an address that it may fetch from, on an otherwise reset machine. -/
def ready (c : Cls) : State := { placeWord State.reset c [] with cur := agentFor c }

/-- Registers of the executing strand. -/
def withRegs (s : State) (rs : List (Nat × Word)) : State := modStrand s s.cur fun r => rs.foldl (fun r x => r.setReg x.1 x.2) r

/-- STR registers of the executing strand. -/
def withStr (s : State) (f : StrRegs → StrRegs) : State := modStrand s s.cur fun r => { r with str := f r.str }

/-- A region. -/
def withEntry (s : State) (k : Nat) (e : Entry) : State := { s with entries := mset s.entries k e }

/-- The executing strand's core. -/
def withCore (s : State) (f : Core → Core) : State := modCore s (coreKey s.cur) f

/-- A compute strand with an EXCL region at 0x100000 and a SYNC region at 0x100100, which g1 and g2 address. -/
def c0 : State := withRegs (withEntry (ready .compute) 1 { base := 0x1001, len := 1, holder := 0x10000001, state := 3 })
  [(1, 0x100040), (2, 0x100140), (3, 7), (4, 0xFFFFFFFFFFFFFFFB)]

/-- The same strand with the lease of its quad's vector unit and its scratchpad as an EXCL region. -/
def v0 : State := withRegs (withEntry (withCore c0 fun c => { c with lease := some 0 }) 65536 { base := winBase / 256, len := 0x8000, holder := 0x10000001, state := 1 })
  [(5, word winBase)]

/-- A stack strand with an EXCL region at 0x100000. -/
def k0 : State := withRegs (ready .stack) [(1, 0x100000), (2, word winBase), (3, 7)]

/-- A copy engine's hart whose quad's scratchpad is an EXCL region of its own. -/
def e0 : State := withRegs (withEntry (ready .copyE) 65536 { base := winBase / 256, len := 0x8000, holder := 0x30000000, state := 1 }) [(1, word winBase), (2, 0x10200)]

/-- A management strand. -/
def m0 : State := withRegs (ready .mgmt) [(1, 5)]

/-- The state after an instruction or event. -/
def after (i : Instr) (s : State) : State := match exec i s with | .next t => t | _ => s

/-! ## Hypotheses that a computation decides -/

theorem full_of {s : State} {us : List Use} (h : (!(us.any fun u => u.beyond (partSize s.cur (me s))) && (emptyUses (me s) us).isEmpty) = true) : Full s us := by
  simp only [Bool.and_eq_true, Bool.not_eq_true', List.isEmpty_iff] at h
  exact h

theorem open_of {s : State} {us : List Use} (h : (!(us.any fun u => u.beyond (partSize s.cur (me s))) && (emptyUses (me s) us).isEmpty && (me s).fence.isNone) = true) :
    Open s us := by
  simp only [Bool.and_eq_true, Option.isNone_iff_eq_none] at h
  exact ⟨full_of (by simp only [Bool.and_eq_true]; exact h.1), h.2⟩

theorem granted_of {s : State} {m : Mode} {va : Word} {n : Nat} {ps : List Part}
    (h : (access s (myself s) (myTlb s) m va.toNat n).toOption = some ps) : Granted s m va n ps := by
  unfold Granted
  cases h' : access s (myself s) (myTlb s) m va.toNat n with
  | error e => rw [h'] at h; exact nomatch h
  | ok q => rw [h'] at h; exact congrArg Except.ok (Option.some.inj h)

theorem vready_of {s : State} {us : List Use} (h : (holdsLease s && (!(us.any fun u => u.beyond (partSize s.cur (me s))) && (emptyUses (me s) us).isEmpty
    && (me s).fence.isNone) && decide ((coreOf s (coreKey s.cur)).dispatch.length < 16)) = true) : VReady s us := by
  simp only [Bool.and_eq_true, decide_eq_true_eq] at h
  exact ⟨h.1.1, open_of (by simp only [Bool.and_eq_true]; exact h.1.2), h.2⟩

theorem ordered_of {s : State} (h : ((me s).fence.isNone && !earlierPending s s.cur) = true) : Ordered s := by
  simpa only [Ordered, Bool.and_eq_true, Bool.not_eq_true', Option.isNone_iff_eq_none] using h

theorem waited_none (s : State) : Waited s noClauses := fun _ _ h => nomatch h


/-! ## Well-formedness: each check refuses an ill-formed term -/

theorem test_wellFormed_accepts : ∀ i ∈ ([.sel (.g 3) (.g 1) (.g 2), .fcvt .rn 3 (.g 1) .bf .f, .ffun .f 3 (.g 1) .rz 11, .vadd .bf 1 (.lv 2) (.lv 3), .vshf .i16 1 (.lv 2) (.lv 3),
    .vred .bf 2 (.lv 1) 2 .add, .vsf .bf 2 (.lv 0) .rn 11, .vcvt .f 1 (.lv 2) .bf .rn 1, .vqnt 4 (.lv 3) .bf .rn 0, .vdq .f 4 (.lv 3) .rn 0, .vdot .i32 1 2 .i8 true, .vmma .f 1 4 2 3,
    .mpass (.g 5) (.g 6) (.g 7) ⟨none, some (4, 1)⟩, .sgath .f 1 (.g 2) 3, .sred (.g 5) 0 .i32 .add, .ssort .f 1 5 true 4, .svalu .e4m3 .xor 1 2 (.sv 3)] : List Instr),
    wellFormed i = true := by decide +kernel

theorem test_wellFormed_refuses_discard : ∀ i ∈ ([.sel .discard (.g 1) (.g 2), .bfi .discard (.g 1) (.g 2), .acas .discard (.g 1) 0, .rqtake .discard, .rqtakeW .discard] : List Instr),
    wellFormed i = false := by decide +kernel

theorem test_wellFormed_refuses_conversion : ∀ i ∈ ([.fcvt .rn 3 (.g 1) .e2m1 .f, .fcvt .rn 3 (.g 1) .f .mxi8, .ffun .f 3 (.g 1) .rn 12, .ffun .f 3 (.g 1) .rz 2] : List Instr),
    wellFormed i = false := by decide +kernel

theorem test_wellFormed_refuses_vector_types : ∀ i ∈ ([.vadd .e4m3 1 (.lv 2) (.lv 3), .vsub .e5m2 1 (.lv 2) (.lv 3), .vmul .e4m3 1 (.lv 2) (.lv 3), .vfma .e4m3 1 (.lv 2) (.lv 3),
    .vmin .e4m3 1 (.lv 2) (.lv 3), .vmax .e5m2 1 (.lv 2) (.lv 3), .vshf .f 1 (.lv 2) (.lv 3), .vsf .i32 1 (.lv 2) .rn 5, .vqnt 4 (.lv 3) .i8 .rn 0, .vdq .i16 4 (.lv 3) .rn 0] : List Instr),
    wellFormed i = false := by decide +kernel

theorem test_wellFormed_refuses_vector_controls : ∀ i ∈ ([.vred .f 2 (.lv 1) 0 .add, .vred .f 2 (.lv 1) 8 .add, .vscan .e4m3 2 (.lv 1) true 2 .add, .vsf .f 1 (.lv 2) .rz 1,
    .vcvt .f 1 (.lv 2) .bf .rn 2, .vcvt .bf 1 (.lv 2) .h .rn 1, .vdot .f 1 2 .bf true, .vdot .i32 1 2 .bf false, .vmma .i32 1 4 2 3, .vmma .f 1 7 2 3] : List Instr),
    wellFormed i = false := by decide +kernel

theorem test_wellFormed_refuses_clauses : ∀ i ∈ ([.mfmt (.g 5) (.g 6) ⟨none, some (4, 0)⟩, .ard .bf 8 (.g 9) false ⟨none, some (4, 0)⟩, .lend (.g 5) (.g 6) (.g 7) ⟨none, some (0, 0)⟩,
    .cpy (.g 5) (.g 6) (.g 7) ⟨some (1, 1), some (4, 0)⟩] : List Instr), wellFormed i = false := by decide +kernel

theorem test_wellFormed_refuses_stack : ∀ i ∈ ([.sgath .bf 1 (.g 2) 3, .sscat .h 1 (.g 2) 3, .sscan .e4m3 1 (.g 2) false .add 3, .sred (.g 5) 0 .e5m2 .add, .ssort .f 1 0 true 0, .ssort .f 1 6 true 4,
    .ssort .f 1 3 true 3, .svalu .e4m3 .add 1 2 (.sv 3)] : List Instr), wellFormed i = false := by decide +kernel

/-! ## Decoding: words that the spec writes out in its examples (spec/10 to spec/14, spec/18, spec/19) -/

/-- What words decode to, with nothing left over. -/
def reads (c : Cls) (ws : List Nat) : Option Instr :=
  match decode c (ws.flatMap fun w => bytes32 (BitVec.ofNat 32 w)) with
  | .ok (i, []) => some i
  | _ => none

theorem decode_spec_examples : ∀ p ∈ ([
    (.compute, [0x63010202], .ld64 1 (.g 2) 2), (.compute, [0x498301B5], .fmul .rz .f 3 (.g 1) (.k 53)), (.compute, [0x69030400], .stf (.g 3) (.g 4) 0),
    (.compute, [0xC3050607, 0x03020913], .mpass (.g 5) (.g 6) (.g 7) ⟨some (3, 2), some (9, 1)⟩), (.compute, [0x8105FFFB], .bnz (.g 5) 0xFFFB), (.compute, [0x88100202], .rep 1 2 2),
    (.compute, [0x24050001], .li (.g 5) 1), (.compute, [0x26052345], .lsi (.g 5) 0x2345), (.compute, [0x5F81020B], .ffun .f 1 (.g 2) .rn 11),
    (.compute, [0x50830102], .fma .rn .f 3 (.g 1) (.g 2)), (.compute, [0x5804039B], .fcvt .rn 4 (.g 3) .f .bf), (.compute, [0x48850102], .fmul .rn .f 5 (.g 1) (.g 2)),
    (.compute, [0x40850503], .fadd .rn .f 5 (.g 5) (.g 3)), (.compute, [0x68010300], .lds (.g 1) (.g 3) 0), (.compute, [0x628402FE], .ld32 true 4 (.g 2) 0xFE),
    (.compute, [0x65050603], .st16 (.g 5) (.g 6) 3), (.compute, [0x6BC00300], .ste (.g 3) 0), (.compute, [0x6C080301], .aadd (.g 8) (.g 3) 1), (.compute, [0x720A0300], .acas (.g 10) (.g 3) 0),
    (.compute, [0x7309C003], .fenceS (.g 9)), (.compute, [0x74010203], .marm (.g 1) (.g 2) 3), (.compute, [0x7401C007], .marmDis (.g 1) 3), (.compute, [0x76018382], .semw (.g 1) (.k 3) (.k 2)),
    (.compute, [0x9A0304C0], .gbar (.g 3) (.g 4)), (.compute, [0xD4020405, 0x00000916], .lendGive (.g 2) (.g 4) (.g 5) ⟨none, some (9, 1)⟩),
    (.compute, [0xB0220108], .vred .bf 2 (.lv 1) 2 .add), (.compute, [0xC60A830B, 0], .aclr (.g 10) (.k 3) (.g 11) noClauses), (.compute, [0xC00102C0, 0], .mfmt (.g 1) (.g 2) noClauses),
    (.compute, [0x790D84C0], .semset (.g 13) (.k 4) .zero), (.compute, [0xA0C0C0C0], .venter), (.compute, [0xC72809C0, 0x04010001], .ard .bf 8 (.g 9) false ⟨some (4, 1), none⟩),
    (.compute, [0xB90C0880], .vmovg (.g 12) 8 (.k 0)), (.compute, [0xA1C0C0C0], .vexit), (.compute, [0x92C0C0C0], .yield), (.compute, [0x9CC0C0C0], .rft), (.mgmt, [0x9FC0C000], .halt)]
    : List (Cls × List Nat × Instr)), reads p.1 p.2.1 = some p.2.2 := by decide +kernel

theorem decode_spec_programs : ∀ p ∈ ([
    (.compute, [0x9D040006], .srr (.g 4) 6), (.compute, [0x9EAC001B], .srw (.k 44) 0x1B), (.compute, [0x9EC00008], .srw .zero 8), (.compute, [0x9624C001], .rqtakeW (.g 36)),
    (.compute, [0x95232425], .rqput (.g 35) (.g 36) (.g 37)), (.compute, [0x67072107], .st64 (.g 7) (.g 33) 7), (.stack, [0x69C10A08], .stf (.special .sid) (.g 10) 8),
    (.stack, [0x680B0A0C], .lds (.g 11) (.g 10) 12), (.stack, [0xE0000100], .svld 0 (.g 1) 0), (.stack, [0xE1000200], .svst 0 (.g 2) 0), (.stack, [0xE50500A0], .sred (.g 5) 0 .i32 .add),
    (.stack, [0x71070A04], .axch (.g 7) (.g 10) 4), (.stack, [0xE4A10680], .sscan .i32 1 (.g 6) true .add 0), (.compute, [0xC10A04C0, 0], .pload (.g 10) (.g 4) noClauses),
    (.compute, [0xC20BC0C0, 0], .pswap (.g 11) noClauses), (.compute, [0x7B130481], .unshr (.g 19) (.g 4) (.k 1)), (.compute, [0xB322000B], .vsf .bf 2 (.lv 0) .rn 11),
    (.compute, [0xA6230102], .vmul .bf 3 (.lv 1) (.lv 2)), (.compute, [0xB5040320], .vqnt 4 (.lv 3) .bf .rn 0), (.compute, [0xA3041600], .vst 4 (.g 22) 0),
    (.compute, [0xD40A0602, 0], .lend (.g 10) (.g 6) (.g 2) noClauses), (.compute, [0xD10C05C0, 0], .cpy2d (.g 12) (.g 5) .zero noClauses), (.mgmt, [0x0F0A0B04], .shr (.g 10) (.g 11) (.g 4)),
    (.mgmt, [0x9D072043], .srr (.g 7) 0x2043), (.mgmt, [0x2E0A1A40], .slti (.g 10) 0x1A40), (.mgmt, [0x67C50A00], .st64 (.special .time) (.g 10) 0), (.mgmt, [0x9FC00A01], .wait (.g 10)),
    (.mgmt, [0x9E056340], .srw (.g 5) 0x6340), (.mgmt, [0x1D0B070A], .bfx (.g 11) (.g 7) (.g 10)), (.mgmt, [0x0D0C020B], .andn (.g 12) (.g 2) (.g 11)), (.mgmt, [0x1C0D0CC0], .popc (.g 13) (.g 12)),
    (.mgmt, [0x1B0F0EC0], .ctz (.g 15) (.g 14))] : List (Cls × List Nat × Instr)), reads p.1 p.2.1 = some p.2.2 := by decide +kernel

/-! ## Decoding: for each row of the table one word, its fields composed by the encoding tables of spec/10 to spec/14 -/

theorem decode_integer : ∀ p ∈ ([
    (.compute, [0x01266587], .add (.g 38) (.g 101) (.k 7)),
    (.compute, [0x026F6B6C], .sub (.g 111) (.g 107) (.g 108)),
    (.compute, [0x03C0B2C5], .mul .discard (.k 50) (.special .time)),
    (.compute, [0x041E975F], .mulh (.g 30) (.k 23) (.g 95)),
    (.compute, [0x0534C6AE], .mulhu (.g 52) (.special .pc) (.k 46)),
    (.compute, [0x063EC957], .div (.g 62) (.special .priv) (.g 87)),
    (.compute, [0x076BC36B], .divu (.g 107) (.special .lcore) (.g 107)),
    (.compute, [0x0850CAC0], .rem (.g 80) (.special .repj) .zero),
    (.compute, [0x0910CBC0], .remu (.g 16) (.special .psize) .zero),
    (.compute, [0x0A765AC0], .and (.g 118) (.g 90) .zero),
    (.compute, [0x0B3F65C0], .or (.g 63) (.g 101) .zero),
    (.compute, [0x0CC0CCB0], .xor .discard (.special .ntile) (.k 48)),
    (.compute, [0x0D26C12E], .andn (.g 38) (.special .sid) (.g 46)),
    (.compute, [0x0E5E51C7], .shl (.g 94) (.g 81) (.special .npc)),
    (.compute, [0x0F7B6635], .shr (.g 123) (.g 102) (.g 53)),
    (.compute, [0x100D8019], .sar (.g 13) (.k 0) (.g 25)),
    (.compute, [0x1135C058], .ror (.g 53) .zero (.g 88)),
    (.compute, [0x127CC0C0], .min (.g 124) .zero .zero),
    (.compute, [0x137AC0C0], .max (.g 122) .zero .zero),
    (.compute, [0x14C0C0C0], .minu .discard .zero .zero),
    (.compute, [0x1531B333], .maxu (.g 49) (.k 51) (.g 51)),
    (.compute, [0x16C0BCC0], .seq .discard (.k 60) .zero),
    (.compute, [0x17C05DC0], .slt .discard (.g 93) .zero),
    (.compute, [0x18007AB1], .sltu (.g 0) (.g 122) (.k 49)),
    (.compute, [0x197AC0C8], .sel (.g 122) .zero (.special .asid)),
    (.compute, [0x1A1528C0], .clz (.g 21) (.g 40)),
    (.compute, [0x1B77C0C0], .ctz (.g 119) .zero),
    (.compute, [0x1C2105C0], .popc (.g 33) (.g 5)),
    (.compute, [0x1D236F9B], .bfx (.g 35) (.g 111) (.k 27)),
    (.compute, [0x1E5342CB], .bfi (.g 83) (.g 66) (.special .psize)),
    (.compute, [0x1FC021C0], .brev .discard (.g 33))] : List (Cls × List Nat × Instr)), reads p.1 p.2.1 = some p.2.2 := by decide +kernel

theorem decode_saturating_and_immediate : ∀ p ∈ ([
    (.compute, [0x20C08024], .adds .discard (.k 0) (.g 36)),
    (.compute, [0x21537B3F], .subs (.g 83) (.g 123) (.g 63)),
    (.compute, [0x2273C0C8], .addsu (.g 115) .zero (.special .asid)),
    (.compute, [0x233F99C7], .subsu (.g 63) (.k 25) (.special .npc)),
    (.compute, [0x243D6DA8], .li (.g 61) 28072),
    (.compute, [0x254DC8B1], .liz (.g 77) 51377),
    (.compute, [0x2627F084], .lsi (.g 39) 61572),
    (.compute, [0x275D249B], .addi (.g 93) 9371),
    (.compute, [0x2823F7B2], .andi (.g 35) 63410),
    (.compute, [0x291865F5], .ori (.g 24) 26101),
    (.compute, [0x2AC029AD], .xori .discard 10669),
    (.compute, [0x2BC00036], .shli .discard 54),
    (.compute, [0x2C6E0021], .shri (.g 110) 33),
    (.compute, [0x2D6B000D], .sari (.g 107) 13),
    (.compute, [0x2E17B8DF], .slti (.g 23) 47327),
    (.compute, [0x2FC0C0C0], .nop)] : List (Cls × List Nat × Instr)), reads p.1 p.2.1 = some p.2.2 := by decide +kernel

theorem decode_packed : ∀ p ∈ ([
    (.compute, [0x305675C0], .paddI8 (.g 86) (.g 117) .zero),
    (.compute, [0x31101CA2], .paddI16 (.g 16) (.g 28) (.k 34)),
    (.compute, [0x3221A1C0], .paddI32 (.g 33) (.k 33) .zero),
    (.compute, [0x342E6CA1], .psubI8 (.g 46) (.g 108) (.k 33)),
    (.compute, [0x351FC690], .psubI16 (.g 31) (.special .pc) (.k 16)),
    (.compute, [0x36C0A1C0], .psubI32 .discard (.k 33) .zero),
    (.compute, [0x3834B9C0], .paddsI8 (.g 52) (.k 57) .zero),
    (.compute, [0x3904C4CB], .paddsI16 (.g 4) (.special .ltile) (.special .psize)),
    (.compute, [0x3A64C0C0], .paddsI32 (.g 100) .zero .zero),
    (.compute, [0x3CC0C06E], .psubsI8 .discard .zero (.g 110)),
    (.compute, [0x3D61C0BA], .psubsI16 (.g 97) .zero (.k 58)),
    (.compute, [0x3E00C084], .psubsI32 (.g 0) .zero (.k 4))] : List (Cls × List Nat × Instr)), reads p.1 p.2.1 = some p.2.2 := by decide +kernel

theorem decode_floating : ∀ p ∈ ([
    (.compute, [0x4200C247], .fadd .ru .d 0 (.special .ctx) (.g 71)),
    (.compute, [0x449624C0], .fsub .rn .f 22 (.g 36) .zero),
    (.compute, [0x4927CCA4], .fmul .rz .d 39 (.special .ntile) (.k 36)),
    (.compute, [0x4CA304C0], .fdiv .rn .f 35 (.g 4) .zero),
    (.compute, [0x50F382C1], .fma .rn .f 115 (.k 2) (.special .sid)),
    (.compute, [0x5410C0C0], .fsqrt .rn .d 16 .zero),
    (.compute, [0x5934C817], .fcvt .rz 52 (.special .asid) .i16 .n64),
    (.compute, [0x5C8B89C0], .fmin .f 11 (.k 9) .zero),
    (.compute, [0x5D03C0CB], .fmax .d 3 .zero (.special .psize)),
    (.compute, [0x5EC976C2], .fcmp .f 73 (.g 118) (.special .ctx)),
    (.compute, [0x5F4AC986], .ffun .d 74 (.special .priv) .ru 6)] : List (Cls × List Nat × Instr)), reads p.1 p.2.1 = some p.2.2 := by decide +kernel

theorem decode_memory : ∀ p ∈ ([
    (.compute, [0x6013C0F4], .ld8 false 19 .zero 244),
    (.compute, [0x61A1C03C], .ld16 true 33 .zero 60),
    (.compute, [0x62FC64F4], .ld32 true 124 (.g 100) 244),
    (.compute, [0x637DB36B], .ld64 125 (.k 51) 107),
    (.compute, [0x6458C0D7], .st8 (.g 88) .zero 215),
    (.compute, [0x65654A65], .st16 (.g 101) (.g 74) 101),
    (.compute, [0x66C6460E], .st32 (.special .pc) (.g 70) 14),
    (.compute, [0x67C0C0C9], .st64 .zero .zero 201),
    (.compute, [0x68C0B3B9], .lds .discard (.k 51) 185),
    (.compute, [0x69CCC07D], .stf (.special .ntile) .zero 125),
    (.compute, [0x6A20C049], .ldp (.g 32) .zero 73),
    (.compute, [0x6BC0C068], .ste .zero 104),
    (.compute, [0x6C4DB2A5], .aadd (.g 77) (.k 50) 165),
    (.compute, [0x6D35C0C3], .aand (.g 53) .zero 195),
    (.compute, [0x6E239F58], .aor (.g 35) (.k 31) 88),
    (.compute, [0x6F51AFE4], .amin (.g 81) (.k 47) 228),
    (.compute, [0x7069B461], .amax (.g 105) (.k 52) 97),
    (.compute, [0x710FC021], .axch (.g 15) .zero 33),
    (.compute, [0x7237C467], .acas (.g 55) (.special .ltile) 103)] : List (Cls × List Nat × Instr)), reads p.1 p.2.1 = some p.2.2 := by decide +kernel

theorem decode_order_and_tokens : ∀ p ∈ ([
    (.compute, [0x736EC000], .fenceQ (.g 110)),
    (.compute, [0x73C0C001], .fenceT .discard),
    (.compute, [0x73C0C002], .fenceD .discard),
    (.compute, [0x73C0C003], .fenceS .discard),
    (.compute, [0x7408CA00], .marm (.g 8) (.special .repj) 0),
    (.compute, [0x7477C007], .marmDis (.g 119) 3),
    (.compute, [0x751B39C0], .mwait (.g 27) (.g 57)),
    (.compute, [0x76C07500], .semw .discard (.g 117) (.g 0)),
    (.compute, [0x774DC9C0], .semsig (.g 77) (.special .priv) .zero),
    (.compute, [0x783163C0], .semrd (.g 49) (.g 99)),
    (.compute, [0x794DA39E], .semset (.g 77) (.k 35) (.k 30)),
    (.compute, [0x7A6987C0], .tret (.g 105) (.k 7)),
    (.compute, [0x7B6BC45E], .unshr (.g 107) (.special .ltile) (.g 94)),
    (.compute, [0x7C6B5CC0], .tqry (.g 107) (.g 92))] : List (Cls × List Nat × Instr)), reads p.1 p.2.1 = some p.2.2 := by decide +kernel

theorem decode_control_and_strands : ∀ p ∈ ([
    (.compute, [0x80C4F849], .bez (.special .ltile) 63561),
    (.compute, [0x81A77712], .bnz (.k 39) 30482),
    (.compute, [0x8238F3B2], .bltz (.g 56) 62386),
    (.compute, [0x83C46AC3], .bgez (.special .ltile) 27331),
    (.compute, [0x840E3684], .bgtz (.g 14) 13956),
    (.compute, [0x8506B5BA], .blez (.g 6) 46522),
    (.compute, [0x8664731C], .call (.g 100) 29468),
    (.compute, [0x87C08EC0], .jr .discard (.k 14)),
    (.compute, [0x88630E18], .rep 6 782 24),
    (.compute, [0x9077CBAA], .spawn (.g 119) (.special .psize) (.k 42)),
    (.compute, [0x91C0C0C0], .exit .zero),
    (.compute, [0x92C0C0C0], .yield),
    (.compute, [0x936BC04F], .tbind (.g 107) .zero (.g 79)),
    (.compute, [0x9432C0C0], .tunb (.g 50) .zero),
    (.compute, [0x9579C4C1], .rqput (.g 121) (.special .ltile) (.special .sid)),
    (.compute, [0x9610C000], .rqtake (.g 16)),
    (.compute, [0x960FC001], .rqtakeW (.g 15)),
    (.compute, [0x9710C0C0], .migr (.g 16) .zero .zero),
    (.compute, [0x98C04CC0], .join .discard (.g 76)),
    (.compute, [0x993BCCC0], .leave (.g 59) (.special .ntile)),
    (.compute, [0x9AC0C7C0], .gbar .discard (.special .npc)),
    (.compute, [0x9BC021C0], .trap (.g 33)),
    (.compute, [0x9CC0C0C0], .rft),
    (.compute, [0x9DC0BD0E], .srr .discard 48398),
    (.compute, [0x9E9353EB], .srw (.k 19) 21483),
    (.compute, [0x9FC0C000], .halt),
    (.compute, [0x9FC05101], .wait (.g 81))] : List (Cls × List Nat × Instr)), reads p.1 p.2.1 = some p.2.2 := by decide +kernel

theorem decode_long_vectors : ∀ p ∈ ([
    (.compute, [0xA0C0C0C0], .venter),
    (.compute, [0xA1C0C0C0], .vexit),
    (.compute, [0xA20CC411], .vld 12 (.special .ltile) 17),
    (.compute, [0xA302C3E3], .vst 2 (.special .lcore) 227),
    (.compute, [0xA40410BF], .vadd .f 4 (.lv 16) (.k 63)),
    (.compute, [0xA56B31C4], .vsub .i8 11 (.g 17) (.special .ltile)),
    (.compute, [0xA6124317], .vmul .f 18 (.g 35) (.lv 23)),
    (.compute, [0xA76F0B6A], .vfma .i8 15 (.lv 11) (.g 74)),
    (.compute, [0xA819C08C], .vmin .f 25 .zero (.k 12)),
    (.compute, [0xA962064F], .vmax .i8 2 (.lv 6) (.g 47)),
    (.compute, [0xAA27CCAF], .vcmp .bf 7 (.special .ntile) (.k 47)),
    (.compute, [0xAB3C103B], .vsel .bf 28 (.lv 16) (.g 27)),
    (.compute, [0xAC490221], .vand .h 9 (.lv 2) (.g 1)),
    (.compute, [0xADB70BBF], .vor .i32 23 (.lv 11) (.k 63)),
    (.compute, [0xAE64B209], .vxor .i8 4 (.k 50) (.lv 9)),
    (.compute, [0xAF79A455], .vshf .i8 25 (.k 36) (.g 53)),
    (.compute, [0xB0B65509], .vred .i32 22 (.g 53) 2 .min),
    (.compute, [0xB1B90D45], .vscan .i32 25 (.lv 13) true 1 .min),
    (.compute, [0xB2971D92], .vperm .i16 23 (.lv 29) (.k 18)),
    (.compute, [0xB3173245], .vsf .f 23 (.g 18) .rz 5),
    (.compute, [0xB4265E40], .vcvt .bf 6 (.g 62) .h .rn 0),
    (.compute, [0xB514034D], .vqnt 20 (.lv 3) .h .rz 5),
    (.compute, [0xB6599708], .vdq .h 25 (.k 23) .rz 0),
    (.compute, [0xB7AA1860], .vdot .i32 10 24 .i8 false),
    (.compute, [0xB80F6C02], .vmma .f 15 3 12 2),
    (.compute, [0xB9C002C7], .vmovg .discard 2 (.special .npc)),
    (.compute, [0xBA13A7C0], .vmovv 19 (.k 39) .zero)] : List (Cls × List Nat × Instr)), reads p.1 p.2.1 = some p.2.2 := by decide +kernel

theorem decode_mesh_and_kicks : ∀ p ∈ ([
    (.compute, [0xC070C1C0, 0xEE78E4D3], .mfmt (.g 112) (.special .sid) ⟨some (238, 120), some (228, 13)⟩),
    (.compute, [0xC1C079C0, 0x00000000], .pload .discard (.g 121) ⟨none, none⟩),
    (.compute, [0xC2C0C0C0, 0x00004222], .pswap .discard ⟨none, some (66, 2)⟩),
    (.compute, [0xC314B006, 0x63430001], .mpass (.g 20) (.k 48) (.g 6) ⟨some (99, 67), none⟩),
    (.compute, [0xC438C0C0, 0xE9498293], .mtran (.g 56) .zero .zero ⟨some (233, 73), some (130, 9)⟩),
    (.compute, [0xC543C0C0, 0x79A30001], .mprobe (.g 67) ⟨some (121, 163), none⟩),
    (.compute, [0xC629A943, 0xB8E73553], .aclr (.g 41) (.k 41) (.g 67) ⟨some (184, 231), some (53, 5)⟩),
    (.compute, [0xC7B7B0C0, 0xA9290005], .ard .i32 23 (.k 48) true ⟨some (169, 41), none⟩),
    (.compute, [0xC80C6250, 0x0000DD72], .awr (.g 12) (.g 66) (.g 80) false ⟨none, some (221, 7)⟩),
    (.compute, [0xC9C021C0, 0x000001A2], .mstat .discard (.g 33) ⟨none, some (1, 10)⟩),
    (.compute, [0xD05BC0C6, 0x51440001], .cpy (.g 91) .zero (.special .pc) ⟨some (81, 68), none⟩),
    (.compute, [0xD1738845, 0x1CB3E3A3], .cpy2d (.g 115) (.k 8) (.g 69) ⟨some (28, 179), some (227, 10)⟩),
    (.compute, [0xD2000B97, 0x1D350001], .cpyg (.g 0) (.g 11) (.k 23) ⟨some (29, 53), none⟩),
    (.compute, [0xD333C0C0, 0x209918F3], .stdec (.g 51) .zero ⟨some (32, 153), some (24, 15)⟩),
    (.compute, [0xD401CCB9, 0x00000000], .lend (.g 1) (.special .ntile) (.k 57) ⟨none, none⟩),
    (.compute, [0xD443CBA5, 0x2B070005], .lendGive (.g 67) (.special .psize) (.k 37) ⟨some (43, 7), none⟩),
    (.compute, [0xD5C0C0B1, 0x00000000], .share .discard .zero (.k 49) ⟨none, none⟩),
    (.compute, [0xD6C0C036, 0x00000000], .split .discard .zero (.g 54) ⟨none, none⟩),
    (.compute, [0xD7295807, 0x000021E2], .merge (.g 41) (.g 88) (.g 7) ⟨none, some (33, 14)⟩),
    (.compute, [0xD8108D34, 0x2C930001], .kick (.g 16) (.k 13) (.g 52) ⟨some (44, 147), none⟩)] : List (Cls × List Nat × Instr)), reads p.1 p.2.1 = some p.2.2 := by decide +kernel

theorem decode_stack_and_engines : ∀ p ∈ ([
    (.stack, [0xE001C06D], .svld 1 .zero 109),
    (.stack, [0xE104C00D], .svst 4 .zero 13),
    (.stack, [0xE2A57906], .sgath .i32 5 (.g 121) 6),
    (.stack, [0xE3A15803], .sscat .i32 1 (.g 88) 3),
    (.stack, [0xE4A14920], .sscan .i32 1 (.g 73) false .min 0),
    (.stack, [0xE57D0162], .sred (.g 125) 1 .i8 .max),
    (.stack, [0xE6270504], .scmpr .bf 7 5 4),
    (.stack, [0xE7A4072A], .shist (.k 36) 7 (.g 42)),
    (.stack, [0xE8610482], .ssort .i8 1 4 true 2),
    (.stack, [0xE906C172], .svalu .f .or 6 1 (.g 82)),
    (.copyE, [0xF0439575], .blkrd (.g 67) (.k 21) (.g 117)),
    (.copyE, [0xF153C0C0], .blkwr (.g 83) .zero .zero),
    (.collE, [0xF220BBA2], .blkred (.g 32) (.k 59) (.k 34)),
    (.linkE, [0xF33FAC53], .lsend (.g 63) (.k 44) (.g 83)),
    (.stencilE, [0xF01AB1C0], .jrot (.g 26) (.k 49)),
    (.stencilE, [0xF14C6FC4], .gphase (.g 76) (.g 111) (.special .ltile)),
    (.stencilE, [0xF203C0C0], .phq (.g 3)),
    (.stencilE, [0xF36FC0C0], .svnrm (.g 111)),
    (.stencilE, [0xF44BC080], .stwr (.g 75) .zero (.k 0))] : List (Cls × List Nat × Instr)), reads p.1 p.2.1 = some p.2.2 := by decide +kernel

theorem granted_and {s : State} {m : Mode} {va : Word} {n : Nat} (p : List Part → Bool)
    (h : (access s (myself s) (myTlb s) m va.toNat n).toOption.any p = true) : ∃ ps, Granted s m va n ps ∧ p ps = true := by
  cases h' : access s (myself s) (myTlb s) m va.toNat n with
  | error e => rw [h'] at h; exact nomatch h
  | ok q => rw [h'] at h; exact ⟨q, h', h⟩

/-- Whether a check fails in a way that a test accepts. -/
def fails {α : Type} (p : Bad → Bool) : Except Bad α → Bool
  | .error b => p b
  | .ok _ => false

theorem error_and {α : Type} {e : Except Bad α} (p : Bad → Bool) (h : fails p e = true) : ∃ b, e = .error b ∧ p b = true := by
  cases e with
  | ok _ => exact nomatch h
  | error b => exact ⟨b, rfl, h⟩

/-! ## Witnesses: integer, floating, control -/

theorem meets_IntegerResults : Full c0 (uses3 c0 (.g 127) (.g 1) (.k 63)) ∧ Full c0 (gdstUse c0 .discard) ∧ Full c0 (gdstUse c0 (.g 0) ++ srcUse c0 .zero) :=
  ⟨full_of (by decide +kernel), full_of (by decide +kernel), full_of (by decide +kernel)⟩

theorem meets_MultiplyDivideResults : Full c0 (uses3 c0 .discard (.g 127) .zero) := full_of (by decide +kernel)

theorem meets_SaturatingResults : Full c0 (uses3 c0 (.g 3) (.g 3) (.g 3)) := full_of (by decide +kernel)

theorem meets_FloatResults : Full c0 (fuses c0 127 (.g 3) (.k 1)) ∧ (!ftz (me c0) && [srcCode c0 fpD (.g 3)].any fpD.subnormal) = true
    ∧ (!ftz (me c0) && [srcCode c0 fpD (.k 1), srcCode c0 fpD .zero].any fpD.subnormal) = false :=
  ⟨full_of (by decide +kernel), by decide +kernel, by decide +kernel⟩

theorem meets_FloatFunctions : Full c0 (fuses c0 0 (.g 1) (.k 1)) ∧ Full c0 ([.g (gregOf c0 0)] ++ srcUse c0 (.k 1))
    ∧ (match scalarNum c0 fpD (srcCode c0 fpD (.k 1)) with | .fin .. => true | _ => false) = true ∧ (0 : BitVec 6).toNat = 0 ∧ (1 : BitVec 6).toNat = 1
    ∧ (2 : BitVec 6).toNat = 2 ∧ 3 ≤ (3 : BitVec 6).toNat ∧ 3 ≤ (63 : BitVec 6).toNat :=
  ⟨full_of (by decide +kernel), full_of (by decide +kernel), by decide +kernel⟩

theorem meets_RoundingIsNearest : (fpF.round .rn false false 1 3).2 &&& flagOF = 0 ∧ (fpD.round .rn false false 1 (10 ^ 400)).2 &&& flagOF = 0
    ∧ (match fpF.value 0 with | .fin .. => true | _ => false) = true := by decide +kernel

theorem meets_BranchesCallsAndJumps : Full c0 (srcUse c0 (.g 127)) ∧ Full c0 (gdstUse c0 (.g 127) ++ srcUse c0 (.g 1)) ∧ inBody c0 = false
    ∧ (srcVal c0 (.g 3)).toNat % 4 ≠ 0 ∧ (srcVal c0 (.g 1)).toNat % 4 = 0 :=
  ⟨full_of (by decide +kernel), full_of (by decide +kernel), by decide +kernel⟩

theorem meets_Repetition : inBody c0 = false ∧ inBody (withStr c0 fun r => { r with rep := 0x8000000000000000 }) = true := by decide +kernel

/-! ## Witnesses: memory and synchronisation -/

theorem meets_LoadResults : Open c0 ([.g (gregOf c0 127)] ++ srcUse c0 (.g 1)) ∧ windowMisaligned c0 0x100040 8 = false
    ∧ ∃ ps, Granted c0 .load 0x100040 8 ps ∧ (poisonedVa c0 (myself c0) ps).isNone = true :=
  ⟨open_of (by decide +kernel), by decide +kernel, granted_and (fun ps => (poisonedVa c0 (myself c0) ps).isNone) (by decide +kernel)⟩

/-- A request of the strand for a pass of 2 vectors from the scratchpad's start, and the run of it. -/
def pass0 : MeshReq := ⟨3, c0.cur, 0x10000001, some 5, none, word winBase, 0x0010000000023F3F, 0x2000, none⟩
def run0 (vs : List (Int × List Int × Nat)) : MeshRun := ⟨pass0, { ctx := 12, eb := some 7 }, 0x3F800000, 1, false, 100, 10, 0, 0, vs, false, false⟩

/-- The strand with its scratchpad while its pass runs: its staging has still to be read. -/
def staged0 : State := modMesh v0 0 fun m => { m with running := [run0 [(0, [1], 0), (0, [1], 0)]] }

theorem meets_StoreResults : Open c0 (srcUse c0 (.g 3) ++ srcUse c0 (.g 1)) ∧ windowMisaligned c0 0x1000F8 8 = false
    ∧ (∃ ps, Granted c0 .store 0x1000F8 8 ps ∧ ((ps.all fun q => match q.place with | .kick .. => false | _ => true) && !stagingHeld c0 ps) = true)
    ∧ Open staged0 (srcUse staged0 (.g 3) ++ srcUse staged0 (.g 5)) ∧ ∃ ps, Granted staged0 .store (word winBase) 8 ps ∧ stagingHeld staged0 ps = true :=
  ⟨open_of (by decide +kernel), by decide +kernel, granted_and _ (by decide +kernel), open_of (by decide +kernel), granted_and _ (by decide +kernel)⟩

/-- The strand with an address in g1; what a checked access of n bytes there comes to. -/
def aims0 (v : Word) : State := withRegs c0 [(1, v)]
def checked0 (v : Word) (m : Mode) (n : Nat) : Except Bad (List Part) :=
  access (aims0 v) (myself (aims0 v)) (myTlb (aims0 v)) m (srcVal (aims0 v) (.g 1) + wordOfInt ((0 : BitVec 8).toInt * n)).toNat n

theorem checked_traps {v : Word} {m : Mode} {n : Nat} (h : fails (fun b => (badTrap (aims0 v) b).isSome) (checked0 v m n) = true) :
    ∃ b, checked0 v m n = .error b ∧ (badTrap (aims0 v) b).isSome = true := error_and _ h

theorem meets_AccessTraps : (∃ b, checked0 0x0100000000000000 .load 1 = .error b ∧ (badTrap (aims0 0x0100000000000000) b).isSome = true)
    ∧ (∃ b, checked0 0x0100000000000000 .load 8 = .error b ∧ (badTrap (aims0 0x0100000000000000) b).isSome = true)
    ∧ (∃ b, checked0 0x100200 .store 8 = .error b ∧ (badTrap (aims0 0x100200) b).isSome = true)
    ∧ (∃ b, checked0 0x100203 .store 1 = .error b ∧ (badTrap (aims0 0x100203) b).isSome = true)
    ∧ (∃ b, checked0 0x100040 .sync 8 = .error b ∧ (badTrap (aims0 0x100040) b).isSome = true)
    ∧ (∀ n ∈ [2 ^ 56, 0x100200, 0x100203, 0x100040, winBase + 2 ^ 24, winBase + 2 ^ 24 + 4], let s := aims0 (word n)
      Open s ([.g (gregOf s 5)] ++ srcUse s (.g 1)) ∧ Open s (srcUse s (.g 3) ++ srcUse s (.g 1)))
    ∧ windowMisaligned (aims0 0x0100000000000000) 0x0100000000000000 8 = false ∧ windowMisaligned (aims0 0x100203) 0x100203 1 = false
    ∧ windowMisaligned (aims0 (word (winBase + 2 ^ 24))) (word (winBase + 2 ^ 24)) 1 = true
    ∧ windowMisaligned (aims0 (word (winBase + 2 ^ 24 + 4))) (word (winBase + 2 ^ 24 + 4)) 8 = true
    ∧ (srcVal c0 (.g 3) + wordOfInt ((0 : BitVec 8).toInt * 8)).toNat % 8 ≠ 0 :=
  ⟨checked_traps (by decide +kernel), checked_traps (by decide +kernel), checked_traps (by decide +kernel), checked_traps (by decide +kernel),
    checked_traps (by decide +kernel), fun n h => ⟨open_of (by revert n; decide +kernel), open_of (by revert n; decide +kernel)⟩, by decide +kernel⟩

/-- A Take of the SYNC word that g2 addresses, and a Fill of it. -/
def take0 : SyncReq := requestOf c0 .take (some 5) 0 0 0x100140 0x100140 false
def fill0 : SyncReq := requestOf c0 .fill none 9 0 0x100140 0x100140 false

/-- Every entry of the word's home holds a request of another agent. -/
def busy0 : State := { c0 with waiters := List.replicate 256 { fill0 with who := .host 0, loc := 0x1800 } }

theorem meets_SyncInstructions : Open c0 (gdstUse c0 (.g 5) ++ srcUse c0 (.g 2)) ∧ (∃ ps, Granted c0 .sync 0x100140 8 ps ∧ decide (partLoc ps = 0x100140) = true)
    ∧ (waitingOf c0 c0.cur).length < 4 ∧ 4 ≤ (waitingOf { c0 with waiters := List.replicate 4 fill0 } c0.cur).length
    ∧ (arrive (touchSlice c0 c0.cur 0x100140) take0).1 = .performed ∧ (arrive (touchSlice c0 c0.cur 0x100140) fill0).1 = .waiting
    ∧ (arrive (touchSlice busy0 c0.cur 0x100140) fill0).1 = .busy ∧ (me busy0).busy < fld (me busy0).str.syncretry 7 0
    ∧ fld (me (withStr busy0 fun r => { r with syncretry := 0 })).str.syncretry 7 0 ≤ (me busy0).busy :=
  ⟨open_of (by decide +kernel), granted_and _ (by decide +kernel), by decide +kernel⟩

theorem meets_WordProtocol : take0.kind = .take ∧ fill0.kind = .fill ∧ (SyncKind.aadd).isAtomic = true
    ∧ (let s := { c0 with reserved := [(0x100140, ⟨c0.cur, 1, 2, 0, 0x100140, false⟩)] }
       mfind s.reserved 0x100140 = some ⟨c0.cur, 1, 2, 0, 0x100140, false⟩ ∧ (∀ q ∈ s.waiters, q.loc ≠ 0x100140) ∧ mfind s.tdu.bindings 0x100140 = none) := by
  decide +kernel

theorem meets_MemoryReadsAndWrites : ([(1 : Byte)] ≠ [] ∧ 63 % 64 + [(1 : Byte)].length ≤ 64)
    ∧ (¬Cached (myself v0) ⟨winBase, 8, .scratch 0 0, none⟩ ∧ (Place.scratch 0 0).loc = some (scratchLoc 0 0))
    ∧ ∀ a, (myself m0).agent = some a → a.kind ≠ .compute := by
  refine ⟨by decide, ⟨?_, rfl⟩, fun a h => by cases h; decide +kernel⟩
  rintro ⟨-, ⟨_, _, h⟩, -⟩
  exact Place.noConfusion h

/-- A fence of device scope that awaits the echo of one slice, and the same with a request of the strand still waiting there. -/
def fence0 : State := modStrand c0 c0.cur fun r => { r with fence := some ⟨2, some 5, [0], 0, false⟩ }

theorem meets_Fences : Open c0 (gdstUse c0 (.g 5)) ∧ (strandOf fence0 fence0.cur).fence = some ⟨2, some 5, [0], 0, false⟩
    ∧ ((waitingOf { fence0 with waiters := [fill0] } c0.cur).any fun q => q.home = 0) = true ∧ ((waitingOf fence0 fence0.cur).any fun q => q.home = 0) = false
    ∧ fenceOver (modStrand fence0 fence0.cur fun r => { r with fence := some ⟨2, some 5, [], 0, false⟩ }) fence0.cur ⟨2, some 5, [], 0, false⟩ = true :=
  ⟨open_of (by decide +kernel), by decide +kernel⟩

theorem meets_Monitors : Full c0 (gdstUse c0 (.g 5) ++ srcUse c0 (.g 1)) ∧ (∃ ps, Granted c0 .marm (srcVal c0 (.g 1)) 1 ps ∧ true = true) ∧ c0.cur.kind ≠ .engine
    ∧ (let s := withStr c0 fun r => { r with mon3 := 0xC000000000100040 }; hitSlots (me ([0, 1, 2, 3].foldl rearm s)).str ≠ 0)
    ∧ hitSlots (me ([0, 1, 2, 3].foldl rearm c0)).str = 0 ∧ canTakeAsync (me ([0, 1, 2, 3].foldl rearm c0)) = false
    ∧ (strandOf (modStrand c0 c0.cur fun r => { r with run := .mwait (some 5) false }) c0.cur).run = .mwait (some 5) false :=
  ⟨full_of (by decide +kernel), granted_and (fun _ => true) (by decide +kernel), by decide +kernel⟩

theorem meets_SemaphoreResults : Open c0 (uses3 c0 (.g 5) .zero (.k 1)) ∧ Open c0 (gdstUse c0 (.g 5) ++ srcUse c0 (.g 3)) ∧ c0.cur.kind ≠ .stack
    ∧ fld (srcVal c0 .zero) 15 0 ≤ semCount c0 (semTile c0) 0 ∧ semCount c0 (semTile c0) 0 < fld (srcVal c0 (.k 1)) 15 0
    ∧ 65535 < semCount (semPut c0 0 5 65535) 0 5 + 1 :=
  ⟨open_of (by decide +kernel), open_of (by decide +kernel), by decide +kernel⟩

/-! ## Witnesses: strands, traps, system registers -/

theorem many {α : Type} (n : Nat) (x : α) : n ≤ (List.replicate n x).length := Nat.le_of_eq List.length_replicate.symm

theorem meets_StrandLife : Full c0 (uses3 c0 (.g 5) (.g 1) (.g 2))
    ∧ 16384 ≤ ({ c0 with tdu := { c0.tdu with spawns := List.replicate 16384 ⟨0, 0, 0, 0, none, 0, 0, 0⟩ } } : State).tdu.spawns.length
    ∧ Open c0 (srcUse c0 (.g 3)) ∧ c0.tdu.spawns.length < 16384 ∧ inBody c0 = false ∧ exitReady c0 c0.cur = true
    ∧ exitReady { c0 with waiters := [fill0] } c0.cur = false :=
  ⟨full_of (by decide +kernel), many 16384 _, open_of (by decide +kernel), by decide +kernel⟩

/-- The SYNC word is bound, and a launch from it is pending. -/
def bound0 : State := { c0 with tdu := { c0.tdu with bindings := [(0x100140, ⟨0x100140, 0, 0x100000, false, 1⟩)] } }
def pending0 : State := { bound0 with tdu := { bound0.tdu with boundFull := [(0x100140, some ⟨0x100000, 42, 0, 1, some 0x100140, 0, 0x100140, 0⟩)] } }

theorem meets_Bindings : Open c0 (uses3 c0 (.g 5) (.g 2) (.g 1)) ∧ (∃ ps, Granted c0 .sync (srcVal c0 (.g 2)) 8 ps ∧ decide (partLoc ps = 0x100140) = true)
    ∧ 16384 ≤ ({ c0 with tdu := { c0.tdu with bindings := List.replicate 16384 (0, ⟨0, 0, 0, false, 0⟩) } } : State).tdu.bindings.length
    ∧ (srcVal c0 (.g 2)).toNat % 8 = 0 ∧ mfind c0.tdu.bindings 0x100140 = none ∧ isFull c0 0x100140 = true ∧ mfind c0.tdu.boundFull 0x100140 = none
    ∧ (mfind bound0.tdu.bindings 0x100140).isSome = true ∧ bindingAt c0 (srcVal c0 (.g 2)) = none
    ∧ bindingAt bound0 (srcVal bound0 (.g 2)) = some (0x100140, ⟨0x100140, 0, 0x100000, false, 1⟩) ∧ pendingAt bound0 (srcVal bound0 (.g 2)) = none
    ∧ pendingAt pending0 (srcVal pending0 (.g 2)) = some 0x100140 :=
  ⟨open_of (by decide +kernel), granted_and _ (by decide +kernel), many 16384 _, by decide +kernel⟩

theorem meets_ReadyQueues : Open c0 (uses3 c0 (.g 5) (.g 1) .zero) ∧ Open c0 (gdstUse c0 (.g 126) ++ [.g 127]) ∧ c0.cur.kind ≠ .stack
    ∧ (coreOf c0 (myTile c0 * 8 + 7)).regcap = 0
    ∧ (let c : Core := { regcap := 1, rq := List.replicate 64 (3, 9) }; c.regcap ≠ 0 ∧ 64 ≤ (c.rq.filter fun e => e.1 = 3).length ∧ (c.rq.filter fun e => e.1 = 0).length < 64 ∧ c.takers = [])
    ∧ rqHead { rq := [(0, 4), (3, 9)] } = some ((3, 9), [(0, 4)]) ∧ rqHead (coreOf c0 (coreKey c0.cur)) = none :=
  ⟨open_of (by decide +kernel), open_of (by decide +kernel), by decide +kernel⟩

/-- The strand is a member of group 7. -/
def member0 : State := { c0 with tdu := { c0.tdu with groups := [(7, ⟨0, [⟨0x10000001, false, true, false, none, none⟩], 0⟩)] } }

theorem meets_GroupInstructions : Open c0 (gdstUse c0 (.g 5) ++ srcUse c0 (.g 3))
    ∧ 4096 ≤ ({ c0 with tdu := { c0.tdu with groups := List.replicate 4096 (9, ⟨0, [], 0⟩) } } : State).tdu.groups.length ∧ 2 ^ 28 ≤ (srcVal c0 (.g 4)).toNat
    ∧ (srcVal c0 (.g 3)).toNat < 2 ^ 28 ∧ (groupsOf c0 0 0x10000001).length < 4 ∧ isMember c0 0 7 0x10000001 = false ∧ isMember member0 0 7 0x10000001 = true
    ∧ mfind c0.tdu.groups 7 = none ∧ (me member0).party = 0x10000001 ∧ (myself member0).asid = 0 ∧ earlierPending member0 c0.cur = false
    ∧ 4 ≤ (groupsOf { c0 with tdu := { c0.tdu with groups := [1, 2, 3, 4].map fun k => (k, ⟨0, [⟨0x10000001, false, true, false, none, none⟩], 0⟩) } } 0 0x10000001).length :=
  ⟨open_of (by decide +kernel), many 4096 _, by decide +kernel⟩

/-- The strand with a handler, and with that handler running. -/
def handled0 : State := withStr c0 fun r => { r with tvec := 0x2000 }
def inHandler0 : State := withStr handled0 fun r => { r with txstat := 0x8000000000000100 }

theorem meets_TrapEntry : c0.cur.kind ≠ .engine ∧ m0.cur.kind = .mgmt ∧ bit (me handled0).str.txstat 63 = false ∧ fld (me handled0).str.tvec 55 6 ≠ 0
    ∧ ({ code := 255 } : Trap).code < 256 ∧ ({ code := 11, next := true } : Trap).next = true ∧ bit (me handled0).str.rep 63 = false
    ∧ ({ code := 11 } : Trap).xlate = none ∧ bit (me inHandler0).str.txstat 63 = true ∧ fld (me c0).str.tvec 55 6 = 0 := by decide +kernel

theorem meets_TrapReturnHaltAndWait : Full c0 (srcUse c0 (.g 3)) ∧ privOf c0.cur (me (withStr c0 fun r => { r with sched := 0 })) = 0
    ∧ 1 < fld (me (withStr c0 fun r => { r with txstat := 0x200 })).str.txstat 9 8
    ∧ (privOf c0.cur (me inHandler0) ≠ 0 ∧ inBody inHandler0 = false ∧ fld (me inHandler0).str.txstat 9 8 ≤ 1) ∧ privOf c0.cur (me c0) ≠ 2
    ∧ privOf m0.cur (me m0) = 2 ∧ canTakeAsync (me (modStrand c0 c0.cur fun r => { r with pending := { timer := true } })) = true ∧ canTakeAsync (me c0) = false
    ∧ (strandOf (modStrand c0 c0.cur fun r => { r with run := .wait }) c0.cur).run = .wait :=
  ⟨full_of (by decide +kernel), by decide +kernel⟩

theorem meets_AsynchronousTraps : betweenHalves c0 c0.cur = false ∧ betweenHalves { c0 with reserved := [(0x100140, ⟨c0.cur, 1, 2, 0, 0x100140, false⟩)] } c0.cur = true
    ∧ (me c0).run ≠ .free ∧ inTrap (me inHandler0) = true ∧ inTrap (me c0) = false ∧ (me c0).run = .ready
    ∧ ({ fabricLoss := some 4095 } : Pending).preempt = false ∧ ({ meshAlarm := some 3 } : Pending).fabricLoss = none ∧ ({ timer := true } : Pending).meshAlarm = none := by
  decide +kernel

theorem meets_SystemRegisters : Full c0 (gdstUse c0 (.g 5)) ∧ Full c0 (srcUse c0 (.g 3)) ∧ c0.cur.kind = .compute
    ∧ ((sysRegOf 6).any fun r => (accessUnit c0 r).isSome && readableAtU r && writableAtU r && !readWaits c0 r) = true ∧ sysRegOf 0xFFFF = none
    ∧ ((sysRegOf 0x6000).any fun r => (accessUnit c0 r).isNone || decide (privOf c0.cur (me c0) ≠ 0)) = true
    ∧ privOf c0.cur (me (withStr c0 fun r => { r with sched := 0 })) = 0 ∧ (0x6000 : BitVec 16).toNat / 4096 = 6 ∧ (0x5005 : BitVec 16).toNat / 4096 = 5
    ∧ 4 < (0x5005 : BitVec 16).toNat % 4096 :=
  ⟨full_of (by decide +kernel), full_of (by decide +kernel), by decide +kernel⟩

/-! ## Witnesses: vectors, tokens -/

theorem meets_VectorResults : VReady v0 (vectorUses v0 31 (.lv 0) (.g 95) 0 .zero .zero (.vadd .f 31 (.lv 0) (.g 95)))
    ∧ VReady v0 [.lv (lregOf v0 0), .lv (lregOf v0 1), .lv (lregOf v0 30), .lv (lregOf v0 30 + 1)] ∧ VReady v0 ([.lv (lregOf v0 0)] ++ lsrcUse v0 (.lv 1))
    ∧ wellFormed (.vadd .f 31 (.lv 0) (.g 95)) = true ∧ wellFormed (.vred .bf 0 (.lv 1) 8 .max) = true ∧ wellFormed (.vcvt .f 0 (.lv 1) .i8 .rz 3) = true
    ∧ wellFormed (.vdot .i32 0 30 .i8 true) = true ∧ wellFormed (.vmma .i32 0 6 1 30) = true ∧ wellFormed (.vqnt 0 (.lv 1) .bf .rn 5) = true ∧ (LTy.i8).int3 = true
    ∧ 255 < 2 ^ (LTy.i8).width :=
  ⟨vready_of (by decide +kernel), vready_of (by decide +kernel), vready_of (by decide +kernel), by decide⟩

theorem meets_VectorMemory : VReady v0 ([.lv (lregOf v0 31)] ++ srcUse v0 (.g 5))
    ∧ (∃ ps, Granted v0 .load (srcVal v0 (.g 5)) 512 ps ∧ (poisonedVa v0 (myself v0) ps).isNone = true)
    ∧ (∃ ps, Granted v0 .store (word (winBase + 2 ^ 23 - 512)) 512 ps ∧ (!stagingHeld v0 ps) = true)
    ∧ VReady staged0 ([.lv (lregOf staged0 31)] ++ srcUse staged0 (.g 5))
    ∧ (∃ ps, Granted staged0 .store (srcVal staged0 (.g 5)) 512 ps ∧ stagingHeld staged0 ps = true) ∧ (srcVal v0 (.g 5)).toNat % 64 = 0
    ∧ (srcVal v0 (.g 3)).toNat % 64 ≠ 0 ∧ winBase ≤ (word (winBase + 2 ^ 23 - 512)).toNat ∧ (word (winBase + 2 ^ 23 - 512)).toNat + 512 ≤ winBase + 2 ^ 23 :=
  ⟨vready_of (by decide +kernel), granted_and (fun ps => (poisonedVa v0 (myself v0) ps).isNone) (by decide +kernel), granted_and _ (by decide +kernel),
    vready_of (by decide +kernel), granted_and _ (by decide +kernel), by decide +kernel⟩

/-- A VMOVG of the strand as it stands in the dispatch queue; the core with it queued, with it started, and with a VEXIT queued. -/
def vadd0 : VecOp := ⟨v0.cur, 1, 0, 8, [3], [], [(5, 7)], 0, 0⟩
def leave0 : VecOp := ⟨v0.cur, 0, 0, 0, [], [], [], 0, 0⟩
def dispatched0 : State := withCore v0 fun c => { c with dispatch := [vadd0] }
def started0 : State := wvuCycle dispatched0 0
def leaving1 : State := withCore v0 fun c => { c with dispatch := [leave0] }

theorem meets_VectorLease : (∃ x, (coreOf (withCore c0 fun c => { c with lease := some 63 }) (coreKey c0.cur)).lease = some x ∧ x ≠ c0.cur.ctx) ∧ VReady v0 []
    ∧ VReady v0 (gdstUse v0 (.g 5) ++ [.lv (lregOf v0 31)] ++ srcUse v0 (.g 3)) ∧ c0.cur.kind = .compute ∧ (me c0).fence = none
    ∧ (coreOf c0 (coreKey c0.cur)).lease = none ∧ (coreOf c0 (coreKey c0.cur)).leaseQueue = [] ∧ (coreOf c0 (coreKey c0.cur)).dispatch = []
    ∧ (coreOf v0 (coreKey v0.cur)).lease = some v0.cur.ctx ∧ (coreOf (withCore c0 fun c => { c with leaseQueue := [5] }) (coreKey c0.cur)).leaseQueue = 5 :: []
    ∧ vectorIdle (coreOf c0 0) = true ∧ vectorIdle (coreOf started0 0) = false ∧ (coreOf started0 0).flying = [{ vadd0 with due := started0.cycle + 8 }]
    ∧ (coreOf dispatched0 0).dispatch = vadd0 :: [] ∧ vadd0.kind ≠ 0 ∧ wvuChoice dispatched0 0 = some (0, vadd0) ∧ (vadd0.gs ≠ [] ∨ vadd0.flags ≠ 0)
    ∧ (coreOf leaving1 0).dispatch = leave0 :: [] ∧ leave0.kind = 0 :=
  ⟨⟨63, by decide +kernel, by decide +kernel⟩, vready_of (by decide +kernel), vready_of (by decide +kernel), by decide +kernel⟩

theorem tokenReady_of {s : State} {us : List Use} (h : Full s us) (h' : clauseIllegal s noClauses = false) (h'' : Ordered s) : TokenReady s us noClauses :=
  ⟨h, h', waited_none s, h''⟩

theorem meets_TokenInstructions : (srcVal c0 (.g 1) 8).toNat < 2 ^ 56 ∧ Live c0
    ∧ (∀ op ∈ ([.tret, .tqry, .unshr 1, .merge 0x100140] : List TokenOp), mustWait c0 c0.tokenQueue (tokenKeys c0 (myself c0) op 0x100040) = false
      ∧ mustWait { c0 with tokenQueue := [([65535], .slot 0 0 0)] } [([65535], .slot 0 0 0)] (tokenKeys c0 (myself c0) op 0x100040) = true)
    ∧ [(0x100000 : Word), 0x0100000000000000].find? (fun v => 2 ^ 56 ≤ v.toNat) = some 0x0100000000000000
    ∧ TokenReady c0 (gdstUse c0 (.g 5) ++ (srcUse c0 (.g 1) ++ srcUse c0 (.g 2))) noClauses ∧ TokenReady c0 (gdstUse c0 .discard ++ srcUse c0 (.g 1)) noClauses :=
  ⟨by decide +kernel, by unfold Live; decide +kernel, by decide +kernel, by decide, tokenReady_of (full_of (by decide +kernel)) (by decide +kernel) (ordered_of (by decide +kernel)),
    tokenReady_of (full_of (by decide +kernel)) (by decide +kernel) (ordered_of (by decide +kernel))⟩

/-- An entry that the strand holds, lent to it by the runtime, and a transfer of it to the runtime. -/
def lent0 : Entry := { base := 0x1000, len := 1, holder := 0x10000001, lender := 0x70000000, state := 1 }
def transfer0 : Transfer := ⟨0x70000000, 0, 1, some c0.cur, some 5, none, none, none, (0, 0x10000001), none⟩
def moving0 : State := { withEntry c0 65535 { lent0 with transit := true } with transfers := [(65535, transfer0)] }

theorem meets_TransferRules : (lendStatus c0 (myself c0) (some (65535, lent0)) 0x70000000 false).2.isSome = true
    ∧ (lendStatus c0 (myself c0) (some (65535, lent0)) 0x70000000 true).2.isSome = true ∧ (tretStatus c0 (myself c0) (some (65535, lent0))).2.isSome = true
    ∧ mfind moving0.transfers 65535 = some transfer0 ∧ transfer0.runtime = none ∧ transfer0.via = none ∧ transfer0.gone = none
    ∧ holds moving0 c0.cur transfer0.whose = true := by decide +kernel

/-- Region 0 of the strand, SHARED by 3 shares of the runtime or EXCL, and the region behind it. -/
def shared0 : Entry := { base := 0x1000, len := 1, holder := 0x10000001, shares := 3, state := 2 }
def wide0 : Entry := { base := 0x1000, len := 4, holder := 0x10000001, state := 1 }
def next0 : Entry := { base := 0x1004, len := 4, holder := 0x10000001, state := 1 }
def sharer0 : State := { withEntry c0 0 { shared0 with holder := 0x70000000 } with shares := [(4, ⟨0, 3, 0x10000001⟩)] }
def pairOf0 : State := withEntry (withEntry { c0 with entries := [] } 0 wide0) 1 next0

/-- For `TransferRules`: a SHARE that succeeds with a share and with none, one that is refused; an UNSHR of one share and of the last; a SPLIT and a
MERGE that succeed; an operation on no region. -/
theorem meets_TransferRules_effects : (shareOp c0 (myself c0) (some (0, wide0)) 0x0000000170000000).1 = 0 ∧ fld (0x0000000170000000 : Word) 39 32 = 1
    ∧ (shareOp c0 (myself c0) (some (0, wide0)) 0x0000000070000000).1 = 0 ∧ fld (0x0000000070000000 : Word) 39 32 = 0
    ∧ (shareOp c0 (myself c0) (some (0, { wide0 with state := 5 })) 0x0000000170000000).1 ≠ 0
    ∧ (∀ n ∈ [1, 3], (unshrOp sharer0 (myself sharer0) (some (0, { shared0 with holder := 0x70000000 })) n).1 = 0)
    ∧ entryOf sharer0 0 = { shared0 with holder := 0x70000000 } ∧ mfind sharer0.shares 4 = some ⟨0, 3, 0x10000001⟩
    ∧ sharer0.shares.find? (fun (_, y) => y.entry = 0 ∧ y.count ≠ 0 ∧ matchesParty sharer0 (myself sharer0) y.party) = some (4, ⟨0, 3, 0x10000001⟩)
    ∧ entryOf pairOf0 0 = wide0 ∧ (splitOp pairOf0 (myself pairOf0) (some (0, wide0)) 0x100200).1 = 0 ∧ wide0.state ≠ 0 ∧ allocEntry pairOf0 0 = some 2
    ∧ wide0.gen ≠ 0xFFFF ∧ (entryOf pairOf0 2).gen ≠ 0xFFFF ∧ (splitOp pairOf0 (myself pairOf0) (some (0, wide0)) 0x100201).1 = 7
    ∧ (mergeOp pairOf0 (myself pairOf0) (some (0, wide0)) (some (1, next0))).1 = 0 ∧ (mergeOp pairOf0 (myself pairOf0) (some (1, next0)) (some (0, wide0))).1 = 8
    ∧ wide0.state < 16 ∧ wide0.shares < 65536 ∧ partyKind (entryOf pairOf0 0).holder = 1 := by decide +kernel

/-! ## Witnesses: mesh, kicks, stack, engines, migration -/

/-- A mesh request of the strand: MFMT with context 12, ACLR of tile 63, MPASS. -/
def mfmt0 : MeshReq := ⟨0, c0.cur, 0x10000001, some 5, none, 12, 0, 0x2000, none⟩
def queued0 (q : MeshReq) : State := withCore c0 fun c => { c with meshQueue := [q] }
def mesh0 (f : Mesh → Mesh) : State := modMesh c0 0 f

theorem meets_MeshRequestsIssue : Open c0 (gdstUse c0 (.g 5) ++ (srcUse c0 (.g 1) ++ srcUse c0 (.g 2))) ∧ Waited c0 noClauses ∧ clauseIllegal c0 noClauses = false
    ∧ (coreOf c0 (coreKey c0.cur)).meshQueue.length < meshDepth :=
  ⟨open_of (by decide +kernel), waited_none c0, by decide +kernel⟩

/-- A request of a kind at the head of its core's queue, on a mesh that is retired or under RECAL or neither. -/
def asks0 (k : Nat) (retired recal : Bool) : State := modMesh (queued0 { mfmt0 with kind := k }) 0 fun m => { m with retired := retired, recal := recal }

/-- For `MeshEvents`: the fresh request next in turn, and the first accepted one that can begin. -/
theorem meets_MeshEvents_requests : (∀ k ∈ [0, 2, 5, 6, 7], ∀ x ∈ [(false, false), (true, false), (false, true)],
      nextRequester (asks0 k x.1 x.2) 0 = some (0, { mfmt0 with kind := k }) ∧ meshHeld (asks0 k x.1 x.2) 0 0 { mfmt0 with kind := k } = false
      ∧ (meshOf (asks0 k x.1 x.2) 0).accepted = [] ∧ (meshOf (asks0 k x.1 x.2) 0).recal = x.2 ∧ (meshOf (asks0 k x.1 x.2) 0).retired = x.1)
    ∧ mfmt0.part = none ∧ badContext 11 = true ∧ badContext 12 = false ∧ badContext 17 = false := by
  decide +kernel

def waits0 : State := mesh0 fun m => { m with accepted := [({ mfmt0 with kind := 6 }, [])] }

theorem meets_MeshEvents_accepted : (meshOf waits0 0).recal = false ∧ (meshOf waits0 0).accepted = ({ mfmt0 with kind := 6 }, []) :: []
    ∧ meshBlocked waits0 0 { mfmt0 with kind := 6 } = false := by
  decide +kernel

/-- For `MeshEvents`: a load that ended with a status, with RECAL or retired or neither, with and without a swap behind it, and a swap. -/
theorem meets_MeshEvents_load : (∀ x ∈ [(0, false, false), (3, true, false), (3, false, true), (0, true, true)],
      let m := meshOf (mesh0 fun m => { m with load := some (mfmt0, x.1), recal := x.2.1, retired := x.2.2 }) 0
      m.load = some (mfmt0, x.1) ∧ m.recal = x.2.1 ∧ m.retired = x.2.2 ∧ m.swap = none)
    ∧ (let m := meshOf (mesh0 fun m => { m with load := some (mfmt0, 0), swap := some mfmt0 }) 0
       m.load = some (mfmt0, 0) ∧ m.swap = some mfmt0 ∧ m.recal = false) := by
  decide +kernel

/-- For `MeshEvents`: a pass with vectors left, and a finished one, stopped by a halt or not. -/
theorem meets_MeshEvents_passes : ((meshOf staged0 0).running.findIdx? fun r => !r.vectors.isEmpty) = some 0
    ∧ (meshOf staged0 0).running[0]? = some (run0 [(0, [1], 0), (0, [1], 0)]) ∧ (run0 [(0, [1], 0), (0, [1], 0)]).vectors = (0, [1], 0) :: [(0, [1], 0)]
    ∧ takeFirst (fun r : MeshRun => r.vectors.isEmpty) (meshOf (mesh0 fun m => { m with running := [run0 []] }) 0).running = some (run0 [], [])
    ∧ (run0 []).halted = false ∧ ({ run0 [] with halted := true } : MeshRun).halted = true := by
  decide +kernel

theorem meets_AccumulatorTransfers : VReady v0 ([.lv (lregOf v0 31)] ++ srcUse v0 (.g 3)) ∧ Waited v0 noClauses
    ∧ VReady v0 (gdstUse v0 (.g 5) ++ lsrcUse v0 (.lv 31) ++ srcUse v0 (.g 3)) ∧ RowsApart (tileOf v0 (myTile v0)) ∧ clearWaits v0 = false
    ∧ ((accElems .f (srcVal v0 .zero 8)).find? fun k => accMarked v0 (myTile v0) k) = none
    ∧ (let s := modTile v0 0 fun x => { x with accPoison := (accElems .f (srcVal v0 .zero 8)).take 1 }
       ((accElems .f (srcVal s .zero 8)).find? fun k => accMarked s (myTile s) k).isSome = true) :=
  ⟨vready_of (by decide +kernel), waited_none v0, vready_of (by decide +kernel),
    fun i j _ _ h => by have hr : (tileOf v0 (myTile v0)).rowMap = [] := (by decide +kernel); rw [hr] at h; exact h, by decide +kernel⟩

/-- The strand with its tile listed, so that its copy engines are there. -/
def tile0 : State := { c0 with caps := { c0.caps with tilemask := 1 } }

theorem meets_KickInstructions : Full tile0 (gdstUse tile0 (.g 5) ++ (srcUse tile0 (.g 1) ++ srcUse tile0 (.g 2))) ∧ Waited tile0 noClauses ∧ Ordered tile0
    ∧ (∃ ps, Granted tile0 .store (kickVa false 0) 8 ps ∧ (!stagingHeld tile0 ps) = true)
    ∧ (∃ ps, Granted tile0 .load 0x100040 64 ps ∧ (poisonedVa tile0 (myself tile0) ps).isNone = true) ∧ clauseIllegal tile0 noClauses = false
    ∧ (srcVal tile0 (.g 1) 8).toNat % 64 = 0 ∧ (kickVa false 0).toNat % 8 = 0 ∧ (engineOf tile0 (slotEngine false (myTile tile0) 0)).queue.length < 8 :=
  ⟨full_of (by decide +kernel), waited_none tile0, ordered_of (by decide +kernel), granted_and _ (by decide +kernel),
    granted_and (fun ps => (poisonedVa tile0 (myself tile0) ps).isNone) (by decide +kernel), by decide +kernel⟩

/-- The addresses of 32 lanes. -/
def lanes0 : List Word := (List.range 32).map fun _ => 0x100000

theorem meets_StackInstructions : Full k0 ([.sv (svregOf k0 7), .sv (svregOf k0 0)] ++ svsrcUse k0 (.sv 7)) ∧ Open k0 ([.sv (svregOf k0 7)] ++ srcUse k0 (.g 1))
    ∧ (∃ ps, Granted k0 .load (srcVal k0 (.g 1)) 128 ps ∧ (poisonedVa k0 (myself k0) ps).isNone = true)
    ∧ (∃ ps, Granted k0 .store (srcVal k0 (.g 1)) 128 ps ∧ true = true) ∧ wellFormed (.svalu .e4m3 .xor 7 0 (.sv 7)) = true
    ∧ wellFormed (.sscan .i32 0 (.k 1) true .add 7) = true ∧ (srcVal k0 (.g 1)).toNat % 128 = 0 ∧ (LTy.f).width = 32
    ∧ (laneParts k0 .load lanes0).toOption.isSome = true ∧ (laneParts k0 .store lanes0).toOption.isSome = true ∧ k0.cur.kind = .stack ∧ k0.cur.unit < 192
    ∧ (srcVal k0 (.g 2)).toNat % 4 = 0 ∧ winBase ≤ (srcVal k0 (.g 2) + word (2 ^ 18 - 4)).toNat ∧ (srcVal k0 (.g 2) + word (2 ^ 18 - 4)).toNat < winBase + 2 ^ 18
    ∧ (laneParts k0 .store ((List.range 32).map fun _ => srcVal k0 (.g 2) + word (2 ^ 18 - 4))).toOption.isSome = true
    ∧ (0 : Nat) + 2 ^ (0 : BitVec 4).toNat < (LTy.f).svLanes :=
  ⟨full_of (by decide +kernel), open_of (by decide +kernel), granted_and (fun ps => (poisonedVa k0 (myself k0) ps).isNone) (by decide +kernel),
    granted_and (fun _ => true) (by decide +kernel), by decide +kernel⟩

theorem meets_EngineInstructions : Open e0 (gdstUse e0 (.g 31) ++ srcUse e0 (.g 1) ++ srcUse e0 (.g 2))
    ∧ (∃ ps, Granted e0 .xload (srcVal e0 (.g 1)) 64 ps ∧ true = true)
    ∧ (∃ ps, Granted e0 .xstore (srcVal e0 (.g 1) + word (8 * 7)) 8 ps ∧ (!ps.any fun p => p.state = 3) = true)
    ∧ (∃ ps, Granted e0 .xstore (srcVal e0 (.g 1) + word 56) 8 ps ∧ (!syncParts ps) = true)
    ∧ (∃ ps, Granted e0 .load (srcVal e0 (.g 1)) (blockBytes .e4m3) ps ∧ true = true) ∧ (∃ ps, Granted e0 .store (srcVal e0 (.g 1)) stencilSize ps ∧ true = true)
    ∧ e0.cur.kind = .engine ∧ (srcVal e0 (.g 1)).toNat % 64 = 0 ∧ (srcVal e0 (.g 31)).toNat % 64 = 0 ∧ ((srcVal e0 (.g 1)).toNat + 8) % 64 ≠ 0
    ∧ fld (srcVal e0 (.g 2)) 12 11 ≠ 3 ∧ fld (0x1800 : Word) 12 11 = 3 ∧ [ScanOp.add, .min, .max][fld (0x1000 : Word) 12 11]? = some .max
    ∧ (bit (srcVal e0 (.g 2)) 16 = true ∧ mayQueue e0 0 0 = true)
    ∧ (bit (0x100 : Word) 16 = false ∧ fld (0x100 : Word) 15 8 = 2 ^ 0 ∧ fld (0x8000 : Word) 15 8 = 2 ^ 7) ∧ (engineOf e0 e0.cur.unit).progress = 0
    ∧ waitingOf e0 e0.cur = [] ∧ (lineMarks e0 0).getLsbD 7 = false
    ∧ (match engineWord e0 (srcVal e0 (.g 1) + word 56) 7 false with | .ok (some u) => (waitingOf u u.cur).isEmpty | _ => false) = true
    ∧ 2 ^ 56 ≤ (0x0100000000000000 : Word).toNat ∧ (0x0100000000000000 : Word).toNat % 64 = 0 ∧ (2016 ≤ fld (2016 : Word) 10 0 ∧ fld (2015 : Word) 10 0 < 2016)
    ∧ mxCode (fld (0xC00000000 : Word) 36 32) = some .e4m3 ∧ bit (0 : Word) 63 = false :=
  ⟨open_of (by decide +kernel), granted_and (fun _ => true) (by decide +kernel), granted_and _ (by decide +kernel), granted_and _ (by decide +kernel),
    granted_and (fun _ => true) (by decide +kernel), granted_and (fun _ => true) (by decide +kernel), by decide +kernel⟩

/-- The hart with its scratchpad as a SYNC region, and a Fill of its own that waits at the line's last word. -/
def behind0 : State :=
  let s := withEntry e0 65536 { base := winBase / 256, len := 0x8000, holder := 0x30000000, state := 3 }
  { s with waiters := [{ fill0 with who := .agent s.cur, loc := scratchLoc 0 56 }] }

theorem meets_EngineInstructions_behind : Open behind0 (gdstUse behind0 (.g 31) ++ srcUse behind0 (.g 1) ++ srcUse behind0 (.g 2)) ∧ (∃ ps, Granted behind0 .xload (srcVal behind0 (.g 1)) 64 ps
      ∧ (syncParts ps && (waitingOf behind0 behind0.cur).any fun q => decide (partLoc ps ≤ q.loc) && decide (q.loc < partLoc ps + 64)) = true)
    ∧ (∃ ps, Granted e0 .xload (srcVal e0 (.g 1)) 64 ps ∧ (!syncParts ps) = true) :=
  ⟨open_of (by decide +kernel), granted_and _ (by decide +kernel), granted_and _ (by decide +kernel)⟩

/-- A strand with no tokens, and a route to chip 7. -/
def leaving0 : State := { c0 with entries := [], fabric := { c0.fabric with routes := [(7, 0x41)] } }

theorem meets_MigrationShips : Open leaving0 (gdstUse leaving0 (.g 5) ++ srcUse leaving0 (.g 3) ++ srcUse leaving0 (.g 1)) ∧ Ordered leaving0
    ∧ leaving0.cur.kind = .compute ∧ holdsTokens c0 0 (me c0).party = true ∧ holdsTokens leaving0 0 (me leaving0).party = false
    ∧ groupsOf leaving0 0 (me leaving0).party = [] ∧ groupsOf member0 0 (me member0).party ≠ [] ∧ leaving0.fabric.lostPeers.contains 7 = false
    ∧ ({ leaving0.fabric with lostPeers := [7] } : Fabric).lostPeers.contains 7 = true ∧ fld (srcVal leaving0 (.g 3)) 11 0 ≠ leaving0.fabric.chipid.toNat
    ∧ routeOf leaving0 7 ≠ none ∧ (me leaving0).empties = [] ∧ fabricOf leaving0 leaving0.cur = false ∧ (unackedTo leaving0 7 2).length ≤ 240 :=
  ⟨open_of (by decide +kernel), ordered_of (by decide +kernel), by decide +kernel⟩

/-! ## Witnesses: arrivals, homes, commands -/

theorem ok_and {α : Type} {e : Except Bad α} (p : α → Bool) (h : e.toOption.any p = true) : ∃ x, e = .ok x ∧ p x = true := by
  cases e with
  | error _ => exact nomatch h
  | ok x => exact ⟨x, rfl, h⟩

/-- The strand's machine with the first 64 GiB of ASID 0 mapped onto themselves, by table entries that the walk cache holds. -/
def walked0 : State := { c0 with walkCache := [⟨0, 4, 0, 1⟩, ⟨0, 3, 0, 1⟩, ⟨0, 2, 0, 0x1F⟩] }

theorem meets_WalksAndResultsArrive : (let s := modStrand c0 c0.cur fun r => { r with run := .parked (.walk 0) }
      (0, (me s)) ∈ s.strands ∧ (me s).run = .parked (.walk 0) ∧ tlbUnit (agentOfKey 0) = 0 ∧ (actorOf s (agentOfKey 0)).asid = 0 ∧ (match walk s 0 0 with | .error _ => true | .ok _ => false) = true)
    ∧ (match walk walked0 0 0x100000 with | .ok _ => true | .error _ => false) = true
    ∧ ([(3, 4), (192, 0)] : List (Nat × Word)).Pairwise (fun x y => x.1 ≠ y.1)
    ∧ ([(256, 0), (512, 7), (639, 9), (193, 0x31)] : List (Nat × Word)).Pairwise (fun x y => x.1 ≠ y.1) ∧ semTileOf c0 c0.cur < 18
    ∧ (strandOf (modStrand c0 c0.cur fun r => { r with run := .parked .answer }) c0.cur).run = .parked .answer := by decide +kernel

theorem meets_WalksAndResultsArrive_signal : ∀ w, (193, w) ∉ ([(3, 4), (192, 0)] : List (Nat × Word)) := by simp

/-- A host write that waits as a Fill of the SYNC word. -/
def hostFill0 : HostFill := ⟨7, 0x100140, false, 0x100140, 0, 9, 0, 0, none⟩

theorem meets_ForwardingErrorsAndRetries : (∃ b, access c0 (tduActor 0 1) none .sync (0x100140 : Word).toNat 8 = .error b ∧ true = true)
    ∧ (∃ ps, access walked0 (tduActor 0 1) none .sync (0x100140 : Word).toNat 8 = .ok ps ∧ decide (partLoc ps = 0x100140) = true)
    ∧ takeFirst (fun q : SyncReq => q.home = 0) ([take0, fill0] : List SyncReq) = some (take0, [fill0]) ∧ canProceed c0 take0 = true ∧ canProceed c0 fill0 = false
    ∧ entriesUsed c0 0 < 64 ∧ 64 ≤ entriesUsed busy0 fill0.home ∧ (0x100144 : Word).toNat % 8 ≠ 0
    ∧ ({ c0 with host := { c0.host with fills := [hostFill0] } } : State).host.fills.find? (fun x => x.id = 7) = some hostFill0 ∧ isFull c0 0x100140 = true
    ∧ isFull (setFull c0 0x100140 false) 0x100140 = false ∧ (strandOf c0 c0.cur).run ≠ .free ∧ (strandOf c0 ⟨.compute, 5, 5⟩).run = .free
    ∧ (strandOf (modStrand c0 c0.cur fun r => { r with run := .parked .lease }) c0.cur).run = .parked .lease ∧ routineEvent 0 2 = some (.gather 0) :=
  ⟨error_and (fun _ => true) (by decide +kernel), ok_and _ (by decide +kernel), by decide +kernel⟩

theorem meets_ForwardingErrorsAndRetries_wide : (let s := { c0 with inputs := [Input.figures [5]] }
      s.inputs = .figures [5] :: [] ∧ (strandOf s s.cur).run ≠ .free) ∧ (∀ q, c0.inputs ≠ .figures [5] :: q) := ⟨by decide +kernel, fun _ h => (nomatch h)⟩

theorem meets_Invalidations : ({ c0 with invalidations := [(c0.cur, 0xC000000000000000)], icInvs := [(c0.cur, 0)] } : State).invalidations = (c0.cur, 0xC000000000000000) :: []
    ∧ ({ c0 with icInvs := [(c0.cur, 0)] } : State).icInvs = (c0.cur, 0) :: []
    ∧ (strandOf (modStrand c0 c0.cur fun r => { r with run := .parked .invalidation }) c0.cur).run = .parked .invalidation
    ∧ (strandOf (modStrand c0 c0.cur fun r => { r with run := .parked .command }) c0.cur).run = .parked .command := by decide +kernel

/-- A region command of the strand on the region that an entry describes: OP in bits 3 to 0 of its word, the region at 0x100000. -/
def command0 (w : Word) (e : Entry) : State :=
  { withEntry (withStr c0 fun r => { r with hta := 0x100000, htb := 1 }) 65535 e with htCmds := [(c0.cur, c0.cur, w)] }
def held0 : Entry := { base := 0x1000, len := 1, holder := 0x10000001, state := 1 }

theorem meets_RegionCommands :
    (∀ p ∈ [(Instr.create, (0x7000000000010001 : Word)), (.create, 0x70000000000F0001), (.destroy, 2), (.reclaim, 3), (.seize, 4), (.htBadop, 15)],
      (takeCommand (command0 p.2 held0) p.1).isSome = true ∧ commandRegion (command0 p.2 held0) c0.cur p.2 = some (65535, held0)) ∧ held0.transit = false
    ∧ fld (0x7000000000010001 : Word) 19 16 = 1 ∧ fld (0x70000000000F0001 : Word) 19 16 = 15 ∧ ({ held0 with holder := runtimeParty, lender := 5 } : Entry).lender ≠ 0
    ∧ mustWait (command0 2 held0) [] [65535] = false ∧ mustWait (command0 2 { held0 with transit := true }) [] [65535] = true
    ∧ commandRegion { command0 2 held0 with entries := [] } c0.cur 2 = none ∧ takeCommand c0 .create = none
    ∧ ({ held0 with state := 5 } : Entry).state = 5 ∧ ({ held0 with state := 6 } : Entry).state = 6 ∧ ({ held0 with holder := runtimeParty, shares := 1 } : Entry).shares ≠ 0 := by decide +kernel

/-- A command of the TDU on partition 1, whose word is given, on a device with one tile and one region of the runtime for the image. -/
def tdu0 (part : Word) : State :=
  { withEntry { tile0 with walkCache := walked0.walkCache } 2 { base := 0x2000, len := 16, holder := runtimeParty, state := 1 } with
    tdu := { c0.tdu with parts := [(1, part)], arg := 0x200000, commands := [⟨c0.cur, 0x0040000000000000⟩] } }

/-- An image without units at 0x200000, by the layout of R210, with the published digest of the empty message; partition 1 FREE. -/
def saved0 : State := writeBy putHbm (tdu0 0) 0x200000
  ((([0x5A4D4349, 0x02000001, 0x100000000, 0x100000000, 0x0060004000400000, 512, 0, 0] : List Word).flatMap wordBytes) ++
    [0x1A, 0xB2, 0x1D, 0x83, 0x55, 0xCF, 0xA1, 0x7F, 0x8E, 0x61, 0x19, 0x48, 0x31, 0xE8, 0x1A, 0x8F, 0x22, 0xBE, 0xC8, 0xC7, 0x28, 0xFE, 0xFB, 0x74, 0x7E, 0xD0, 0x35, 0xEB, 0x50, 0x82, 0xAA, 0x2B])

/-- A launch record at 0x100040 for 8 registers from 0x100000, a partition that runs on tile 0, and a spawn of it. -/
def spawn0 : State :=
  let s := modCore { tile0 with walkCache := walked0.walkCache, tdu := { c0.tdu with parts := [(1, 0x4000000000000001)], spawns := [⟨0x100040, 42, 0, 1, none, 0, 0, 0⟩] } } 1 fun c => { c with regcap := 2048 }
  writeBy putHbm s 0x100040 (wordBytes 0x0100000800000000 ++ wordBytes 0x100000)

theorem meets_PartitionCommands : (tdu0 0).tdu.commands = ⟨c0.cur, 0x0040000000000000⟩ :: [] ∧ partSt (tdu0 0) 1 = 0 ∧ asidTaken (tdu0 0) 1 0 = false ∧ unitsMissing (tdu0 2) (wordTiles 2) 0 = true
    ∧ (wordTiles 1 ≠ 0 ∧ unitsMissing (tdu0 1) (wordTiles 1) (wordStacks 1) = false ∧ unitsBusy (tdu0 1) 1 (wordTiles 1) (wordStacks 1) = false)
    ∧ (let s := tdu0 1
       let t := { s with tdu := { s.tdu with parts := [(0, 0x4000000500000001), (1, 1)] } }
       unitsBusy t 1 (wordTiles 1) (wordStacks 1) = true ∧ asidTaken t 1 0 = false)
    ∧ (tdu0 0).faults.fstate ≠ 3 ∧ ({ tdu0 0 with faults := { c0.faults with fstate := 3 } } : State).faults.fstate = 3 ∧ partSt (tdu0 0xC000000000000000) 1 = 3
    ∧ partSt (tdu0 0x4000000000000001) 1 = 1 ∧ partSt (tdu0 0x8000000000000000) 1 = 2 ∧ drained (tdu0 0xC000000000000000) 1 = true ∧ deviceOps (tdu0 0x8000000000000000) 1 = 0
    ∧ (let s := modStrand (tdu0 0xC000000000000001) c0.cur fun r => { r with run := .halted (some .answer), partition := 1 }
       drained s 1 = false)
    ∧ (imageParts (tdu0 0x8000000000000000) 0 (imageOf (tdu0 0x8000000000000000) 1 0).len .store).toOption.isSome = true
    ∧ (let s := { tdu0 0x8000000000000000 with entries := [] }
       (match imageParts s 0 (imageOf s 1 0).len .store with | .error false => true | _ => false) = true)
    ∧ (let s := withEntry (tdu0 0x8000000000000000) 2 { base := 0x2000, len := 16, holder := runtimeParty, state := 1, transit := true }
       (match imageParts s 0 (imageOf s 1 0).len .store with | .error true => true | _ => false) = true) := by decide +kernel

theorem meets_PartitionCommands_restore : partSt saved0 1 = 0
    ∧ ((readImage saved0 0).toOption.any fun x => !asidTaken saved0 1 (imageAsid x.1) && imageWhole x.1 && imageKnown x.1 && (firstFit x.2 x.1 1 (unitSets x.2 1 0 0 0 0)).isSome) = true := by
  decide +kernel

theorem meets_PartitionCommands_transit : (let s := withEntry (tdu0 0) 2 { base := 0x2000, len := 16, holder := runtimeParty, state := 1, transit := true }
      partSt s 1 = 0 ∧ (match readImage s 0 with | .error true => true | _ => false) = true) := by decide +kernel

theorem meets_PartitionCommands_placement : selectSpawn c0 = none
    ∧ ((selectSpawn spawn0).any fun x => match x.2.2.1 with | .placed p _ v l _ => decide (p = 1) && v == 42 && l.1 == ⟨.compute, 1, 0⟩ | _ => false) = true := by
  decide +kernel

/-! ## Witnesses: engines -/

/-- A COPY of two words within the scratchpad of the engine's quad, in progress. -/
def kickOf (w : Word) (block : List Word) : Kick := ⟨w, block, (0, 0x10000001), 0, 0⟩
def copy0 (k : Kick) : State := modEngine e0 0 fun x => { x with op := some k }
def copyKick0 : Kick := kickOf 0 [0, word winBase, word (winBase + 512), 16]
def gatherKick0 : Kick := kickOf 0x0800000000000000 [0, word winBase, word (winBase + 512), 0x0000000800000002]
def stencilKick0 : Kick := kickOf 0x0C00000000000000 [0, word winBase, word (winBase + 4096), 12]
def tokenKick0 : Kick := kickOf 0x4000000000000000 [0, 0x100000, 0x10007]

theorem meets_EngineOperations : (engineOf (copy0 copyKick0) 0).op = some copyKick0 ∧ (engineOf (copy0 copyKick0) 0).ending = none ∧ copyArgsOk copyKick0 = true ∧ copyArgsOk (kickOf 0 [1, 1, 2, 3]) = false
    ∧ 0 < (copyPlan copyKick0).total ∧ toPeer copyKick0 = false ∧ fld copyKick0.word 63 58 = 0 ∧ fld (0x0400000000000000 : Word) 63 58 = 1 ∧ fld gatherKick0.word 63 58 = 2
    ∧ (match sourceOf (copy0 copyKick0) 0 (copyPlan copyKick0) 0 with
       | .ok (.word v p, u) => (match engineWrite u 0 ((copyPlan copyKick0).dst 0) v p with | .ok (.performed _) => true | _ => false)
       | _ => false) = true
    ∧ (match sourceOf (copy0 { copyKick0 with block := [0, 0, 0, 16] }) 0 (copyPlan { copyKick0 with block := [0, 0x100, 0x200, 16] }) 0 with
       | .error _ => true
       | _ => false) = true
    ∧ (∃ x ∈ (modStrand e0 ⟨.compute, 0, 0⟩ fun r => { r with run := .parked (.kickFull 0) }).strands, x.2.run = .parked (.kickFull 0))
    ∧ stencilArgsOk stencilKick0 = true ∧ stencilArgsOk gatherKick0 = false ∧ mxCode (fld (argWord stencilKick0 3) 4 0) = some .e4m3
    ∧ tokenArgsOk tokenKick0 = true ∧ tokenArgsOk (kickOf 0 []) = false ∧ e0.fabric.lostPeers.contains 7 = false ∧ mayQueue e0 7 1 = true ∧ headerOk (kickOf 0 []) = true
    ∧ endWaits (copy0 copyKick0) 0 = false ∧ (endTile { copy0 copyKick0 with caps := { e0.caps with tilemask := 1 } } 0 copyKick0).isSome = true ∧ heldBack (copy0 copyKick0) 0 copyKick0 = false ∧ endDue (copy0 copyKick0) 0 = false
    ∧ (regionFor (copy0 copyKick0) (engineActor (copy0 copyKick0) 0) winBase).isSome = true
    ∧ (gatherPacket 0 (copyPlan copyKick0) 32 0 (copy0 copyKick0)).toOption.isSome = true ∧ peerChip copyKick0 = 0 ∧ e0.fabric.lostPeers.contains 0 = false
    ∧ wantsReturn copyKick0 = false := by decide +kernel

/-- For `EngineOperations`: an End that is due with a failure and with none; a word of the table, with its element read or not; an operation whose hart
waits for host memory. -/
def ending0 (st : Nat) : State := post (copy0 copyKick0) 1 (.endOp 0 st 0)
def gather0 : State := copy0 gatherKick0

theorem meets_EngineOperations_wide : endDue (ending0 0) 0 = true ∧ endsOk (ending0 0) 0 = true ∧ endDue (ending0 3) 0 = true ∧ endsOk (ending0 3) 0 = false
    ∧ (copyPlan gatherKick0).total = 2 ∧ ((copyPlan gatherKick0).src 0).2 ≠ 0 ∧ (engineOf gather0 0).elem = none ∧ (engineOf gather0 0).gathered = []
    ∧ (match engineRead gather0 0 ((copyPlan gatherKick0).src 0).1 with | .ok (some (x, _), _) => decide (x.toNat % 8 = 0) | _ => false) = true
    ∧ (let s := writeBy putHbm gather0 (scratchLoc 0 0) [1]
       (match engineRead s 0 ((copyPlan gatherKick0).src 0).1 with | .ok (some (x, _), _) => decide (x.toNat % 8 ≠ 0) | _ => false) = true)
    ∧ (strandOf gather0 (hartOf 0)).run ≠ .free ∧ (strandOf (modStrand gather0 (hartOf 0) fun r => { r with run := .free }) (hartOf 0)).run = .free
    ∧ (∀ e ∈ [true, false], let y : Option (Nat × Word) := if e then some (0, 8) else none
       decide (y.filter (fun y => y.1 == 0 / (copyPlan gatherKick0).row) = none) = !e)
    ∧ 2 ^ 56 ≤ (copyPlan { copyKick0 with block := [0, 0, 0x0100000000000000, 8] }).dst 0 ∧ (copyPlan copyKick0).dst 0 < 2 ^ 56 := by decide +kernel


/-! ## Witnesses: mesh upkeep, power, faults, ports, fabric, host, issue -/

/-- A state with an event's data from outside at the head of its inputs. -/
def told (s : State) (x : Input) : State := { s with inputs := [x] }

theorem meets_MeshUpkeep : ([0, 5, 1] : List Nat).getD 2 0 = 1 ∧ ([0, 5] : List Nat).getD 2 0 ≠ 1 ∧ (meshOf c0 0).recal = false ∧ (mget {} (meshOf (modTrim c0 0 5 fun x => { x with undecided := true }) 0).trims 5 : Trim).undecided = true
    ∧ (mget {} (meshOf c0 0).trims 5 : Trim).undecided = false ∧ (128 - 8 < 121 ∧ 121 ≤ 128 ∧ sixteenthBits 2032 - 4 < 128) ∧ 100 < min (128 - 8) 128 ∧ 32512 ≤ 32512
    ∧ (told c0 (.figures [0, 5, 0x640, 0x700, 1])).inputs = .figures [0, 5, 0x640, 0x700, 1] :: [] ∧ (meshOf (retireMesh c0 0 3) 0).spares ≠ 0
    ∧ (meshOf (retireMesh (modMesh c0 0 fun m => { m with spares := 0 }) 0 3) 0).spares = 0 ∧ fld c0.faults.flogbase 51 12 = 0
    ∧ (sampled {} 0x640 0x700 0).excl = 0 ∧ 192 < ((0x640 : BitVec 16).toInt - (0x700 : BitVec 16).toInt).natAbs + 1 ∧ 192 < ((0x640 : BitVec 16).toInt - (0x701 : BitVec 16).toInt).natAbs
    ∧ (sampled {} 0x2000 0 0).excl = 1 ∧ (meshOf c0 0).retired = false ∧ c0.faults.queue.length < 256 := by decide +kernel

/-- The machine without a strand in a quad. -/
def idle0 : State := { c0 with strands := [] }

/-- Its quad as the spill begins. -/
def spilling0 : State := after (.deepGateEntry 0) idle0

theorem meets_PowerEvents : (∀ kind unit r, c0.inputs ≠ .figures [kind, unit] :: r) ∧ (∀ x ∈ idle0.strands, ∀ k, x.2.run ≠ .halted k) ∧ (told c0 (.figures [1, 3])).inputs = .figures [1, 3] :: [] ∧ (coreOf c0 0).level ≤ 4096
    ∧ (let s := [0, 1, 2, 3].foldl (fun s c => modCore s c fun x => { x with vfreq := 1 }) idle0
      requestedPoint s 0 < (quadOf s 0).pt ∧ s.strands = []) ∧ (quadOf (modQuad idle0 0 fun q => { q with pt := 1 }) 0).pt ≤ requestedPoint (modQuad idle0 0 fun q => { q with pt := 1 }) 0
    ∧ (quadOf idle0 0).eol = false ∧ (quadOf idle0 0).gate = 0 ∧ gateable idle0 0 = true
    ∧ (quadOf spilling0 0).gate = 1 ∧ spilling0.sched.find? (fun e => e.2 == .deepGateEntry 0) = some (spilling0.cycle + 5000, .deepGateEntry 0)
    ∧ (quadOf (modQuad c0 0 fun q => { q with gate := 2 }) 0).gate = 2 ∧ (quadOf (modQuad c0 0 fun q => { q with gate := 3 }) 0).gate = 3
    ∧ (told c0 (.figures [0, 7360])).inputs = .figures [0, 7360] :: [] ∧ 115 * 64 ≤ (BitVec.ofNat 16 7360).toInt ∧ c0.board.lit.contains 7 = true
    ∧ (∃ b ∈ c0.board.bays, b ≠ 7 ∧ b ∉ c0.board.lit) ∧ (∀ b ∈ c0.board.bays.filter (· ≠ 8), b ≠ 7 → b ∈ c0.board.lit) ∧ bit tile0.caps.tilemask 0 = true :=
  ⟨fun _ _ _ h => (nomatch h), fun _ h => (nomatch h), by decide +kernel⟩

/-- The fault log's notification word is the SYNC word. -/
def noted0 : State := { walked0 with faults := { walked0.faults with note := 0x100140 } }

/-- Firmware that does not run while a spare management core is left. -/
def down0 : State := { m0 with faults := { m0.faults with mgmtRunning := false, mgmtCores := 1, failoverLost := 3 } }

/-- Rank 3 lists positions. -/
def listed0 (l : List Nat) : State := { c0 with faults := { c0.faults with erasures := [(3, l)] } }

theorem meets_FaultLogAndRepair : fld c0.faults.flogbase 51 12 = 0 ∧ (let s := { c0 with faults := { c0.faults with flogbase := 0x1000 } }
      fld s.faults.flogbase 51 12 ≠ 0 ∧ s.faults.mgmtRunning = true)
    ∧ noteWord c0 = none ∧ noteWord noted0 = some (0x100140, 0x100140, false) ∧ isFull noted0 0x100140 = true ∧ isFull (setFull noted0 0x100140 false) 0x100140 = false
    ∧ (∀ q ∈ noted0.waiters, q.loc ≠ 0x100140) ∧ (∀ q ∈ noted0.overflow, q.loc ≠ 0x100140)
    ∧ (let s := after .notificationFillRetry { setFull noted0 0x100140 false with reserved := [(0x100140, ⟨c0.cur, 0, 0, 0, 0, false⟩)] }
      ∃ q ∈ s.waiters ++ s.overflow, q.who = .note ∧ q.loc = 0x100140)
    ∧ mfind noted0.reserved 0x100140 = none ∧ mfind noted0.tdu.bindings 0x100140 = none
    ∧ (∃ x ∈ m0.strands, ¬x.1 < 40000) ∧ (∃ x ∈ c0.strands, x.1 < 40000)
    ∧ down0.faults.mgmtRunning = false ∧ down0.faults.mgmtCores ≠ 0 ∧ fld down0.faults.flogbase 51 12 = 0 ∧ down0.faults.queue.length ≤ 254
    ∧ ([0, 0x100000] : List Nat).drop 2 = [] ∧ ([0, 0x100000] : List Nat).headD 0 ≠ 2000 ∧ ([1000, 5, 64, 3] : List Nat).headD 0 = 1000 ∧ 3 ∈ [1, 2, 3, 4, 5, 7]
    ∧ ([0, 0x100000, 1, 2, 3, 4] : List Nat).headD 0 ≠ 1000 ∧ (let ns : List Nat := [0, 0x100000, 1, 2, 3, 4]
      7 < 2 * (((ns.drop 2).map (· % 256)).filter fun p => !(mget [] c0.faults.erasures (ns.getD 0 0)).contains p).length + (mget [] c0.faults.erasures (ns.getD 0 0)).length ∧ ns.drop 2 ≠ []) ∧ c0.llc = []
    ∧ mget 4 { c0.faults with spares := [(6003, 0)] }.spares (6000 + 3) = 0 ∧ mget 4 c0.faults.spares (6000 + 3) ≠ 0
    ∧ (∀ x ∈ c0.strands, coreKey (agentOfKey x.1) = 9 → x.2.run = .free)
    ∧ (mget [] (listed0 [5]).faults.erasures 3).contains 5 = true ∧ (mget [] (listed0 [5]).faults.erasures 3).contains 6 = false
    ∧ c0.cycle < (mget (0, 0) { c0.faults with corrected := [(5, 9, 0)] }.corrected 5).1 := by decide +kernel

/-- The device before its first initialisation has a stack. -/
def bare0 : State := { c0 with caps := { c0.caps with memsplit := 0 } }

/-- For `FaultAndReset`: requests of the host that wait; an image delivered. -/
theorem meets_FaultAndReset_host : (let s := { c0 with host := { c0.host with fills := [hostFill0], held := [.mem 3 0 64 0 0 none] } }
      hostFill0 ∈ s.host.fills ∧ .mem 3 0 64 0 0 none ∈ s.host.held)
    ∧ ({ c0.board with imageNext := some (4, keyDigest, 2) } : Module).imageNext = some (4, keyDigest, 2) :=
  ⟨⟨List.mem_singleton.mpr rfl, List.mem_singleton.mpr rfl⟩, rfl⟩

theorem meets_FaultAndReset : (0 = 0 ∨ 6 < 0) ∧ 1 ≤ 6 ∧ fld c0.faults.flogbase 51 12 = 0 ∧ c0.faults.queue.length < 256
    ∧ (after (.deviceFault 3) c0).faults.fstate = 1 ∧ (after (.deviceFault 3) c0).faults.mgmtRunning = true ∧ (∀ x ∈ (after (.deviceFault 3) c0).strands, x.1 < 40000)
    ∧ (∃ b ∈ (oneBank 3 0x100000 (listed0 [5]) 5).faults.bankRepairs, b.1 = (3, 5))
    ∧ (∃ p, (told c0 (.plant p)).inputs = .plant p :: []) ∧ movedTo bare0 3 0x100040 = some 0x100040 ∧ (∀ k, k < 2 ^ 52 → movedTo bare0 3 k = some 0x100040 → k = 0x100040)
    ∧ movedTo { c0 with caps := { c0.caps with memsplit := 1 } } 3 0x100040 = some 0x200040 := by
  refine ⟨by decide, by decide, by decide +kernel, by decide +kernel, by decide +kernel, by decide +kernel, by decide +kernel, by decide +kernel, ⟨⟨0xFFFF, 0xFF, 96, 0, 0, 0, [], [], [], 0⟩, rfl⟩,
    by decide +kernel, fun k _ h => ?_, by decide +kernel⟩
  have hm : fld bare0.caps.memsplit 11 0 = 0 := by decide +kernel
  simpa [movedTo, hm] using h

/-- Port 3 in a state, with a step of its bring-up due. -/
def port0 (x : Port) : State := { c0 with fabric := { c0.fabric with ports := [(3, x)] } }

/-- A packet of a type from chip 7. -/
def packet0 (typ seq : Nat) (va : Word) (ws : List Word) : Packet := ⟨0, 0, typ, 0, 7, 5, seq, va, ws, []⟩

/-- A WRITE that waits for its acknowledgement. -/
def unacked0 (e : Option Nat) : Unacked := ⟨{ packet0 0 9 0x4000 [1] with src := 0, dst := 7 }, 0, 0, none, e⟩
def waiting0 (n : Nat) : State := { c0 with cycle := n, fabric := { c0.fabric with unacked := [unacked0 none] } }

theorem meets_PortsAndTimers : (∀ n ∈ [1, 2, 3, 4, 5, 6, 7], duePort (port0 { step := n }) n = some (3, { step := n }) ∧ (mget {} (port0 { step := n }).fabric.ports 3 : Port) = { step := n })
    ∧ useOk { step := 1 } = true ∧ useOk { step := 1, cfg := 0x1FF } = false ∧ duePort c0 7 = none
    ∧ (told (port0 { step := 5 }) (.link ⟨3, false, 0x0F7, 0x1FE, 7, 0x1FE, 0⟩)).inputs = .link ⟨3, false, 0x0F7, 0x1FE, 7, 0x1FE, 0⟩ :: []
    ∧ (port0 { step := 5 }).inputs = [] ∧ fld ({ step := 5 } : Port).cfg 9 0 &&& 0x0F7 ≠ fld ({ step := 5 } : Port).cfg 9 0
    ∧ fld ({ step := 5 } : Port).cfg 9 0 &&& 0x1FF = fld ({ step := 5 } : Port).cfg 9 0 ∧ sdel [3] 3 = []
    ∧ (let x : Port := { state := 4, active := 0xFF }
       (x.state = 4 ∧ x.active.getLsbD 2 = true ∧ (8 ≠ 2 ∧ bit x.cfg 8 = false ∧ bit x.cfg (12 + 8) = false)) ∧ x.active.getLsbD 9 = false)
    ∧ (let x : Port := { state := 4, active := 0x0F, cfg := 0x3F000F }
       (∀ c, c < 10 → c ≠ 2 → bit x.cfg c = true ∨ bit x.cfg (12 + c) = true) ∧ popNat 10 (x.active &&& ~~~(BitVec.ofNat 10 (2 ^ 2))).toNat < 4)
    ∧ unackedTo c0 7 0 = [] ∧ unackedTo (waiting0 500000) 7 0 = unacked0 none :: [] ∧ (unacked0 none).firstSent + 500000 ≤ (waiting0 500000).cycle
    ∧ (waiting0 20000).cycle < (unacked0 none).firstSent + 500000 ∧ (unacked0 none).lastSent + 20000 ≤ (waiting0 20000).cycle
    ∧ ({ c0.fabric with lostPeers := [7] } : Fabric).lostPeers.contains 7 = true ∧ c0.fabric.lostPeers.contains 7 = false ∧ fld c0.faults.flogbase 51 12 = 0
    ∧ c0.fabric.switchedAt + 160000 ≤ (waiting0 160000).cycle := by decide +kernel

theorem meets_PortsAndTimers_routes : (let s := { port0 { state := 5 } with fabric := { (port0 { state := 5 }).fabric with shadow := [(7, 0x43), (8, 0x44)] } }
      (7, 0x43) ∈ s.fabric.shadow ∧ (mget {} s.fabric.ports ((0x43 : BitVec 7).toNat % 64) : Port).state = 5 ∧ (8, 0x44) ∈ s.fabric.shadow
        ∧ (mget {} s.fabric.ports ((0x44 : BitVec 7).toNat % 64) : Port).state ≠ 5)
    ∧ (∀ v ∈ (waiting0 0).fabric.unacked ++ (waiting0 0).fabric.backlog, v.engine = none) ∧ stoppedFor c0 0 = none := by decide +kernel

/-- A packet has come in at port 3, which is UP; the map of the fabric's windows takes ASID 5 of chip 7 to ASID 0. -/
def heard0 (p : Packet) : State :=
  { told (port0 { state := 4 }) (.packet 3 p (packetTrailer p)) with fabric := { (port0 { state := 4 }).fabric with fabmap := [(0, 0xC007000500000000)] } }

/-- An operation of an engine that awaits the answer to a token request. -/
def asked0 (s : State) : State := modEngine s 0 fun x => { x with op := some tokenKick0, progress := 1 }

/-- The head of a strand record of a length in bytes. -/
def record0 (n : Nat) : Word := word (n * 2 ^ 32)

theorem heard_of {p : Packet} (h : (decide (p.payload.length ≤ 32) && (mget {} (heard0 p).fabric.ports 3).state == 4 && versionOk (heard0 p) p && decide (p.dst = (heard0 p).fabric.chipid.toNat)
    && decide ((heard0 p).faults.fstate ≠ 1) && !(heard0 p).fabric.lostPeers.contains p.src) = true) : Heard (heard0 p) { heard0 p with inputs := [] } p.typ p := by
  simp only [Bool.and_eq_true, beq_iff_eq, decide_eq_true_eq, Bool.not_eq_true'] at h
  exact ⟨3, packetTrailer p, [], rfl, by simp [packetSound, h.1.1.1.1.1], rfl, h.1.1.1.1.2, h.1.1.1.2, h.1.1.2, h.1.2, h.2, rfl⟩

theorem meets_FabricPackets : (∀ q ∈ c0.waiters, ∀ o, q.who ≠ .peer o) ∧ (∀ ty ∈ [0, 1, 2, 3, 4, 5, 6], (∃ u, Heard (heard0 (packet0 ty 0 0x100040 [1])) u ty (packet0 ty 0 0x100040 [1])))
    ∧ (mget {} c0.fabric.ports 3).state ≠ 4 ∧ versionOk c0 { packet0 0 0 0 [] with tv := 5 } = false ∧ ({ packet0 0 0 0 [] with dst := 9 }).dst ≠ c0.fabric.chipid.toNat
    ∧ 8 ≤ (packet0 9 0 0 []).typ ∧ ¬({ packet0 0 0 0 [] with seq := 1 }).seq = expected c0 7 0 ∧ (packet0 0 0 0 []).seq = expected c0 7 0
    ∧ fabMap c0 7 5 = none ∧ fabMap (heard0 (packet0 0 0 0x100040 [1])) 7 5 = some 0xC007000500000000
    ∧ 256 ≤ ({ c0.fabric with msgs := List.replicate 256 (0, []) } : Fabric).msgs.length
    ∧ ([unacked0 none].filter fun v => v.packet.dst = 7 ∧ v.packet.tc = 0) = [] ++ unacked0 none :: [] ∧ (unacked0 none).packet.seq = 9
    ∧ (takeAcked [unacked0 (some 0)] 7 0 9).1.getLast? = some (unacked0 (some 0)) ∧ (engineOf (asked0 c0) 0).op = some tokenKick0 ∧ (engineOf (asked0 c0) 0).ending = none
    ∧ (asked0 c0).engines.find? (fun x => awaits x.2 7 0) = some (0, engineOf (asked0 c0) 0)
    ∧ ([record0 2048] : List Word).length < fld (record0 2048) 63 32 / 8 ∧ fld (record0 8) 63 32 / 8 ≤ ([record0 8] : List Word).length
    ∧ takeFirst (fun x : Nat × Agent => x.1 == 7) [(7, c0.cur)] = some ((7, c0.cur), []) ∧ (strandOf (modStrand c0 c0.cur fun r => { r with run := .parked .migration }) c0.cur).run = .parked .migration := by
  refine ⟨fun _ h => (nomatch h), ?_, by decide +kernel⟩
  intro ty h
  exact ⟨_, (heard_of (p := packet0 ty 0 0x100040 [1]) (by revert ty; decide +kernel))⟩

theorem meets_FabricPackets_bad : (let p := packet0 0 0 0x100040 [1]
      packetSound p (packetTrailer p + 1) = false ∧ packetSound p (packetTrailer p) = true ∧ packetSound { p with payload := List.replicate 33 0 } 0 = false)
    ∧ (waiting0 0).fabric.backlog = [] ∧ (unackedTo (waiting0 0) 7 0).length ≤ 256 ∧ stoppedFor (asked0 c0) 0 = none
    ∧ (let b := unacked0 none
       [b].filter (fun v => v.packet.dst = 7 ∧ v.packet.tc = 0) = b :: [])
    ∧ ((takeAcked [unacked0 none] 7 0 9).2.filter fun v => v.packet.dst = 7 ∧ v.packet.tc = 0).length < 256
    ∧ (packet0 0 0 0x100040 [1]).marks.contains 0 = false ∧ ({ packet0 0 0 0x100040 [1] with marks := [0] } : Packet).marks.contains 0 = true := by decide +kernel

/-- A region of the peer's own, lent to it, that it may return or write; the runtime's translation of the first gibibytes. -/
def peerEntry0 (state : Nat) : Entry := { base := 0x1000, len := 1, holder := peerParty 7, lender := 5, state := state }

theorem meets_FabricPackets_regions :
    (heard0 (packet0 0 0 0 [])).fabric.writing = [] ∧ samePacket (packet0 0 0 0 []) (packet0 0 0 8 [7]) = true ∧ endDue (asked0 c0) 0 = false
    ∧ (match access (withEntry walked0 1 { peerEntry0 1 with transit := true }) (peerActor 7 0) none .xstore 0x100040 8 with | .error (.transit _) => true | _ => false) = true
    ∧ (match access (withEntry walked0 1 (peerEntry0 3)) (peerActor 7 0) none .xstore 0x100040 8 with | .ok ps => ps.any fun q => q.state = 3 | .error _ => false) = true
    ∧ mustWait (withEntry c0 1 (peerEntry0 1)) [] [1] = false ∧ mustWait (withEntry c0 1 { peerEntry0 1 with transit := true }) [] [1] = true ∧
    (match access (withEntry walked0 1 (peerEntry0 1)) (peerActor 7 0) none .xstore 0x100040 8 with | .ok ps => decide (ps.length = 1) && !(ps.any fun q => q.state = 3) | .error _ => false) = true
    ∧ (match access walked0 (peerActor 7 0) none .xstore 0x100040 8 with | .error (.holder ..) => true | _ => false) = true
    ∧ (match access { walked0 with walkCache := [⟨0, 4, 0, 0⟩] } (peerActor 7 0) none .xstore 0x100040 8 with | .error (.xlate ..) => true | _ => false) = true
    ∧ fld (0x0000000000010000 : Word) 19 16 = 1 ∧ fld (0x0000000000020000 : Word) 19 16 = 2 ∧ fld (0x0000000000030000 : Word) 19 16 = 3
    ∧ (tretStatus (withEntry c0 1 (peerEntry0 1)) (peerActor 7 0) (regionAt (withEntry c0 1 (peerEntry0 1)) 0 none 0x100040)).2.isSome = true
    ∧ (tretStatus c0 (peerActor 7 0) (regionAt c0 0 none 0x100040)).2 = none ∧ regionAt (withEntry c0 1 (peerEntry0 1)) 0 none 0x100040 = some (1, peerEntry0 1) ∧ (peerEntry0 1).transit = false := by decide +kernel

/-- Window 0 of the host onto the first 64 MiB of ASID 0; the region at 0x100000 is EXCL with the host as its holder, the next one SYNC. -/
def window0 : State :=
  { withEntry walked0 65535 { base := 0x1000, len := 1, holder := hostParty, state := 1 } with
    host := { walked0.host with liveCfg := [(0, 0x8000000000000001)], winCfg := [(0, 0x8000000000000001)] } }
def line0 (off : Nat) (m : BitVec 64) : State := told window0 (.line off 0x1122 m)
def faulted0 : State := { line0 0 0 with faults := { c0.faults with fstate := 1 } }

theorem meets_HostMemoryRequests : (∀ off ∈ [0, 0x100040, 0x100140, 0x8000000], (line0 off 3).inputs = .line off 0x1122 3 :: [] ∧ (line0 off 3).host.held = [])
    ∧ faulted0.inputs = .line 0 0x1122 0 :: [] ∧ faulted0.host.held = [] ∧ faulted0.faults.fstate = 1 ∧ (line0 0 0).faults.fstate ≠ 1 ∧ fld (line0 0 0).faults.flogbase 51 12 = 0
    ∧ (match hostWindow (line0 0x8000000 3) 0x8000000 with | .error _ => true | .ok _ => false) = true
    ∧ (match (hostWay window0 .xload 0x100040 64).1 with | .ok .. => true | _ => false) = true
    ∧ (match (hostWay window0 .xstore 0x100040 64).1 with
       | .ok _ _ [q] => (match q.place with | .dram pa _ => pa == 0x100040 | _ => false) && q.n == 64 && q.state == 1 | _ => false) = true
    ∧ (match (hostWay (withEntry window0 1 { base := 0x1001, len := 1, holder := hostParty, state := 3 }) .xstore 0x100140 64).1 with
       | .ok _ _ ps => ps.any fun q => q.state = 3 | _ => false) = true
    ∧ (∀ j, j < 8 → (3 : BitVec 64) ≠ BitVec.ofNat 64 (255 * 2 ^ (8 * j)))
    ∧ ({ c0 with host := { c0.host with fills := [hostFill0] } } : State).host.fills.find? (fun x => x.id = 7) = some hostFill0
    ∧ (arrive c0 (hostFillReq c0 hostFill0)).1 ≠ .busy ∧ (arrive busy0 (hostFillReq busy0 hostFill0)).1 = .busy := by decide +kernel

theorem meets_HostMemoryRequests_waiters : ∀ q ∈ c0.waiters, q.who ≠ .host 7 := fun _ h => (nomatch h)

/-- For `HostMemoryRequests`: a read of SYNC words behind a waiting Fill of the host, and one with none before it. -/
theorem meets_HostMemoryRequests_behind :
    (let s := { withEntry window0 1 { base := 0x1001, len := 1, holder := hostParty, state := 3 } with host := { window0.host with fills := [hostFill0], nextId := 9 } }
     (match hostWay { s with host := { s.host with nextId := 10 } } .xload 0x100140 64 with | (.ok _ _ ps, v) => behindFill v 9 none ps | _ => false) = true)
    ∧ (match hostWay window0 .xload 0x100040 64 with | (.ok _ _ ps, v) => !behindFill v 0 none ps | _ => false) = true := by decide +kernel

/-- A write of slot 2 of the host token port: an OP on the region at 0x100000 in ASID 0. -/
def slot0 (e : Entry) (op : Nat) : State := told (withEntry window0 65535 e) (.slot 2 0x100000 (word (op * 2 ^ 60)))

/-- A region that its lender has lent to the host. -/
def hostEntry0 : Entry := { base := 0x1000, len := 1, holder := hostParty, lender := 5, state := 1 }

theorem meets_TokenPort : (∀ op ∈ [1, 2, 3, 4], (slot0 hostEntry0 op).inputs = .slot 2 0x100000 (word (op * 2 ^ 60)) :: [] ∧ (slot0 hostEntry0 op).host.held = []
      ∧ (mget {} (slot0 hostEntry0 op).host.slots 2 : TokenSlot).done = true ∧ slotKind (word (op * 2 ^ 60)) = op % 4
      ∧ mustWait (slot0 hostEntry0 op) (slot0 hostEntry0 op).tokenQueue [65535] = false ∧ mustWait (slot0 hostEntry0 op) [([65535], .slot 3 0 0)] [65535] = true
      ∧ hostHasWindow (slot0 hostEntry0 op) 0 = true ∧ hostHasWindow { slot0 hostEntry0 op with host := {} } 0 = false
      ∧ regionFor (slot0 hostEntry0 op) (hostActor 0) 0x100000 = some (65535, hostEntry0) ∧ hostEntry0.transit = false)
    ∧ (tretStatus (slot0 hostEntry0 1) (hostActor 0) (some (65535, hostEntry0))).2.isSome = true ∧ (tretStatus (slot0 hostEntry0 1) (hostActor 0) none).2 = none
    ∧ (mget {} ([(2, { done := false })] : List (Nat × TokenSlot)) 2 : TokenSlot).done = false := by decide +kernel

theorem meets_HostProtocol : (line0 0 0).inputs = .line 0 0x1122 0 :: [] ∧ window0.host.held = [] ∧ (window0.host.fills.any fun x => decide (x.id < window0.host.nextId) && x.src.isSome) = false
    ∧ (let s := { c0 with host := { c0.host with nextId := 9, fills := [{ hostFill0 with src := some 4 }] } }
       (s.host.fills.any fun x => decide (x.id < s.host.nextId) && x.src.isSome) = true)
    ∧ (told c0 (.bar4 4 64 (List.replicate 64 0x5A))).inputs = .bar4 4 64 (List.replicate 64 0x5A) :: [] ∧ bit c0.host.p2pcfg 63 = false ∧ fld c0.faults.flogbase 51 12 = 0
    ∧ bit ({ c0.host with p2pcfg := 0x8000000000000000 } : HostSide).p2pcfg 63 = true ∧ 64 % 64 = 0 ∧ (List.replicate 64 (0x5A : Byte)).length = 64
    ∧ (told c0 (.figures [1, 5])).inputs = .figures [1, 5] :: [] := by decide +kernel

theorem meets_HostProtocol_bar0 : (told c0 (.figures [8])).inputs = .figures [8] :: [] ∧ (told c0 (.figures [8])).host.held = [] ∧ (∀ off r, c0.inputs ≠ .figures [off] :: r)
    ∧ (∀ who off bs r, c0.inputs ≠ .bar4 who off bs :: r)
    ∧ (∀ off ∈ [0, 0xFFF, 0x1000, 0x1008, 0x1010, 0x1018, 0x11FF, 0x1200], (told c0 (.figures [off])).inputs = .figures [off] :: [] ∧ off ≠ 8) :=
  ⟨rfl, rfl, fun _ _ h => (nomatch h), fun _ _ _ _ h => (nomatch h), fun _ h => ⟨rfl, by revert h; simp; omega⟩⟩

theorem meets_RegisterChecks : (let s := withStr c0 fun r => { r with part := 64 }
      (uses3 s (.g 64) (.g 1) (.g 2)).any (fun u => u.beyond (partSize s.cur (me s))) = true)
    ∧ (uses3 c0 (.g 127) (.g 1) (.g 2)).any (fun u => u.beyond (partSize c0.cur (me c0))) = false
    ∧ (let s := modStrand c0 c0.cur fun r => { r with empties := [2] }
       (uses3 s (.g 5) (.g 1) (.g 2)).any (fun u => u.beyond (partSize s.cur (me s))) = false ∧ emptyUses (me s) (uses3 s (.g 5) (.g 1) (.g 2)) = [2]) := by decide +kernel

/-- The strand whose turn it is in a state. -/
def turnOf (s : State) : Option (Agent × State) := (nextUnit s).bind fun u => (selected { s with unit := unitRank u + 1 } u).1

theorem issues_of {s : State} {b : Agent} {t : State} (h : s.sched = []) (h' : turnOf s = some (b, t)) : Issues s t := by
  refine ⟨fun e r he => by rw [h] at he; simp [nextDue] at he, ?_⟩
  unfold turnOf at h'
  cases hu : nextUnit s with
  | none => rw [hu] at h'; exact nomatch h'
  | some u => rw [hu] at h'; exact ⟨u, b, rfl, h'⟩

/-- ADD g5, g1, g2 placed where the strand fetches. -/
def placed0 : State := placeWord c0 .compute [0x02, 0x01, 0x05, 0x01]
def issued0 : State := match turnOf placed0 with | some (_, t) => t | none => placed0

theorem meets_StepRunsDecoded : Issues placed0 issued0 ∧ canTakeAsync (me issued0) = false ∧ (me issued0).dropped = none ∧ bit (me issued0).str.rep 63 = false ∧ trailingCopies issued0 = []
    ∧ (∃ u, FetchesAt issued0 (me issued0).pc [0x02, 0x01, 0x05, 0x01] u)
    ∧ (decode (clsOf issued0.cur) ([0x02, 0x01, 0x05, 0x01] ++ [])).toOption = some (.add (.g 5) (.g 1) (.g 2), []) ∧ isLong (opcodeOf (.add (.g 5) (.g 1) (.g 2))) = false := by
  refine ⟨issues_of (b := issued0.cur) (by decide +kernel) (by decide +kernel), by decide +kernel, by decide +kernel, by decide +kernel, by decide +kernel, ?_, by decide +kernel, by decide +kernel⟩
  obtain ⟨ps, h, hq⟩ := granted_and (s := issued0) (m := .fetch) (va := (me issued0).pc) (n := 4)
    (fun ps => decide (partLoc ps % 4 = 0) && decide ([0x02, 0x01, 0x05, 0x01] = match (noteParts issued0 (myself issued0) ps).icache.find?
        (fun x => x.core = coreKey issued0.cur ∧ x.line = partLoc ps / 64) with
      | some x => (List.range 4).map fun k => lineByte x.data (partLoc ps % 64 + k)
      | none => bytesBy (homeByte (noteParts issued0 (myself issued0) ps)) (partLoc ps) 4)) (by decide +kernel)
  simp only [Bool.and_eq_true, decide_eq_true_eq] at hq
  obtain ⟨hp, hb⟩ := hq
  exact ⟨_, ps, h, hp, rfl, hb⟩

theorem meets_StepRunsDecoded_rep : (let s := modStrand placed0 placed0.cur fun r => { r with str := { r.str with rep := 0x8000000000000000 }, repBuf := [(0, .add (.g 5) (.g 1) (.g 2))] }
      (turnOf s).any (fun x => bit (me x.2).str.rep 63 && decide (mfind (me x.2).repBuf (bodyIndex (me x.2)) = some (.add (.g 5) (.g 1) (.g 2))) && !canTakeAsync (me x.2) && (me x.2).dropped.isNone && decide (trailingCopies x.2 = [])) = true
        ∧ s.sched = [])
    ∧ (let s := { placed0 with sched := [(0, .refillEpoch), (9, .placement)] }
       nextDue s.cycle s.sched = some ((0, .refillEpoch), [(9, .placement)]) ∧ eventFirst .refillEpoch (nextUnit s) = true)
    ∧ (let s := { c0 with strands := [] }
       nextDue s.cycle s.sched = none ∧ nextUnit s = none)
    ∧ (turnOf (modStrand placed0 placed0.cur fun r => { r with dropped := some 8 })).any (fun x => decide ((me x.2).dropped = some 8)) = true
    ∧ (turnOf (modStrand placed0 placed0.cur fun r => { r with pending := { timer := true } })).any (fun x => (me x.2).dropped.isNone && canTakeAsync (me x.2)) = true := by
  decide +kernel

/-- MPASS placed where the strand fetches: its second word is fetched in the state that the first fetch leaves. -/
def placedLong0 : State := placeWord c0 .compute [0x07, 0x06, 0x05, 0xC3, 0x13, 0x09, 0x02, 0x03]
def issuedLong0 : State := match turnOf placedLong0 with | some (_, t) => t | none => placedLong0

theorem meets_StepRunsDecoded_long : (match fetchWord issuedLong0 (me issuedLong0).pc with
      | .ok (w, u) => w == 0xC3050607 && (match fetchWord u ((me issuedLong0).pc + 4) with | .ok (w, _) => w == 0x03020913 | _ => false)
      | _ => false) = true
    ∧ isLong (opcodeOf (.mpass (.g 5) (.g 6) (.g 7) ⟨some (3, 2), some (9, 1)⟩)) = true := by decide +kernel

theorem meets_DecodeEncode : wellFormed (.add (.g 5) (.g 1) (.g 2)) = true ∧ encode (.add (.g 5) (.g 1) (.g 2)) ≠ []
    ∧ wellFormed (.mpass (.g 5) (.g 1) (.g 2) ⟨some (4, 1), none⟩) = true ∧ encode (.mpass (.g 5) (.g 1) (.g 2) ⟨some (4, 1), none⟩) ≠ [] := by decide +kernel

theorem meets_DecodeRejects : opAssigned .compute 0xFF = false ∧ opAssigned .stack 0xB0 = true ∧ profileOk .stack 0xB0 = false
    ∧ (decode .compute [0x02, 0x01, 0x05, 0x01]).toOption = some (.add (.g 5) (.g 1) (.g 2), []) := by decide +kernel

theorem next_of {o : Host.Outcome State Fault Refusal} (h : (match o with | .next _ => true | _ => false) = true) : ∃ t, o = .next t := by
  cases o with
  | next t => exact ⟨t, rfl⟩
  | fault _ => exact nomatch h
  | refused _ => exact nomatch h

theorem meets_MemoryStaysCanonical : Memory.wf placed0.mem = true ∧ ∃ t, step placed0 = .next t := ⟨by decide +kernel, next_of (by decide +kernel)⟩

/-! ## One step, results worked by hand from the rules or taken from the spec's worked examples -/

/-- The value that an instruction brings a register: at once, or on its way. -/
def brings (i : Instr) (s : State) (n : Nat) : Option Word :=
  let t := after i s
  if !(me t).isEmpty n then some ((me t).reg n)
  else t.sched.findSome? fun e => match e.2 with
    | .resultArrival _ ds _ _ => (ds.find? fun d => d.1 = n).map (·.2)
    | _ => none

/-- The flags that are on their way with it: those of STR.FPCTL, those of STR.VFLAGS. -/
def flagsOf (i : Instr) (s : State) : Option (BitVec 6 × BitVec 6) :=
  (after i s).sched.findSome? fun e => match e.2 with | .resultArrival _ _ f v => some (f, v) | _ => none

/-- Two operands in g1 and g2. -/
def two (a b : Word) : State := withRegs c0 [(1, a), (2, b)]

/-- Values of D of instructions g5, g1, g2 on operands (R309 to R317). -/
theorem test_integer : ∀ p ∈ ([
    (.add (.g 5) (.g 1) (.g 2), 0xFFFFFFFFFFFFFFFF, 2, 1), (.sub (.g 5) (.g 1) (.g 2), 1, 2, 0xFFFFFFFFFFFFFFFF),
    (.mul (.g 5) (.g 1) (.g 2), 0xFFFFFFFFFFFFFFFE, 3, 0xFFFFFFFFFFFFFFFA), (.mulh (.g 5) (.g 1) (.g 2), 0xFFFFFFFFFFFFFFFE, 3, 0xFFFFFFFFFFFFFFFF),
    (.mulhu (.g 5) (.g 1) (.g 2), 0xFFFFFFFFFFFFFFFE, 3, 2), (.div (.g 5) (.g 1) (.g 2), 0xFFFFFFFFFFFFFFF9, 2, 0xFFFFFFFFFFFFFFFD),
    (.div (.g 5) (.g 1) (.g 2), 7, 0, 0xFFFFFFFFFFFFFFFF), (.divu (.g 5) (.g 1) (.g 2), 0xFFFFFFFFFFFFFFF9, 2, 0x7FFFFFFFFFFFFFFC),
    (.rem (.g 5) (.g 1) (.g 2), 0xFFFFFFFFFFFFFFF9, 2, 0xFFFFFFFFFFFFFFFF), (.remu (.g 5) (.g 1) (.g 2), 9, 0, 9),
    (.shl (.g 5) (.g 1) (.g 2), 1, 65, 2), (.shr (.g 5) (.g 1) (.g 2), 0x8000000000000000, 63, 1), (.sar (.g 5) (.g 1) (.g 2), 0x8000000000000000, 63, 0xFFFFFFFFFFFFFFFF),
    (.ror (.g 5) (.g 1) (.g 2), 3, 1, 0x8000000000000001), (.andn (.g 5) (.g 1) (.g 2), 0xFF, 0x0F, 0xF0), (.min (.g 5) (.g 1) (.g 2), 0xFFFFFFFFFFFFFFFF, 1, 0xFFFFFFFFFFFFFFFF),
    (.minu (.g 5) (.g 1) (.g 2), 0xFFFFFFFFFFFFFFFF, 1, 1), (.max (.g 5) (.g 1) (.g 2), 0xFFFFFFFFFFFFFFFF, 1, 1), (.maxu (.g 5) (.g 1) (.g 2), 0xFFFFFFFFFFFFFFFF, 1, 0xFFFFFFFFFFFFFFFF),
    (.slt (.g 5) (.g 1) (.g 2), 0xFFFFFFFFFFFFFFFF, 0, 1), (.sltu (.g 5) (.g 1) (.g 2), 0xFFFFFFFFFFFFFFFF, 0, 0), (.seq (.g 5) (.g 1) (.g 2), 4, 4, 1),
    (.clz (.g 5) (.g 1), 0, 0, 64), (.ctz (.g 5) (.g 1), 8, 0, 3), (.popc (.g 5) (.g 1), 0xF0F, 0, 8), (.brev (.g 5) (.g 1), 1, 0, 0x8000000000000000),
    (.adds (.g 5) (.g 1) (.g 2), 0x7FFFFFFFFFFFFFFF, 1, 0x7FFFFFFFFFFFFFFF), (.subsu (.g 5) (.g 1) (.g 2), 1, 2, 0), (.addsu (.g 5) (.g 1) (.g 2), 0xFFFFFFFFFFFFFFFF, 2, 0xFFFFFFFFFFFFFFFF),
    (.subs (.g 5) (.g 1) (.g 2), 0x8000000000000000, 1, 0x8000000000000000), (.paddI8 (.g 5) (.g 1) (.g 2), 0x01FF, 0x0101, 0x0200), (.psubI16 (.g 5) (.g 1) (.g 2), 0, 1, 0xFFFF),
    (.paddI32 (.g 5) (.g 1) (.g 2), 0x1FFFFFFFF, 1, 0x100000000), (.paddsI8 (.g 5) (.g 1) (.g 2), 0x7F80, 0x01FF, 0x7F80), (.psubsI16 (.g 5) (.g 1) (.g 2), 0x8000, 1, 0x8000)]
    : List (Instr × Word × Word × Word)), brings p.1 (two p.2.1 p.2.2.1) 5 = some p.2.2.2 := by decide +kernel

/-- Immediates on D = g1 (R315); SLTI 6720 of the worked program; the parts of `LC g5, 0x1_2345_8000` (R298). -/
theorem test_immediate : ∀ p ∈ ([
    (.li (.g 1) 0xFFFE, 0, 0xFFFFFFFFFFFFFFFE), (.lsi (.g 1) 0xEE90, 0xFFFFFFFFFFFFFFFE, 0xFFFFFFFFFFFEEE90), (.liz (.g 1) 0xFFFE, 5, 0xFFFE), (.addi (.g 1) 0xFFFF, 0, 0xFFFFFFFFFFFFFFFF),
    (.andi (.g 1) 0xFF00, 0x1234, 0x1200), (.ori (.g 1) 0x00FF, 0x1200, 0x12FF), (.xori (.g 1) 0xFFFF, 0x1234, 0xEDCB), (.shli (.g 1) 63, 3, 0x8000000000000000),
    (.shri (.g 1) 63, 0x8000000000000000, 1), (.sari (.g 1) 4, 0xFFFFFFFFFFFFFF00, 0xFFFFFFFFFFFFFFF0), (.slti (.g 1) 0x1A40, 6719, 1), (.slti (.g 1) 0x1A40, 6720, 0)]
    : List (Instr × Word × Word)), brings p.1 (two p.2.1 0) 1 = some p.2.2 := by decide +kernel

/-- The worked examples of spec/11: 1/3 in binary32, with NX; the fused product and its conversion; the two-step form. -/
theorem test_float : brings (.fdiv .rn .f 3 (.g 1) (.g 2)) (two 0x3F800000 0x40400000) 3 = some 0x3EAAAAAB ∧ flagsOf (.fdiv .rn .f 3 (.g 1) (.g 2)) (two 0x3F800000 0x40400000) = some (1, 0)
    ∧ brings (.fma .rn .f 3 (.g 1) (.g 2)) (withRegs (two 0x3F800001 0x3F7FFFFE) [(3, 0xBF800000)]) 3 = some 0xA8800000
    ∧ brings (.fcvt .rn 4 (.g 1) .f .bf) (two 0xA8800000 0) 4 = some 0xA880
    ∧ brings (.fmul .rn .f 5 (.g 1) (.g 2)) (two 0x3F800001 0x3F7FFFFE) 5 = some 0x3F800000 ∧ flagsOf (.fmul .rn .f 5 (.g 1) (.g 2)) (two 0x3F800001 0x3F7FFFFE) = some (1, 0)
    ∧ brings (.fadd .rn .f 5 (.g 1) (.g 2)) (two 0x3F800000 0xBF800000) 5 = some 0 ∧ brings (.fsub .rn .d 5 (.g 1) (.g 2)) (two 0x4000000000000000 0x3FF0000000000000) 5 = some 0x3FF0000000000000
    ∧ brings (.fsqrt .rn .d 5 (.g 1)) (two 0x4010000000000000 0) 5 = some 0x4000000000000000 ∧ brings (.fmax .f 5 (.g 1) (.g 2)) (two 0x3F800000 0xBF800000) 5 = some 0x3F800000 := by decide +kernel

/-- Branches go to the pc plus four times the offset; a call leaves the address after it (R326, R327). -/
theorem test_branches : (me (after (.bnz (.g 1) 0xFFFB) c0)).pc = (me c0).pc - 20 ∧ (me (after (.bez (.g 1) 0xFFFB) c0)).pc = (me c0).pc + 4
    ∧ (me (after (.bltz (.g 4) 2) c0)).pc = (me c0).pc + 8 ∧ (me (after (.call (.g 5) 3) c0)).pc = (me c0).pc + 12 ∧ (me (after (.call (.g 5) 3) c0)).reg 5 = (me c0).pc + 4 := by decide +kernel

/-- REP 2, 3, 2 arms STR.REP with NM1 1, KM1 2, S 2 (R172); the fields' places are those of the worked example of spec/06. -/
theorem test_rep : (me (after (.rep 1 2 2) c0)).str.rep = 0x8010000020000002 := by decide +kernel

/-- Memory with the bytes of a word at 0x100040. -/
def stored0 (w : Word) : State := writeBy putHbm c0 0x100040 (wordBytes w)

/-- Loads extend by their variant; a store writes its width, least significant byte first; the offset is scaled (R333, R334; spec/00). -/
theorem test_loads : brings (.ld8 true 5 (.g 1) 0) (stored0 0x80) 5 = some 0xFFFFFFFFFFFFFF80 ∧ brings (.ld8 false 5 (.g 1) 0) (stored0 0x80) 5 = some 0x80
    ∧ brings (.ld16 true 5 (.g 1) 1) (stored0 0x80010000) 5 = some 0xFFFFFFFFFFFF8001 ∧ brings (.ld32 true 5 (.g 1) 1) (stored0 0x8000000000000000) 5 = some 0xFFFFFFFF80000000
    ∧ brings (.ld32 false 5 (.g 1) 1) (stored0 0x8000000000000000) 5 = some 0x80000000 ∧ brings (.ld64 5 (.g 1) 0) (stored0 0x0123456789ABCDEF) 5 = some 0x0123456789ABCDEF := by decide +kernel

/-- Eight bytes of the only L1 line from an offset, as a word. -/
def lineWord (s : State) (o : Nat) : Option Word := s.l1.head?.map fun l => word (leNat ((List.range 8).map fun i => lineByte l.data (o + i)))

/-- The offset of a store counts eight bytes at every width. -/
theorem test_stores : lineWord (after (.st8 (.g 3) (.g 1) 0) (withRegs (stored0 0xFFFFFFFFFFFFFFFF) [(3, 0x1234)])) 0 = some 0x34
    ∧ ((after (.st8 (.g 3) (.g 1) 0) c0).l1.map fun l => (l.dirty, l.line)) = [(1, 0x4001)]
    ∧ lineWord (after (.st16 (.g 3) (.g 1) 3) (withRegs (stored0 0) [(3, 0x12345678)])) 24 = some 0x5678
    ∧ lineWord (after (.st32 (.g 3) (.g 1) 1) (withRegs (stored0 0) [(3, 0x1234567889ABCDEF)])) 8 = some 0x89ABCDEF
    ∧ lineWord (after (.st64 (.g 3) (.g 1) 0) (withRegs (stored0 0) [(3, 0x00FFFF0000000000)])) 0 = some 0x00FFFF0000000000 := by decide +kernel

/-- The SYNC word holds 10 and is full. -/
def ten0 : State := writeBy putHbm c0 0x100140 (wordBytes 10)

/-- Take empties a full word; Peek leaves it; Empty empties; a Fill of a full word waits; an atomic reserves the word, and its Fill brings the sum
(R137, R145, R337, R340). -/
theorem test_sync : brings (.lds (.g 5) (.g 2) 0) ten0 5 = some 10 ∧ isFull (after (.lds (.g 5) (.g 2) 0) ten0) 0x100140 = false
    ∧ brings (.ldp (.g 5) (.g 2) 0) ten0 5 = some 10 ∧ isFull (after (.ldp (.g 5) (.g 2) 0) ten0) 0x100140 = true ∧ isFull (after (.ste (.g 2) 0) ten0) 0x100140 = false
    ∧ ((after (.stf (.g 3) (.g 2) 0) ten0).waiters.map fun q => q.v) = [7]
    ∧ homeWord (after (.stf (.g 3) (.g 2) 0) (setFull ten0 0x100140 false)) 0x100140 = 7 ∧ isFull (after (.stf (.g 3) (.g 2) 0) (setFull ten0 0x100140 false)) 0x100140 = true
    ∧ (mfind (after (.aadd (.g 3) (.g 2) 0) ten0).reserved 0x100140).map (fun r => (r.old, r.new)) = some (10, 17)
    ∧ (mfind (after (.amin (.g 3) (.g 2) 0) ten0).reserved 0x100140).map (fun r => r.new) = some 7 ∧ (mfind (after (.axch (.g 3) (.g 2) 0) ten0).reserved 0x100140).map (fun r => r.new) = some 7
    ∧ (mfind (after (.acas (.g 3) (.g 2) 0) (withRegs ten0 [(3, 10), (4, 99)])).reserved 0x100140).map (fun r => r.new) = some 99 := by decide +kernel

/-- Semaphores: an add, a set, a read; a wait below its threshold parks (R152, R345). -/
theorem test_semaphores : semCount (after (.semsig (.g 5) (.k 3) (.k 2)) c0) 0 3 = 2 ∧ semCount (after (.semset (.g 5) (.k 3) (.g 3)) c0) 0 3 = 7
    ∧ (me (after (.semw (.g 5) (.k 3) (.k 1)) c0)).run = .parked (.sem 0 3 1 (some (some 5))) ∧ (me (after (.semw (.g 5) (.k 3) (.k 0)) c0)).run = .ready := by decide +kernel

/-- TRAP enters the handler: the cause and its INFO, the pc after the trap, the handler's address (R413, R416 to R418). -/
theorem test_trap : (me (after (.trap (.g 3)) handled0)).pc = 0x2000 ∧ (me (after (.trap (.g 3)) handled0)).str.txpc = (me handled0).pc + 4
    ∧ (me (after (.trap (.g 3)) handled0)).str.tcause = 0x0B00000000000007 ∧ bit (me (after (.trap (.g 3)) handled0)).str.txstat 63 = true := by decide +kernel

/-- The device's own address is translated as the worked example of spec/01 says, and lies in stack 7; its home is slice 55, or 53 of 184 (spec/02). -/
def walk0 : State :=
  let s : State := { c0 with caps := { c0.caps with memsplit := 0xFFF, asidtab := 0x200000, asidtabLive := 0x200000, llc := 0xC0000C0 } }
  [(0x200028, (0x100001 : Word)), (0x100000, 0x102001), (0x102020, 0x104001), (0x104018, 0x4C000017)].foldl (fun s x => writeBy putHbm s x.1 (wordBytes x.2)) s

theorem test_translation : (match walk walk0 5 0x400C123456 with | .ok (leaf, size, _) => some (leafPa leaf size 0x400C123456, size) | .error _ => none) = some (0x4C123456, 1)
    ∧ stackAddr walk0 0x4C123456 = (7, 0x656D456) ∧ sliceOf walk0 0x4C123456 = 55 ∧ sliceOf { walk0 with caps := { walk0.caps with llc := 0xC0000B8 } } 0x4C123456 = 53 := by decide +kernel

/-- The worked examples of spec/08: the accumulator update, the quantised block, the two dot products. -/
theorem test_formats : accAdd 0 (-8) 1234 (-3) (Fmt.value .f 0x3DCCCCCD) false = (3949, false) ∧ accAdd 3949 (-8) 1234 (-3) (Fmt.value .f 0x3DCCCCCD) false = (7898, false)
    ∧ (let b := quantBlock .f ([0x40400000, 0xBF400000, 0x42C80000, 0x3A83126F] ++ List.replicate 28 0 |>.map (Fmt.value .f)) .e4m3 .rn
       b.1 = 0x7D ∧ b.2.1.take 5 = [0x54, 0xC4, 0x7C, 0x02, 0x00])
    ∧ idot false [(1, 10000), (-1, 20000)] 2147480000 = (2147470000, 0) ∧ idot true [(1, 10000), (-1, 20000)] 2147480000 = (2147463647, flagIS) := by decide +kernel

/-- The worked example of spec/09: an input vector's codes, its aligned exponent, NANIN. -/
theorem test_alignment : (let v := alignVector .e4m3 0x7D 0x7F ([0x54, 0x7E] ++ List.replicate 30 0 ++ [0x7E, 0x5C, 0x01, 0x7F] ++ List.replicate 28 0)
    (v.1.take 2, (v.1.drop 32).take 4, v.2.1, v.2.2)) = ([1, 28], [112, 6, 0, 0], 2, 4) := by decide +kernel

/-- The worked example of spec/17: a refill epoch in one quad. -/
theorem test_refill : (let s := { tile0 with cores := [(0, ({ level := 3000, grant := 2048 } : Core)), (1, { level := 4000, grant := 2048 }), (2, { level := 10, grant := 2048, slept := true }), (3, { level := 500, grant := 2048 })] ++ [4, 5, 6, 7].map fun k => (k, { grant := 0 }) }
    let t := after .refillEpoch s
    ([0, 1, 2, 3].map fun c => (coreOf t c).level, (coreOf t 2).sleepep)) = ([4096, 4096, 4096, 3414], 1) := by decide +kernel

/-- Patrol scrub of a codeword of rank 3 with four positions wrong, some of them listed. -/
def scrubbed0 (listed : List Nat) : State := after .patrolScrub { c0 with faults := { c0.faults with erasures := [(3, listed)] }, inputs := [.figures [3, 0x100040, 5, 17, 22, 30]] }

/-- R436: a listed position that lies in one bank leaves its list at the re-initialisation. -/
theorem test_bankRepair : (faultsKept (oneBank 3 0x100000 (listed0 [5, 17]) 5).faults).erasures = [(3, [17])] := by decide +kernel

/-- R450: LENDTO 4 and LENDN 2 of port 3 are in force once port 3 and port 4 have trained. -/
theorem test_lending : (mget {} (linkWrite (port0 { state := 4, active := 0xFF }) 3 true 0x80210000000000FF).fabric.ports 3 : Port).lendWait = [3, 4]
    ∧ (lendAfter 3 { cfg := 0x80210000000000FF, state := 4, lendWait := [3, 4] }).lentOut = 0
    ∧ (lendAfter 4 (lendAfter 3 { cfg := 0x80210000000000FF, state := 4, lendWait := [3, 4] })).lentOut = 66 := by decide +kernel

/-- The worked example of R492: channel 3 does not train, and the port fails at TRAIN's bound with EYEOK 0x0F7. -/
theorem test_eye : (let t := after .up (told (port0 { state := 3, step := 6, locked := 0xFF }) (.link ⟨3, true, 0xFF, 0xF7, 7, 0xFF, 0⟩))
    ((mget {} t.fabric.ports 3 : Port).eyeok, t.sched.map (·.2))) = (0x0F7, [.failed]) := by decide +kernel

/-- R491: chip 9 takes the USE of chip 7. -/
theorem test_agreedUse : (agreed 9 ⟨3, true, 0xFF, 0xFF, 7, 0x1FE, 66⟩ {}).cfg = 0x1FE ∧ (agreed 5 ⟨3, true, 0xFF, 0xFF, 7, 0x1FE, 66⟩ {}).cfg = 0xFF := by decide +kernel

/-- The worked example of spec/15: two listed and two unlisted positions of a codeword are corrected; without the list they are not. -/
theorem test_erasures : isPoison (scrubbed0 [5, 17]) 0x100040 = false ∧ isPoison (scrubbed0 []) 0x100040 = true := by decide +kernel

/-- VRED.bf over groups of four, in the two orders of the worked example of spec/13; VADD of 32-bit lanes wraps. -/
def lanesBf (ls : List Nat) : State := withCore v0 fun c => { c with lv := [(1, lvOf .bf ls)] }

theorem test_vred : (lvLanes (after (.vred .bf 2 (.lv 1) 2 .add) (lanesBf [0x3F80, 0x3B80, 0x3B80, 0])) .bf 2).head? = some 0x3F80 := by decide +kernel

theorem test_vred_order : (lvLanes (after (.vred .bf 2 (.lv 1) 2 .add) (lanesBf [0x3B80, 0x3B80, 0x3F80, 0])) .bf 2).head? = some 0x3F81 := by decide +kernel

theorem test_vadd : (lvLanes (after (.vadd .i32 2 (.lv 1) (.k 2)) (withCore v0 fun c => { c with lv := [(1, lvOf .i32 [0xFFFFFFFF, 5])] })) .i32 2).take 3 = [1, 7, 2] := by decide +kernel

/-- The state once the first result on its way has arrived. -/
def arrived0 (s : State) : State :=
  match s.sched.find? fun e => match e.2 with | .resultArrival .. => true | _ => false with
  | some e => after e.2 s
  | none => s

/-- SVALU and SRED of 32-bit lanes (R403); the register of SVALU's result is empty until it arrives (R402). -/
theorem test_stack : (me (after (.svalu .i32 .sub 2 1 (.k 1)) k0)).isEmpty (svMark 2) = true
    ∧ (svLanesOf (arrived0 (after (.svalu .i32 .sub 2 1 (.k 1)) (putSv k0 1 (ofLanes 1024 32 [0, 9])))) .i32 2).take 2 = [0xFFFFFFFF, 8]
    ∧ brings (.sred (.g 5) 1 .i32 .add) (putSv k0 1 (ofLanes 1024 32 [3, 4, 0xFFFFFFFF])) 5 = some 6 := by decide +kernel

/-- A mesh request joins its core's queue with its operand (R179); ACLR names tile 3 and exponent −8 as in spec/13. -/
theorem test_mesh_queue : ((coreOf (after (.aclr (.g 5) (.k 3) (.g 4) noClauses) (withRegs c0 [(4, 0xFFFFFFFFFFFFFFF8)])) 0).meshQueue.map fun q => (q.kind, q.a, q.b, q.dst))
    = [(6, 3, 0xFFFFFFFFFFFFFFF8, some 5)] := by decide +kernel

/-- The worked example of R433: a pair whose trailing strand offers 3 for a store of 1 is killed, and no byte is stored;
its own sum of the differing register stays its own. -/
def pair0 (x : Word) : State :=
  let s := withRegs c0 [(3, 1)]
  putStrand (modStrand s s.cur fun r => { r with pair := some ⟨.compute, 1, 0⟩ }) ⟨.compute, 1, 0⟩ { run := .parked .trailing, regs := [(3, x)] }

def pairOutcome (i : Instr) (x : Word) : Option (Nat × Bool × List (Nat × Nat)) :=
  match runPaired i (pair0 x) with
  | .next t => some (t.faults.kills, t.l1.isEmpty && decide (t.mem = (pair0 x).mem), (strandOf t ⟨.compute, 1, 0⟩).regs.map fun x => (x.1, x.2.toNat))
  | _ => none

theorem test_pair : pairOutcome (.st64 (.g 3) (.g 1) 0) 3 = some (1, true, []) ∧ pairOutcome (.add (.g 5) (.g 3) (.g 3)) 3 = some (0, true, [(3, 3), (5, 6)]) := by decide +kernel

end Sys2Proof.Tests
end

section
/-! SUPPORT. What a device fault, a re-initialisation and a reset leave (R12, R429 to R431): the lemmas of the operations that they share with other
events, then the statements about them. -/

namespace Sys2Proof.Machine

/-! ## Scheduled events -/

theorem mem_insertEvent_iff (q : List (Nat × Instr)) (c : Nat) (i : Instr) (e : Nat × Instr) : e ∈ insertEvent q c i ↔ e = (c, i) ∨ e ∈ q := by
  induction q with
  | nil => simp [insertEvent]
  | cons f r ih =>
    obtain ⟨c', j⟩ := f
    simp only [insertEvent]
    split
    · simp
    · simp only [List.mem_cons, ih]; exact or_left_comm

/-- An event that is posted joins those scheduled, and none goes. -/
theorem mem_post_sched (s : State) (d : Nat) (i : Instr) (e : Nat × Instr) : e ∈ (post s d i).sched ↔ e = (s.cycle + d, i) ∨ e ∈ s.sched :=
  mem_insertEvent_iff ..

/-! ## Lookups in maps that are built anew -/

theorem mfind_map_value {α β : Type} (f : Nat × α → β) (m : List (Nat × α)) (k : Nat) :
    mfind (m.map fun x => (x.1, f x)) k = (mfind m k).map fun v => f (k, v) := by
  induction m with
  | nil => rfl
  | cons e r ih =>
    obtain ⟨j, v⟩ := e
    simp only [List.map_cons, mfind, ih]
    split
    · subst_vars; rfl
    · rfl

theorem mfind_map_key {α : Type} (f : Nat → α) (ks : List Nat) {k : Nat} (h : k ∈ ks) : mfind (ks.map fun j => (j, f j)) k = some (f k) := by
  induction ks with
  | nil => exact absurd h List.not_mem_nil
  | cons j r ih =>
    simp only [List.map_cons, mfind]
    split
    · subst_vars; rfl
    · next hj => exact ih ((List.mem_cons.mp h).resolve_left (Ne.symm hj))

/-! ## Answers to the host (R430, R444) -/

/-- The state with answers given. -/
def giveAnswers (s : State) (xs : List Answer) : State := { s with host := { s.host with answers := s.host.answers ++ xs } }

/-- What a refused write is answered with: the media event, and the completion of a CXL.mem write. -/
def writeRefusal (off : Nat) (src : Option Nat) : List Answer := .mediaEvent off :: if src.isNone then [.done off] else []

/-- What a request that waits is answered with at a device fault. -/
def heldRefusal : HostReq → List Answer
  | .mem _ op off _ _ src => if op = 0 then [.line off 0 true] else writeRefusal off src
  | .flush _ => [.word 8 0]

theorem refuseWrite_eq (s : State) (off : Nat) (src : Option Nat) : refuseWrite s off src = giveAnswers s (writeRefusal off src) := by
  cases src with
  | none => simp [refuseWrite, completeWrite, answer, giveAnswers, writeRefusal]
  | some _ => rfl

/-- A fold whose steps give answers gives them all, in order. -/
theorem foldl_giveAnswers {α : Type} (f : State → α → State) (g : α → List Answer) (h : ∀ s x, f s x = giveAnswers s (g x)) (l : List α) (s : State) :
    l.foldl f s = giveAnswers s (l.flatMap g) := by
  induction l generalizing s with
  | nil => simp [giveAnswers]
  | cons x r ih => rw [List.foldl_cons, ih, h]; simp [giveAnswers]

/-- The answers to all that waits. -/
def refusals (h : HostSide) : List Answer := h.held.flatMap heldRefusal ++ h.fills.flatMap fun f => writeRefusal f.off f.src

/-- Refusing what waits gives answers and does nothing else. -/
theorem refuseHeld_eq (s : State) : refuseHeld s = giveAnswers s (refusals s.host) := by
  unfold refuseHeld
  extract_lets t
  have ht : t = giveAnswers s (s.host.held.flatMap heldRefusal) := by
    refine foldl_giveAnswers _ heldRefusal (fun s h => ?_) _ s
    cases h with
    | flush _ => rfl
    | mem _ op off _ _ src =>
      simp only [heldRefusal]
      split
      · rfl
      · exact refuseWrite_eq ..
  rw [foldl_giveAnswers _ (fun f => writeRefusal f.off f.src) fun s f => refuseWrite_eq s f.off f.src, ht]
  simp [giveAnswers, refusals]

theorem mediaEvent_mem_writeRefusal (off : Nat) (src : Option Nat) : Answer.mediaEvent off ∈ writeRefusal off src := List.mem_cons_self

/-- A Fill of the host that waits has its media event. -/
theorem mediaEvent_mem_refusals {h : HostSide} {f : HostFill} (hf : f ∈ h.fills) : Answer.mediaEvent f.off ∈ refusals h :=
  List.mem_append_right _ (List.mem_flatMap.mpr ⟨f, hf, mediaEvent_mem_writeRefusal ..⟩)

/-- A memory request that waits is answered: a read with poison, a write with its media event. -/
theorem answer_mem_refusals {h : HostSide} {i op off : Nat} {x : BitVec 512} {y : BitVec 64} {src : Option Nat}
    (hm : .mem i op off x y src ∈ h.held) : (if op = 0 then Answer.line off 0 true else Answer.mediaEvent off) ∈ refusals h := by
  refine List.mem_append_left _ (List.mem_flatMap.mpr ⟨_, hm, ?_⟩)
  simp only [heldRefusal]
  split
  · exact List.mem_singleton_self _
  · exact mediaEvent_mem_writeRefusal ..

/-! ## The alert and records without a ring -/

/-- The alert pin asserts the alert and restarts strands, with their turns: nothing else changes (R412). -/
theorem alertPin_frame (s : State) : ∃ ss cs, alertPin s = { s with board := { s.board with alert := true }, strands := ss, cores := cs } := by
  refine foldl_keeps (fun t => ∃ ss cs, t = { s with board := { s.board with alert := true }, strands := ss, cores := cs }) _ _ _ ?_ ?_
  · exact ⟨_, _, rfl⟩
  · rintro t x ⟨ss, cs, rfl⟩
    exact ⟨_, _, rfl⟩

/-- With no ring a record waits in the queue, while that has room, or is counted as lost; nothing else changes (R422). -/
theorem record_without_ring (s : State) {kind sev : Nat} (asid : Nat) (party : Party) (unit : Nat) (addr d0 d1 d2 pc : Word)
    (hring : fld s.faults.flogbase 51 12 = 0) (hkind : kind < 256) (hsev : sev < 4) :
    ∃ q l n, record s kind sev asid party unit addr d0 d1 d2 pc = { s with faults := { s.faults with queue := q, lost := l, failoverLost := n } }
      ∧ (s.faults.queue.length < 256 → ∃ w, q = s.faults.queue ++ [w] ∧ fld (w.getD 0 0) 63 56 = kind) := by
  have hword : fld (word (kind * 2 ^ 56 + sev * 2 ^ 54 + asid % 4096 * 2 ^ 32)) 63 56 = kind := by
    simp only [fld, bitsOf, word, BitVec.toNat_ofNat]; omega
  unfold record
  simp only [hring, true_or, if_true]
  split
  · exact ⟨_, _, _, rfl, fun _ => ⟨_, rfl, hword⟩⟩
  · next hfull =>
    split
    · exact ⟨_, _, _, rfl, fun h => absurd h hfull⟩
    · exact ⟨_, _, _, rfl, fun h => absurd h hfull⟩

/-! ## A device fault (R429, R430) -/

/-- The device as a fault leaves it before the alert and the record: what is in flight is gone, FSTAT shows the fault. -/
def discarded (s : State) (cause : Nat) : State :=
  { s with
    sched := s.sched.filter fun e => outlivesFault e.2 && e.2 != .dumpComplete && e.2 != .reinitialisation
    tokenQueue := []
    waiters := s.waiters.filter fun q => q.who == .note
    reserved := []
    fabric := { s.fabric with writing := [] }
    faults := { s.faults with fstate := 1, cause := cause, faultAt := s.cycle, epoch := s.faults.epoch + 1, faults := s.faults.faults + 1,
                              dumpok := false, dump := [] }
    host := { s.host with held := [], fills := [] } }

/-- What follows a fault: the dump where a management core runs, unless it is the second fault, and the re-initialisation. -/
def recovering (second : Bool) (s : State) : State :=
  post (if second || !s.faults.mgmtRunning then s else post s 375000000 .dumpComplete) (if second then 0 else 1000000000) .reinitialisation

/-- Whether a fault comes before the dump of an earlier one is complete (R430). -/
def secondFault (s : State) : Bool := decide (s.faults.fstate = 1) && !s.faults.dumpok

theorem exec_deviceFault (cause : Nat) (s : State) : exec (.deviceFault cause) s = execDeviceFault cause s := rfl

/-- A device fault answers what waits, discards what is in flight, asserts the alert, records itself, and posts its recovery. -/
theorem deviceFault_next (s : State) {cause : Nat} (h1 : 1 ≤ cause) (h6 : cause ≤ 6) (hring : fld s.faults.flogbase 51 12 = 0) :
    let d := discarded (giveAnswers s (refusals s.host)) cause
    ∃ ss cs q l n, exec (.deviceFault cause) s = .next (recovering (secondFault s) { d with
        board := { d.board with alert := true }, strands := ss, cores := cs, faults := { d.faults with queue := q, lost := l, failoverLost := n } })
      ∧ (s.faults.queue.length < 256 → ∃ w, q = s.faults.queue ++ [w] ∧ fld (w.getD 0 0) 63 56 = 3) := by
  intro d
  obtain ⟨ss, cs, halert⟩ := alertPin_frame d
  obtain ⟨q, l, n, hrecord, hqueue⟩ := record_without_ring (alertPin d) (kind := 3) (sev := 2) 0 0 0 0 (word cause)
    (word (alertPin d).faults.epoch.toNat) 0 0 (by rw [halert]; exact hring) (by decide) (by decide)
  rw [halert] at hrecord hqueue
  refine ⟨ss, cs, q, l, n, ?_, hqueue⟩
  rw [← hrecord, ← halert]
  rw [exec_deviceFault, execDeviceFault, if_neg (by omega), refuseHeld_eq]
  rfl

/-- A code that the table does not give does nothing. -/
theorem deviceFault_reserved (s : State) {cause : Nat} (h : cause = 0 ∨ 6 < cause) : exec (.deviceFault cause) s = .next s := if_pos h

theorem secondFault_iff (s : State) : secondFault s = true ↔ s.faults.fstate = 1 ∧ s.faults.dumpok = false := by simp [secondFault]

section
variable (second : Bool) (s : State)
@[simp] theorem recovering_tokenQueue : (recovering second s).tokenQueue = s.tokenQueue := by unfold recovering; split <;> rfl
@[simp] theorem recovering_waiters : (recovering second s).waiters = s.waiters := by unfold recovering; split <;> rfl
@[simp] theorem recovering_reserved : (recovering second s).reserved = s.reserved := by unfold recovering; split <;> rfl
@[simp] theorem recovering_fabric : (recovering second s).fabric = s.fabric := by unfold recovering; split <;> rfl
@[simp] theorem recovering_host : (recovering second s).host = s.host := by unfold recovering; split <;> rfl
@[simp] theorem recovering_faults : (recovering second s).faults = s.faults := by unfold recovering; split <;> rfl
@[simp] theorem recovering_board : (recovering second s).board = s.board := by unfold recovering; split <;> rfl
end

theorem mem_recovering_sched (second : Bool) (s : State) (e : Nat × Instr) :
    e ∈ (recovering second s).sched ↔ e = (s.cycle + if second then 0 else 1000000000, .reinitialisation)
      ∨ (second = false ∧ s.faults.mgmtRunning = true ∧ e = (s.cycle + 375000000, .dumpComplete)) ∨ e ∈ s.sched := by
  unfold recovering
  rw [mem_post_sched]
  cases second <;> cases s.faults.mgmtRunning <;> simp [mem_post_sched]

/-- The re-initialisation is among the events. -/
theorem reinitialisation_mem_recovering (second : Bool) (s : State) :
    (s.cycle + if second then 0 else 1000000000, Instr.reinitialisation) ∈ (recovering second s).sched := (mem_recovering_sched ..).mpr (.inl rfl)

section
variable (second : Bool) {s : State} (hkept : ∀ e ∈ s.sched, outlivesFault e.2 = true ∧ e.2 ≠ .dumpComplete)
include hkept

/-- Where all that is scheduled outlives the fault, so does all that is after the recovery is posted. -/
theorem outlivesFault_of_mem_recovering : ∀ e ∈ (recovering second s).sched, outlivesFault e.2 = true := by
  intro e he
  obtain rfl | ⟨-, -, rfl⟩ | he := (mem_recovering_sched ..).mp he
  · rfl
  · rfl
  · exact (hkept e he).1

/-- Where no dump's end was scheduled, one is after the first fault of a device whose management core runs. -/
theorem dumpComplete_mem_recovering :
    (s.cycle + 375000000, Instr.dumpComplete) ∈ (recovering second s).sched ↔ second = false ∧ s.faults.mgmtRunning = true := by
  rw [mem_recovering_sched]
  refine ⟨fun h => ?_, fun h => .inr (.inl ⟨h.1, h.2, rfl⟩)⟩
  obtain h | ⟨hsecond, hrun, -⟩ | h := h
  · exact nomatch congrArg Prod.snd h
  · exact ⟨hsecond, hrun⟩
  · exact absurd rfl (hkept _ h).2
end

/-- What a fault keeps scheduled outlives it, and is no dump's end. -/
theorem discarded_sched (s : State) (cause : Nat) :
    ∀ e ∈ (discarded s cause).sched, outlivesFault e.2 = true ∧ e.2 ≠ .dumpComplete := by
  intro e he
  have hkept := (List.mem_filter.mp he).2
  simp only [Bool.and_eq_true, bne_iff_ne] at hkept
  exact hkept.1

/-! ## What goes on during a fault (R430) -/

/-- During a fault, with no strand of the management core, the end of a cycle moves the time alone. -/
theorem endCycle_in_fault {s : State} (hfault : s.faults.fstate = 1) (hnone : ∀ x ∈ s.strands, x.1 < 40000) :
    endCycle s = { s with cycle := s.cycle + 1, unit := 0 } := by
  have hidle : (s.strands.filter fun x => !true || decide (40000 ≤ x.1)) = [] := by
    simpa [List.filter_eq_nil_iff] using fun k r h => hnone (k, r) h
  simp only [endCycle, hfault, decide_true, if_true, hidle, List.foldl_nil]

theorem exec_dumpComplete (s : State) : exec .dumpComplete s = execDumpComplete s := rfl

/-- The dump of a running management core stands complete, and memory reads as before. -/
theorem dumpComplete_next {s : State} (hfault : s.faults.fstate = 1) (hrun : s.faults.mgmtRunning = true) :
    ∃ t, exec .dumpComplete s = .next t ∧ t.faults.dumpok = true ∧ t.faults.dump = (dumpOf s).bytes ∧ SameMemory s t := by
  rw [exec_dumpComplete, execDumpComplete, if_pos ⟨hfault, hrun⟩]
  exact ⟨_, rfl, rfl, rfl, fun _ => ⟨rfl, rfl, rfl, rfl⟩⟩

/-! ## Memory at a re-initialisation (R26, R431) -/

/-- Of the memory below the side memories each byte goes where its location does; the first listed at a place stands there. -/
theorem mget_movedMemory_cons (s : State) (set k : Nat) (v : Byte) (mem : Memory) (j : Nat) :
    mget memDefault (movedMemory { s with mem := (k, v) :: mem } set) j
      = if movedTo s set k = some j ∧ k < 2 ^ 52 ∧ j < 2 ^ 52 then v else mget memDefault (movedMemory { s with mem := mem } set) j := by
  have hto (m : Memory) : movedTo { s with mem := m } set = movedTo s set := rfl
  simp only [movedMemory, List.foldr_cons, hto]
  cases h : movedTo s set k with
  | none => simp
  | some l =>
    simp only [Option.some.injEq]
    by_cases hlj : l = j
    · subst hlj; simp only [true_and]; split
      · exact mget_mput_self ..
      · rfl
    · simp only [hlj, false_and, if_false]; split
      · rw [mget_mput, if_neg hlj]
      · rfl

/-- Where one location alone comes to a place, the place holds what the location held. -/
theorem hbmByte_movedMemory {s : State} {set l m : Nat} (hl : l < 2 ^ 52) (hm : m < 2 ^ 52) (hto : movedTo s set l = some m)
    (huniq : ∀ k, k < 2 ^ 52 → movedTo s set k = some m → k = l) : mget memDefault (movedMemory s set) m = hbmByte s l := by
  suffices h : ∀ mem : Memory, mget memDefault (movedMemory { s with mem := mem } set) m = mget memDefault mem l from h s.mem
  intro mem
  induction mem with
  | nil => rfl
  | cons e r ih =>
    obtain ⟨k, v⟩ := e
    rw [mget_movedMemory_cons]
    by_cases hk : k = l
    · subst hk; rw [if_pos ⟨hto, hl, hm⟩]; simp [mget, mfind]
    · rw [if_neg fun hc => hk (huniq k hc.2.1 hc.1), ih]; simp [mget, mfind, hk]

/-- The side memories are empty. -/
theorem movedMemory_above (s : State) (set : Nat) {m : Nat} (hm : 2 ^ 52 ≤ m) : mget memDefault (movedMemory s set) m = memDefault := by
  suffices h : ∀ mem : Memory, mget memDefault (movedMemory { s with mem := mem } set) m = memDefault from h s.mem
  intro mem
  induction mem with
  | nil => rfl
  | cons e r ih => rw [mget_movedMemory_cons, if_neg fun hc => absurd hc.2.2 (Nat.not_lt.mpr hm)]; exact ih

/-- With the stacks as they were, or none enabled before, every location stays. -/
theorem movedTo_same {s : State} {set : Nat} (h : fld s.caps.memsplit 11 0 = 0 ∨ fld s.caps.memsplit 11 0 = set) (l : Nat) :
    movedTo s set l = some l := if_pos (Or.inr h)

/-! ## The parts of a re-initialisation (R431, R436, R471) -/

/-- An image delivered runs where its signature verifies and its version is not below the counter. -/
theorem booted_image {m : Module} {n : Nat} {key : BitVec 256} {v : Nat} (h : m.imageNext = some (n, key, v)) :
    (booted m).image = if key = keyDigest ∧ m.fuses ≤ v then n else m.image := by
  simp only [booted, h]; split <;> rfl

/-- A position whose bank is remapped leaves its rank's list. -/
theorem erasures_faultsKept {f : FaultSide} {b : (Nat × Nat) × Nat} (hb : b ∈ f.bankRepairs) :
    (mget [] (faultsKept f).erasures b.1.1).contains b.1.2 = false := by
  simp only [faultsKept, mget, mfind_map_value]
  cases mfind f.erasures b.1.1 with
  | none => rfl
  | some ps =>
    simp only [Option.map_some, Option.getD_some, List.contains_eq_mem, decide_eq_false_iff_not, List.mem_filter, not_and, Bool.not_eq_true']
    intro _ hno
    exact List.any_eq_false.mp hno b hb (decide_eq_true rfl)

/-- Every port is enabled. -/
theorem port_enabled_reinitialised (s : State) (p : Plant) {k : Nat} (hk : k < 48) :
    bit (mget {} (reinitialised s p).fabric.ports k : Port).cfg 63 = true := by
  have hport : (mget {} (reinitialised s p).fabric.ports k : Port) = portTrained s k := by
    simp only [reinitialised, mget, mfind_map_key _ _ (List.mem_range.mpr hk), Option.getD_some]
  rw [hport]
  simp only [portTrained]
  decide

/-- A property of states that every event of the clocks keeps holds once they have started. -/
theorem startClocks_keeps (P : State → Prop) {s : State} (hs : P s)
    (hstep : ∀ t d i, i = .healthCertificate ∨ i = .refillEpoch ∨ i = .linkEnable ∨ (∃ k, i = .probeSlot k) ∨ (∃ k, i = .trimLoop k) → P t → P (post t d i)) :
    P (startClocks s) := by
  refine foldl_keeps P _ _ _ ?_ fun t k ht => hstep _ _ _ (by simp) (hstep _ _ _ (by simp) ht)
  refine foldl_keeps P _ _ _ ?_ fun t _ ht => hstep _ _ _ (by simp) ht
  exact hstep _ _ _ (by simp) (hstep _ _ _ (by simp) hs)

/-- The clocks start by events alone. -/
theorem startClocks_frame (s : State) : ∃ q, startClocks s = { s with sched := q } := by
  refine startClocks_keeps (fun t => ∃ q, t = { s with sched := q }) ⟨s.sched, rfl⟩ ?_
  rintro t d i - ⟨q, rfl⟩
  exact ⟨_, rfl⟩

/-- The ports begin their bring-up in the cycle in which the clocks start. -/
theorem linkEnable_mem_startClocks (s : State) : (s.cycle, Instr.linkEnable) ∈ (startClocks s).sched := by
  have hkeeps {t : State} (ht : t.cycle = s.cycle ∧ (s.cycle, Instr.linkEnable) ∈ t.sched) (d : Nat) (i : Instr) :
      (post t d i).cycle = s.cycle ∧ (s.cycle, Instr.linkEnable) ∈ (post t d i).sched := ⟨ht.1, (mem_post_sched ..).mpr (.inr ht.2)⟩
  refine (foldl_keeps (fun t : State => t.cycle = s.cycle ∧ (s.cycle, Instr.linkEnable) ∈ t.sched) _ _ _ ?_ fun t k ht => hkeeps (hkeeps ht _ _) _ _).2
  rw [List.range_succ, List.foldl_append, List.foldl_cons, List.foldl_nil, post_cycle, mem_post_sched]
  have hcycle (t : State) : ((List.range 47).foldl (fun s _ => post s 0 .linkEnable) t).cycle = t.cycle := foldl_same State.cycle _ _ _ fun _ _ => rfl
  rw [hcycle]
  exact ⟨rfl, .inl rfl⟩

/-- Neither what a re-initialisation keeps nor what it starts is another one. -/
theorem no_reinitialisation_in_startClocks (s : State) (p : Plant) :
    ∀ e ∈ (startClocks (reinitialised s p)).sched, e.2 ≠ Instr.reinitialisation := by
  refine startClocks_keeps (fun t => ∀ e ∈ t.sched, e.2 ≠ Instr.reinitialisation) ?_ ?_
  · intro e he
    have hkept := (List.mem_filter.mp he).2
    simp only [Bool.and_eq_true, bne_iff_ne] at hkept
    exact hkept.2
  · rintro t d i hi ht e he
    obtain rfl | he := (mem_post_sched ..).mp he
    · obtain rfl | rfl | rfl | ⟨_, rfl⟩ | ⟨_, rfl⟩ := hi <;> exact nofun
    · exact ht e he

theorem exec_reinitialisation (s : State) : exec .reinitialisation s = execReinitialisation s := rfl

/-- A re-initialisation builds the state anew, starts its clocks, and records what it repaired and gave up. -/
theorem reinitialisation_next {s : State} {p : Plant} {r : List Input} (hin : s.inputs = .plant p :: r) :
    exec .reinitialisation s = .next (repairRecords p s (startClocks (reinitialised { s with inputs := r } p))) := by
  simp only [exec_reinitialisation, execReinitialisation, hin]

/-! ## The statements -/

/-- Settles O58: what reset leaves is its record's defaults, an unlisted strand, quad or port the default one. -/
theorem resetState : Obligations.ResetState :=
  ⟨reset_canonical, rfl, rfl, rfl, rfl, fun _ => ⟨rfl, rfl, rfl, rfl, rfl⟩, fun _ => ⟨rfl, rfl, rfl, rfl⟩, fun _ => ⟨rfl, (by decide : fld ({} : Port).cfg 9 0 = 0x0FF)⟩⟩

/-- Settles O47: a device fault by what it leaves (`deviceFault_next`) and posts (`mem_recovering_sched`), the cycles during it, the dump, a
re-initialisation by its state built anew and the clocks started on it (`startClocks_frame`), and reset by its record. -/
theorem faultAndReset : Obligations.FaultAndReset := by
  refine ⟨fun s cause => ⟨deviceFault_reserved s, fun h1 h6 hring => ?fault⟩, fun s hfault hnone => endCycle_in_fault hfault hnone,
    fun s hfault hrun => dumpComplete_next hfault hrun, fun s p r hin => ?reinitialisation, fun s => ⟨_, rfl, rfl, rfl, rfl, rfl, rfl, rfl, rfl, rfl, rfl, rfl⟩⟩
  case fault =>
    obtain ⟨ss, cs, q, l, n, hexec, hqueue⟩ := deviceFault_next s h1 h6 hring
    have hkept := discarded_sched (giveAnswers s (refusals s.host)) cause
    refine ⟨_, hexec, ?_⟩
    rw [recovering_tokenQueue, recovering_waiters, recovering_reserved, recovering_fabric, recovering_host, recovering_faults, recovering_board]
    refine ⟨rfl, rfl, rfl, rfl, rfl, rfl, rfl, rfl, rfl, rfl, fun f hf => List.mem_append_right _ (mediaEvent_mem_refusals hf),
      fun i op off x y src hm => List.mem_append_right _ (answer_mem_refusals hm), rfl, rfl, rfl,
      fun w hw => eq_of_beq (List.mem_filter.mp hw).2, ?_, outlivesFault_of_mem_recovering _ hkept, ?_, hqueue⟩
    · simp only [← secondFault_iff]; exact reinitialisation_mem_recovering ..
    · rw [← secondFault_iff, Bool.not_eq_true]; exact dumpComplete_mem_recovering _ hkept
  case reinitialisation =>
    obtain ⟨q, hq⟩ := startClocks_frame (reinitialised { s with inputs := r } p)
    have hlink := linkEnable_mem_startClocks (reinitialised { s with inputs := r } p)
    have hnone := no_reinitialisation_in_startClocks { s with inputs := r } p
    have hports := fun k => port_enabled_reinitialised { s with inputs := r } p (k := k)
    refine ⟨_, _, reinitialisation_next hin, rfl, ?_⟩
    rw [hq] at hlink hnone ⊢
    refine ⟨rfl, rfl, rfl, rfl, rfl, rfl, rfl, rfl, rfl, rfl, rfl, ⟨fun l m hl hm hto huniq => hbmByte_movedMemory hl hm hto huniq,
      fun hset l hl => ?_, fun l hl => movedMemory_above _ _ hl⟩, rfl, rfl, rfl, hnone, rfl, fun n key v himage => booted_image himage, hports, hlink,
      fun b hb => erasures_faultsKept hb, ?_⟩
    · exact hbmByte_movedMemory hl hl (movedTo_same hset l) fun k _ hk => Option.some.inj ((movedTo_same hset k).symm.trans hk)
    · exact fun x hx => of_decide_eq_true (List.mem_filter.mp hx).2

end Sys2Proof.Machine
end

section
/-! SUPPORT. Fences (R124, R125, R342): what writing lines back leaves of the strands, what a fence that issues and one that completes leave, then
the statement about them. -/

namespace Sys2Proof.Machine

/-! ## Lines written back (R57, R58) -/

/-- A write-back leaves the cycle, the executing agent, and of every strand's record all but its STR registers; of these the repetition stays. -/
structure WrittenBack (s t : State) : Prop where
  cycle : t.cycle = s.cycle
  cur : t.cur = s.cur
  strand : ∀ a, ∃ str : StrRegs, str.rep = (strandOf s a).str.rep ∧ strandOf t a = { strandOf s a with str := str }

variable {s t : State}

theorem WrittenBack.refl (s : State) : WrittenBack s s := ⟨rfl, rfl, fun _ => ⟨_, rfl, rfl⟩⟩

/-- What touches neither the strands nor the cycle nor the executing agent is part of a write-back. -/
theorem WrittenBack.of_strands {u : State} (h : WrittenBack s t) (hs : u.strands = t.strands) (hy : u.cycle = t.cycle) (hc : u.cur = t.cur) :
    WrittenBack s u :=
  ⟨hy.trans h.cycle, hc.trans h.cur, fun a => by
    have hu : strandOf u a = strandOf t a := by unfold strandOf; rw [hs]
    rw [hu]; exact h.strand a⟩

/-- A change of a strand's STR registers that leaves the repetition is part of a write-back. -/
theorem WrittenBack.modStr (h : WrittenBack s t) (a : Agent) {f : Strand → Strand}
    (hf : ∀ r, ∃ x : StrRegs, x.rep = r.str.rep ∧ f r = { r with str := x }) : WrittenBack s (modStrand t a f) := by
  refine ⟨h.cycle, h.cur, fun b => ?_⟩
  rw [strandOf_modStrand]
  split
  · next hkey =>
    have hab : strandOf t a = strandOf t b := by unfold strandOf; rw [hkey]
    obtain ⟨x, hrep, hx⟩ := h.strand b
    obtain ⟨y, hrep', hy⟩ := hf { strandOf s b with str := x }
    rw [hab, hx, hy]
    exact ⟨y, hrep'.trans hrep, rfl⟩
  · exact h.strand b

@[simp] theorem setMon_rep (x : StrRegs) (k : Nat) (w : Word) : (x.setMon k w).rep = x.rep := by unfold StrRegs.setMon; split <;> rfl

theorem WrittenBack.rouse (h : WrittenBack s t) (a : Agent) : WrittenBack s (rouse t a) := by
  unfold Machine.rouse
  split
  · exact h.of_strands rfl rfl rfl
  · exact h

theorem WrittenBack.hitLine (h : WrittenBack s t) (l : Nat) : WrittenBack s (hitLine t l) := by
  refine foldl_keeps (WrittenBack s) _ _ _ h fun t m ht => ?_
  split
  · exact (ht.modStr m.agent fun r => ⟨_, setMon_rep .., rfl⟩).rouse m.agent
  · exact ht

theorem WrittenBack.touchSlice (h : WrittenBack s t) (a : Agent) (pa : Nat) : WrittenBack s (touchSlice t a pa) := by
  unfold Machine.touchSlice
  split
  · refine h.modStr a fun r => ⟨_, ?_, rfl⟩
    split
    · rfl
    · split <;> rfl
  · exact h

theorem WrittenBack.putBy (h : WrittenBack s t) (na : Bool) (l : Nat) (b : Byte) : WrittenBack s (putBy na t l b) := by
  cases na
  · exact h.of_strands (putHome_strands ..) (putHome_cycle ..) (putHome_cur ..)
  · exact h.of_strands rfl rfl rfl

theorem WrittenBack.wordBits (h : WrittenBack s t) (ln : Line) (w : Nat) : WrittenBack s (wordBits t ln w) := by
  unfold Machine.wordBits
  split
  · exact h
  · exact h.of_strands (putBitsBy_strands ..) (putBitsBy_cycle ..) (putBitsBy_cur ..)

theorem WrittenBack.writeBack (h : WrittenBack s t) (ln : Line) : WrittenBack s (writeBack t ln) := by
  unfold Machine.writeBack
  split
  · exact h
  · have hbytes := foldl_keeps (WrittenBack s) (fun s i => Machine.putBy ln.na s (ln.line * 64 + i) (lineByte ln.data i))
      (positions 64 fun i => ln.dirty.getLsbD i) t h fun _ _ h => h.putBy ..
    have hbits := foldl_keeps (WrittenBack s) (fun s w => Machine.wordBits s ln w) (List.range 8) _ hbytes fun _ _ h => h.wordBits ..
    extract_lets u v
    have hhit : WrittenBack s v := hbits.hitLine _
    split
    · exact hhit.touchSlice ..
    · exact hhit

theorem cleanMine_writtenBack (s : State) : WrittenBack s (cleanMine s) :=
  (foldl_keeps (WrittenBack s) writeBack _ _ (.refl s) fun _ _ h => h.writeBack _).of_strands rfl rfl rfl

/-- The executing strand's record after a write-back. -/
theorem WrittenBack.me_eq (h : WrittenBack s t) : ∃ str : StrRegs, str.rep = (me s).str.rep ∧ me t = { me s with str := str } := by
  unfold me
  rw [h.cur]
  exact h.strand s.cur

/-! ## A fence issues (R124, R342) -/

/-- A destination depends on the executing strand's repetition alone. -/
theorem dstOf_of_rep (d : GDst) (h : (me t).str.rep = (me s).str.rep) : dstOf t d = dstOf s d := by
  cases d with
  | g n => simp only [dstOf, stagger, h]
  | discard => rfl

/-- Events that are posted for each element of a list join those scheduled, and nothing else changes. -/
theorem foldl_post {α : Type} (g : State → α → Nat) (i : α → Instr) (xs : List α) (s : State) :
    ∃ q, xs.foldl (fun s x => post s (g s x) (i x)) s = { s with sched := q } ∧ (∀ e ∈ s.sched, e ∈ q) ∧ ∀ x ∈ xs, ∃ c, (c, i x) ∈ q := by
  induction xs generalizing s with
  | nil => exact ⟨s.sched, rfl, fun _ he => he, nofun⟩
  | cons x xs ih =>
    obtain ⟨q, hq, hkept, hnew⟩ := ih (post s (g s x) (i x))
    refine ⟨q, hq, fun e he => hkept e ((mem_post_sched ..).mpr (.inr he)), List.forall_mem_cons.mpr ⟨⟨s.cycle + g s x, ?_⟩, hnew⟩⟩
    exact hkept _ ((mem_post_sched ..).mpr (.inl rfl))

theorem wentOn_emptyDst_sched (len : Nat) (s : State) (d : Option Nat) : (wentOn len (emptyDst s d)).sched = s.sched := by cases d <;> rfl

/-- An instruction that leaves its destination empty marks the executing strand's registers and moves its pc on, no more. -/
theorem me_wentOn_emptyDst (len : Nat) (s : State) (d : Option Nat) :
    ∃ es, me (wentOn len (emptyDst s d)) = advanced { me s with empties := es } len ∧ ∀ n, d = some n → shas es n = true := by
  cases d with
  | none => exact ⟨(me s).empties, me_modStrand_cur .., nofun⟩
  | some n =>
    refine ⟨sadd (me s).empties n, ?_, ?_⟩
    · exact (me_modStrand_cur ..).trans (congrArg (advanced · len) (me_modStrand_cur s fun r => r.markEmpty n))
    · rintro _ ⟨⟩
      exact isEmpty_markEmpty_self (me s) n

@[simp] theorem advanced_fence (r : Strand) (len : Nat) : (advanced r len).fence = r.fence := by
  obtain ⟨_, _, _, h⟩ := advanced_frame r len; rw [h]

/-- The slices that a fence of a scope probes: those touched, for scopes d and s of a compute strand (R125). -/
def probed (s : State) (scope : Nat) : List Nat := if s.cur.kind = .compute ∧ 2 ≤ scope then touchedSlices (me (cleanMine s)).str else []

/-- The record of a fence in progress from its issue on. -/
def started (s : State) (scope : Nat) (d : GDst) (ready : Nat) : FenceRec := ⟨scope, dstOf s d, probed s scope, ready, false⟩

/-- A fence that issues: the lines written back and the echoes scheduled, its record, the destination empty. -/
theorem fenceOp_next {d : GDst} (h : Open s (gdstUse s d)) (scope : Nat) :
    ∃ v ready, fenceOp scope d s
        = .next (wentOn 4 (emptyDst (modStrand v v.cur fun r => { r with fence := some (started s scope d ready) }) (dstOf s d)))
      ∧ WrittenBack s v ∧ s.cycle < ready ∧ ∀ x ∈ probed s scope, ∃ c, (c, Instr.fenceEcho s.cur x) ∈ v.sched := by
  obtain ⟨q, hq, -, hecho⟩ := foldl_post
    (fun u p => sweepTime s (ownLine s s.cur) + if sameDie u s.cur p then Config.lat.llcNear else Config.lat.llcFar) (Instr.fenceEcho s.cur)
    (probed s scope) (cleanMine s)
  have hback : WrittenBack s { cleanMine s with sched := q } := (cleanMine_writtenBack s).of_strands rfl rfl rfl
  refine ⟨_, s.cycle + sweepTime s (ownLine s s.cur) + 1, ?_, hback, by omega, hecho⟩
  unfold fenceOp
  rw [issue_full h.1, eventGate_open h]
  extract_lets a w u ps v z
  have hv : v = { cleanMine s with sched := q } := hq
  rw [← hv] at hback ⊢
  obtain ⟨str, hrep, hme⟩ := hback.me_eq
  have hcur : a = v.cur := hback.cur.symm
  have hrepV : (me v).str.rep = (me s).str.rep := by rw [hme]; exact hrep
  have hrepZ : (me z).str.rep = (me s).str.rep := by unfold z; rw [hcur, me_modStrand_cur]; exact hrepV
  rw [dstOf_of_rep d hrepZ]
  unfold z
  rw [dstOf_of_rep d hrepV, hback.cycle, hcur]
  rfl

/-- Where a fence issues: its record, its destination empty, the echoes on their way, the registers as they were. -/
theorem fenceOp_issues {d : GDst} (h : Open s (gdstUse s d)) (scope : Nat) :
    ∃ t ready, fenceOp scope d s = .next t ∧ (me t).fence = some (started s scope d ready) ∧ s.cycle < ready
      ∧ (∀ n, dstOf s d = some n → (me t).isEmpty n = true) ∧ (∀ n, (me t).reg n = (me s).reg n)
      ∧ ∀ x ∈ probed s scope, ∃ c, (c, Instr.fenceEcho s.cur x) ∈ t.sched := by
  obtain ⟨v, ready, hnext, hback, hready, hecho⟩ := fenceOp_next h scope
  obtain ⟨str, -, hme⟩ := hback.me_eq
  obtain ⟨es, hes, hempty⟩ := me_wentOn_emptyDst 4 (modStrand v v.cur fun r => { r with fence := some (started s scope d ready) }) (dstOf s d)
  rw [me_modStrand_cur, hme] at hes
  refine ⟨_, ready, hnext, ?_, hready, fun n hn => ?_, fun n => ?_, ?_⟩
  · rw [hes, advanced_fence]
  · rw [hes, advanced_isEmpty]; exact hempty n hn
  · rw [hes, advanced_reg]; rfl
  · rw [wentOn_emptyDst_sched]; exact hecho

theorem exec_fence (d : GDst) (s : State) :
    ∀ p ∈ [(Instr.fenceQ d, 0), (.fenceT d, 1), (.fenceD d, 2), (.fenceS d, 3)], exec p.1 s = fenceOp p.2 d s := by
  simp only [List.forall_mem_cons]
  exact ⟨rfl, rfl, rfl, rfl, List.forall_mem_nil _⟩

/-- For a strand that is not on a compute core it makes no difference whose lines have been written back: no slice is probed. -/
theorem touchedSlices_eq_probed (s : State) (scope : Nat) :
    (if s.cur.kind = .compute ∧ 2 ≤ scope then touchedSlices (me (if s.cur.kind = .compute then cleanMine s else s)).str else []) = probed s scope := by
  unfold probed
  split
  · next h => rw [if_pos h.1]
  · rfl

/-! ## Echoes and completion (R124, R125) -/

theorem exec_fenceEcho (a : Agent) (x : Nat) (s : State) : exec (.fenceEcho a x) s = execFenceEcho a x s := rfl

/-- The echo of a slice where a request of the agent waits comes again a cycle later. -/
theorem fenceEcho_waiting {a : Agent} {x : Nat} (h : (waitingOf s a).any (fun q => q.home = x) = true) :
    exec (.fenceEcho a x) s = .next (post s 1 (.fenceEcho a x)) := by
  rw [exec_fenceEcho, execFenceEcho, if_pos h]

/-- The fence's record without a slice that has answered. -/
def FenceRec.answered (f : FenceRec) (x : Nat) : FenceRec := { f with slices := f.slices.filter (· ≠ x) }

/-- The state once a slice of a fence has answered. -/
def echoNoted (s : State) (a : Agent) (x : Nat) (f : FenceRec) : State := modStrand s a fun r => { r with fence := some (f.answered x) }

theorem strandOf_echoNoted (s : State) (a : Agent) (x : Nat) (f : FenceRec) :
    strandOf (echoNoted s a x f) a = { strandOf s a with fence := some (f.answered x) } := strandOf_modStrand_self ..

/-- An echo where no request of the agent waits is noted; the fence completes where its waits are over. -/
theorem fenceEcho_noted {a : Agent} {x : Nat} {f : FenceRec} (hf : (strandOf s a).fence = some f)
    (h : (waitingOf s a).any (fun q => q.home = x) = false) :
    exec (.fenceEcho a x) s = .next (pollFence (echoNoted s a x f) a) := by
  rw [exec_fenceEcho, execFenceEcho, if_neg (by rw [h]; exact Bool.false_ne_true)]
  simp only [echoNoted, modStrand, hf]
  rfl

theorem pollFence_over {a : Agent} {f : FenceRec} (hf : (strandOf s a).fence = some f) (h : fenceOver s a f = true) :
    pollFence s a = completeFence s a f := by
  simp only [pollFence, hf, if_pos h]

/-- The record of a strand with no fence in progress any more; the touched-slice masks clear for scopes d and s. -/
def unfenced (scope : Nat) (r : Strand) : Strand :=
  { r with fence := none, str := if 2 ≤ scope then { r.str with tsm0 := 0, tsm1 := 0, tsm2 := 0 } else r.str }

/-- The record of a strand whose fence has completed: the destination has its status. -/
def fenceDone (f : FenceRec) (r : Strand) : Strand :=
  match f.dst with | some n => (unfenced f.scope r).setReg n (if f.lost then 12 else 0) | none => unfenced f.scope r

/-- A fence that completes changes its strand's record and wakes the strand; the turns of its core aside, nothing else changes. -/
theorem completeFence_frame (s : State) (a : Agent) (f : FenceRec) :
    ∃ run boost cs, completeFence s a f = { putStrand s a { fenceDone f (strandOf s a) with run := run, boost := boost } with cores := cs } := by
  have heq : completeFence s a f = match (strandOf (putStrand s a (fenceDone f (strandOf s a))) a).run with
    | .parked .fence => makeReady (putStrand s a (fenceDone f (strandOf s a))) a
    | _ => putStrand s a (fenceDone f (strandOf s a)) := rfl
  rw [heq]
  split
  · exact ⟨.ready, false, _, by unfold makeReady; rw [modStrand_putStrand]; rfl⟩
  · exact ⟨_, _, _, rfl⟩

/-- The strand's record after the completion. -/
theorem strandOf_completeFence (s : State) (a : Agent) (f : FenceRec) :
    ∃ run boost, strandOf (completeFence s a f) a = { fenceDone f (strandOf s a) with run := run, boost := boost } := by
  obtain ⟨run, boost, cs, h⟩ := completeFence_frame s a f
  exact ⟨run, boost, by rw [h]; exact strandOf_putStrand_self ..⟩

theorem sameMemory_completeFence (s : State) (a : Agent) (f : FenceRec) : SameMemory s (completeFence s a f) := by
  obtain ⟨run, boost, cs, h⟩ := completeFence_frame s a f
  rw [h]
  exact fun _ => ⟨rfl, rfl, rfl, rfl⟩

theorem fenceDone_fence (f : FenceRec) (r : Strand) : (fenceDone f r).fence = none := by unfold fenceDone; split <;> rfl

theorem fenceDone_str (f : FenceRec) (r : Strand) : (fenceDone f r).str = (unfenced f.scope r).str := by unfold fenceDone; split <;> rfl

theorem fenceDone_masks {f : FenceRec} (h : 2 ≤ f.scope) (r : Strand) :
    (fenceDone f r).str.tsm0 = 0 ∧ (fenceDone f r).str.tsm1 = 0 ∧ (fenceDone f r).str.tsm2 = 0 := by
  rw [fenceDone_str, unfenced, if_pos h]; exact ⟨rfl, rfl, rfl⟩

theorem fenceDone_dst {f : FenceRec} {n : Nat} (h : f.dst = some n) (r : Strand) :
    (fenceDone f r).reg n = (if f.lost then 12 else 0) ∧ (fenceDone f r).isEmpty n = false := by
  simp only [fenceDone, h]; exact ⟨reg_setReg_self .., isEmpty_setReg_self ..⟩

theorem fenceDone_reg {f : FenceRec} {n : Nat} (h : f.dst ≠ some n) (r : Strand) : (fenceDone f r).reg n = r.reg n := by
  unfold fenceDone
  split
  · next m hm => rw [reg_setReg, if_neg (by rintro rfl; exact h hm)]; rfl
  · rfl

/-- The last echo of a fence whose other waits are over completes it. -/
theorem fenceEcho_last {a : Agent} {x : Nat} {f : FenceRec} (hf : (strandOf s a).fence = some f)
    (h : (waitingOf s a).any (fun q => q.home = x) = false)
    (hover : fenceOver (echoNoted s a x f) a (f.answered x) = true) :
    exec (.fenceEcho a x) s = .next (completeFence (echoNoted s a x f) a (f.answered x)) := by
  rw [fenceEcho_noted hf h, pollFence_over (congrArg Strand.fence (strandOf_echoNoted s a x f)) hover]

/-! ## The statement -/

/-- Settles O15: a fence issues by `fenceOp_issues`, whose lines written back leave the registers (`cleanMine_writtenBack`); an echo by whether a
request still waits at its slice, the last one through what a completion leaves (`completeFence_frame`). -/
theorem fences : Obligations.Fences := by
  refine ⟨fun s d hopen p hp => ?issues, fun s a x f hf => ⟨fenceEcho_waiting, fun hwait hover => ⟨_, fenceEcho_last hf hwait hover, ?completes⟩⟩⟩
  case issues =>
    rw [exec_fence d s p hp, touchedSlices_eq_probed]
    exact fenceOp_issues hopen p.2
  case completes =>
    obtain ⟨run, boost, ht⟩ := strandOf_completeFence (echoNoted s a x f) a (f.answered x)
    rw [strandOf_echoNoted] at ht
    rw [ht]
    exact ⟨fenceDone_fence .., fun hscope => fenceDone_masks (f := f.answered x) hscope _, fun n hn => fenceDone_dst (f := f.answered x) hn _,
      fun n hn => fenceDone_reg (f := f.answered x) hn _, sameMemory_completeFence (echoNoted s a x f) a (f.answered x)⟩

end Sys2Proof.Machine
end
